-- ==== Sys2Proof/Word.lean ====
section
/-! DEFINITION. The word types of the block (R7: registers are 64 bits wide, multi-byte fields little-endian), the
association table every sparse piece of state is kept in, and the type of a byte-addressed memory. -/

namespace Sys2Proof

/-- A 64-bit register or address-register word (R7, R204). -/
abbrev Word := BitVec 64

/-- A byte of Deck, device memory, flash or host memory. -/
abbrev Byte := BitVec 8

/-- Numbered things of one kind (stands, ports, notches …): index and value, indices rising. An index not listed holds
the kind's reset value, which the reader names. -/
abbrev Tab (α : Type) := List (Nat × α)

/-- A byte-addressed memory in its canonical form: addresses strictly rising, no entry equal to zero, which is what an
unlisted address reads as (notes/assumptions/1.md). -/
abbrev Mem := List Host.Cell

end Sys2Proof
end

