-- ==== Sys2Proof/Syntax.lean ====
section
/-! DEFINITION. The commands of the block: one constructor for each row of spec/opcode_table.json, with the operands that
the row's rule gives it. A command is a write to one of the device's registers, an instruction issued by one of its
streams, something that arrives at one of its ports or pins, or an event of its own that ends a piece of its work. What travels
over the fabric and the links stands here too, since commands carry it. -/

namespace Sys2Proof

/-- The common fields of an instruction word (R192): earliest issue cycle, counters waited on with the amount less 1, and
counters posted at completion; 0 names no counter. `parity` is the environment's: the store of which a read for this
instruction fails its parity (R525): 0 cut lists, 1 descriptors, 2 slot table, 3 route table. -/
structure Hdr where
  stamp : Nat := 0
  wt : Nat := 0
  wtn : Nat := 0
  wc : Nat := 0
  wcn : Nat := 0
  pt : Nat := 0
  pc : Nat := 0
  parity : Option Nat := none
  deriving DecidableEq, Repr

/-- The operand fields of an Edger compute operation (R215): slots, the bits that put the immediate in a slot's place, FN,
element count N, IMM, and for ED_TOPKF the count k. `bad` is the environment's: KIND of R120 (0 residue, 1 table) and the
failing lanes of a fault in the lanes (R117). -/
structure EdOp where
  hdr : Hdr := {}
  d : Nat := 0
  a : Nat := 0
  b : Nat := 0
  c : Nat := 0
  ai : Bool := false
  bi : Bool := false
  ci : Bool := false
  fn : Nat := 0
  n : Nat := 1
  imm : Nat := 0
  k : Nat := 1
  bad : Option (Nat × List Nat) := none
  deriving DecidableEq, Repr

namespace Machine

/-- Where a flit or packet stands: a stand's node, the hub bridge, an edge switch (0 die A north, 1 A south, 2 B north,
3 B south), a controller port (2s + j for stack s, 24 + p for package p), an Aelel egress, a hub unit by its bridge port
(44 to 48), or delivered at a stand on output L. -/
inductive Loc where
  | node (st : Nat)
  | bridge
  | edge (k : Nat)
  | ctrl (port : Nat)
  | aelel (port : Nat)
  | unit (port : Nat)
  | stand (st : Nat)
  deriving DecidableEq, Repr

/-- The payload of a CONTROL packet (R533): CMD 1 ARM, 2 GO, 3 CONFIRM; LW and LH as widths, not less 1. -/
structure Ctl where
  cmd : Nat := 0
  tag : Nat := 0
  start : Nat := 0
  plan : Nat := 0
  count : Nat := 0
  failLid : Nat := 0
  first : Nat := 0
  lw : Nat := 1
  lh : Nat := 1
  rootX : Nat := 0
  rootY : Nat := 0
  order : Bool := false
  rail : Nat := 0
  ok : Bool := false
  resume : Bool := false
  deriving DecidableEq, Repr

/-- Requester tag of a packet: what its reply completes. -/
structure Tag where
  st : Nat
  op : Nat
  /-- Deck offset and bytes of the RET element, if any, and the width in bytes of the value that comes back (R216) -/
  ret : Option (Int × Nat)
  width : Nat := 8
  deriving DecidableEq, Repr

/-- Packet payloads (R239). -/
inductive Payload where
  | token (credit : Bool) (ctr amt : Nat) (suspect : Bool)
  | atomic (op : Nat) (off : Int) (operand : Nat) (tag : Tag)
  | atomReply (old : Nat) (suspect : Bool) (tag : Tag)
  | notch (op notch value : Nat) (tag : Tag)
  | notchReply (value md op status notch : Nat) (tag : Tag)
  | nack (packet : Bool) (ckt : Nat) (route : List Nat) (rail seq : Nat)
  | control (c : Ctl)
  deriving DecidableEq, Repr

/-- A packet (R235 to R238). -/
structure Packet where
  loc : Loc
  inPort : Nat
  /-- root time from which it can be forwarded -/
  ready : Nat
  srcDev : Nat := 0
  srcEnd : Loc
  seq : Nat := 0
  reply : Bool := false
  rail : Nat := 0
  /-- ROUTE, PTR, and RETURN by hops, the first hop first -/
  route : List Nat := []
  ptr : Nat := 0
  ret : List (List Nat) := []
  payload : Payload
  dom : Nat := 0
  /-- damaged on its way: it fails its check at its destination -/
  bad : Bool := false
  /-- sent in a resend entry (R244), and the end-to-end check value it carries (R242) -/
  resent : Bool := false
  crc : Nat := 0
  op : Option (Nat × Nat) := none
  deriving DecidableEq, Repr

/-- A frame of an Aelel link (R257), its CRC apart: FTYPE 0 IDLE, 1 CIRCUIT, 2 PACKETS, 3 VOID. -/
structure Frame where
  tag : Nat := 0
  lseq : Nat := 0
  ftype : Nat := 0
  half : Nat := 0
  ckt : Nat := 0
  seq : Nat := 0
  last : Bool := false
  resent : Bool := false
  suspect : Bool := false
  doff : Nat := 0
  dtok : Nat := 0
  be : Nat := 0
  dstDev : Nat := 0
  dstStand : Nat := 0
  payload : List Byte := []
  pkts : List Packet := []
  /-- the check value it carries (FCHK, R257) -/
  fchk : Nat := 0
  deriving DecidableEq, Repr

/-- A read that the device makes of host memory (R502): what it is for. -/
inductive HostRead where
  /-- the entry at a queue's CONS, or the prompt of the REQUEST there -/
  | entry (q : Nat)
  | prompt (q : Nat)
  /-- of an LD: the template of CREATE, the job entry at CONS, its source, its scales -/
  | template (ld : Nat)
  | job (ld : Nat)
  | source (ld : Nat)
  | scales (ld : Nat)
  /-- tickets of a REPLAY, from the journal ring's CONS on; the read-back of a build -/
  | tickets (ld : Nat)
  | readback (ld : Nat)
  deriving DecidableEq, Repr

/-- Fields of a DISCOVER block (R519). -/
structure Discover where
  phys : Nat := 0
  known : Bool := false
  isGm : Bool := false
  port : Nat := 0
  mode : Nat := 0
  nx : Nat := 0
  ny : Nat := 0
  gm : Nat := 0
  lenLog2 : Nat := 0
  deriving DecidableEq, Repr

/-- What boot finds outside the device and in its silicon (R478 to R481, R491, R518): GM_SEL_N asserted; reference edges within
100 ms; every hub unit passes its self-test; the seed that the PUF gives with the helper data of copy A and of copy B, none
where it lies beyond their correction capacity; the stands that fail the self-test, by physical row as a mask of positions;
the stacks and packages that train. -/
structure BootEnv where
  gm : Bool := false
  ref : Bool := true
  hub : Bool := true
  seedA : Option (List Byte) := none
  seedB : Option (List Byte) := none
  failed : List (Nat × Nat) := []
  hbmTrained : Nat := 0xFFF
  lpTrained : Nat := 0xFFFF
  deriving DecidableEq, Repr

end Machine

/-- A command: one constructor for each row of spec/opcode_table.json, in its order. -/
inductive Instr where
  -- Rings and plans (chapter 02). `d`: plan context, which is the LD and the domain; `st`: stand 32 × row + column.
  /-- RING_BOUNDARY (R41) -/
  | ringBoundary
  /-- LOAD (R60): the job tag and C of the command word (R69) -/
  | load (d tag c : Nat)
  /-- ARM (R62) -/
  | arm (d : Nat) (resume : Bool)
  /-- GO (R62) -/
  | go (d : Nat)
  /-- STOP (R60) -/
  | stop (d : Nat)
  /-- DISARM (R60) -/
  | disarm (d : Nat)
  /-- UNLOAD (R60) -/
  | unload (d : Nat)
  /-- ABORT (R53): an ABORT block on Aelel port `p` -/
  | abort (p tag step : Nat)
  /-- INSTRUCTION_COMPLETE (R203): `stream`: 0 Headrig, 1 Edger, 2 Skidder, 3 Flume gate -/
  | instructionComplete (st stream : Nat)
  -- Headrig (chapter 03).
  /-- HR_LOAD (R88): fields of R214; `arEn` and `areg` name an address register to add -/
  | hrLoad (st : Nat) (h : Hdr) (handle tile buf : Nat) (arEn : Bool) (areg : Nat)
  /-- HR_MUL (R88) -/
  | hrMul (st : Nat) (h : Hdr) (handle buf rows r0 : Nat) (init arEn : Bool) (areg : Nat)
  /-- HR_ADDX (R83) -/
  | hrAddx (st : Nat) (h : Hdr) (handle : Nat) (fp32 : Bool) (rows r0 : Nat) (init arEn : Bool) (areg : Nat)
  /-- HR_DRAIN (R79) -/
  | hrDrain (st : Nat) (h : Hdr) (handle rows r0 fmt : Nat) (sat : Bool) (adj : Int) (push : Bool) (tag : Nat) (arEn : Bool) (areg : Nat)
  /-- DRAIN_ROW_CHECK (R86) -/
  | drainRowCheck (st : Nat)
  /-- STAND_HR_INJECT (R96): `v`: the value written, of 64 bits -/
  | standHrInject (st v : Nat)
  -- Edger (chapter 04).
  /-- ED_OPEN (R100) -/
  | edOpen (st : Nat) (h : Hdr) (slot handle : Nat) (out wrap arEn : Bool) (areg : Nat)
  /-- ED_CLOSE (R100) -/
  | edClose (st : Nat) (h : Hdr) (slot : Nat)
  /-- ED_TAKE (R106) -/
  | edTake (st : Nat) (h : Hdr) (slot : Nat)
  /-- ED_FMA (R108) -/
  | edFma (st : Nat) (o : EdOp)
  /-- ED_ADD (R108) -/
  | edAdd (st : Nat) (o : EdOp)
  /-- ED_MUL (R108) -/
  | edMul (st : Nat) (o : EdOp)
  /-- ED_MIN (R108) -/
  | edMin (st : Nat) (o : EdOp)
  /-- ED_MAX (R108) -/
  | edMax (st : Nat) (o : EdOp)
  /-- ED_CMP (R108) -/
  | edCmp (st : Nat) (o : EdOp)
  /-- ED_CSEL (R108) -/
  | edCsel (st : Nat) (o : EdOp)
  /-- ED_CVT (R108) -/
  | edCvt (st : Nat) (o : EdOp)
  /-- ED_EXP2 (R108) -/
  | edExp2 (st : Nat) (o : EdOp)
  /-- ED_LOG2 (R108) -/
  | edLog2 (st : Nat) (o : EdOp)
  /-- ED_RCP (R108) -/
  | edRcp (st : Nat) (o : EdOp)
  /-- ED_RSQ (R108) -/
  | edRsq (st : Nat) (o : EdOp)
  /-- ED_TANH (R108) -/
  | edTanh (st : Nat) (o : EdOp)
  /-- ED_EXPD (R108) -/
  | edExpd (st : Nat) (o : EdOp)
  /-- ED_QMX (R113) -/
  | edQmx (st : Nat) (o : EdOp)
  /-- ED_RSUM (R111) -/
  | edRsum (st : Nat) (o : EdOp)
  /-- ED_RSSQ (R111) -/
  | edRssq (st : Nat) (o : EdOp)
  /-- ED_RMAX (R111) -/
  | edRmax (st : Nat) (o : EdOp)
  /-- ED_RMIN (R111) -/
  | edRmin (st : Nat) (o : EdOp)
  /-- ED_RCOMB (R112) -/
  | edRcomb (st : Nat) (o : EdOp)
  /-- ED_TOPKF (R114) -/
  | edTopkf (st : Nat) (o : EdOp)
  /-- STAND_ED_INJECT (R121) -/
  | standEdInject (st v : Nat)
  -- Skidder and Deck (chapters 05, 06).
  /-- SK_MOVE (R228): `sEn`, `sReg`, `dEn`, `dReg`: address registers of the two ends -/
  | skMove (st : Nat) (h : Hdr) (src dst : Nat) (sEn : Bool) (sReg : Nat) (dEn : Bool) (dReg dtok grain : Nat)
  /-- SK_ATOM (R140) -/
  | skAtom (st : Nat) (h : Hdr) (op tgt src ret : Nat) (arEn : Bool) (areg imm : Nat)
  /-- SK_OWN (R128) -/
  | skOwn (st : Nat) (h : Hdr) (owner mask : Nat)
  /-- SK_PWR (R152) -/
  | skPwr (st : Nat) (h : Hdr) (state mask : Nat)
  /-- BANK_TRANSITION_DONE (R151) -/
  | bankTransitionDone (st bank : Nat)
  /-- SK_SCRUB (R148) -/
  | skScrub (st : Nat) (h : Hdr) (first lines : Nat)
  /-- SK_BIN (R183) -/
  | skBin (st : Nat) (h : Hdr) (key list pos b : Nat)
  /-- STAND_DK_INJECT (R155) -/
  | standDkInject (st v : Nat)
  -- Cut lists (chapter 07).
  /-- NOP (R213): `k`: the stream that issues the instruction -/
  | nop (st k : Nat) (h : Hdr)
  /-- CL_RING (R189) -/
  | clRing (st k repeat_ : Nat)
  /-- LOOP (R208) -/
  | loop (st k : Nat) (src : Bool) (sh count stampStep : Nat)
  /-- LOOP_END (R208) -/
  | loopEnd (st k : Nat)
  /-- AR_SET (R213) -/
  | arSet (st k stamp rd imm : Nat)
  /-- AR_ADDI (R213) -/
  | arAddi (st k stamp rd ra imm : Nat)
  /-- AR_ADD (R213) -/
  | arAdd (st k stamp rd ra rb : Nat)
  /-- AR_SHL (R213) -/
  | arShl (st k stamp rd ra sh : Nat)
  /-- AR_SHR (R213) -/
  | arShr (st k stamp rd ra sh : Nat)
  /-- AR_MULI (R213) -/
  | arMuli (st k stamp rd ra imm : Nat)
  /-- AR_BND (R213) -/
  | arBnd (st k stamp rd ra : Nat) (clamp : Bool) (b : Nat)
  /-- AR_CONST (R206) -/
  | arConst (st k stamp rd sel : Nat)
  /-- FG_POST (R217) -/
  | fgPost (st : Nat) (h : Hdr) (credit : Bool) (ctr amt route : Nat)
  /-- FG_NOTCH (R217) -/
  | fgNotch (st : Nat) (h : Hdr) (op notch ret route value : Nat)
  -- Flume (chapter 08).
  /-- FLIT_FORWARD (R232): at a place and toward an output port; `parity`: the slot-table read fails its parity -/
  | flitForward (l : Machine.Loc) (out : Nat) (parity : Bool)
  /-- FLIT_ARRIVAL (R229): `corrupt`: the item was damaged on its way -/
  | flitArrival (st : Nat) (corrupt : Bool)
  /-- PACKET_FORWARD (R238): at a place and toward an output port -/
  | packetForward (l : Machine.Loc) (out : Nat)
  /-- TOKEN (R239) -/
  | token (l : Machine.Loc) (corrupt : Bool)
  /-- ATOMIC (R139) -/
  | atomic (st : Nat) (corrupt : Bool)
  /-- ATOM_REPLY (R239) -/
  | atomReply (st : Nat) (corrupt : Bool)
  /-- NACK (R244) -/
  | nack (l : Machine.Loc) (corrupt : Bool)
  /-- FLUME_RESEND (R244) -/
  | flumeResend (l : Machine.Loc) (out : Nat)
  /-- STAND_FL_INJECT (R250) -/
  | standFlInject (st v : Nat)
  -- Aelel links and ring time (chapter 09). `p`: port.
  /-- FRAME_RECEIVE (R264): the frame of link slot `slot`; `corr`: codewords corrected, `words`: not correctable, with which `lost` frames from this one on are lost -/
  | frameReceive (p slot : Nat) (f : Machine.Frame) (lost corr words : Nat)
  /-- RESEND_REQ (R265) -/
  | resendReq (p first count : Nat)
  /-- LINK_RESEND (R265) -/
  | linkResend (p : Nat)
  /-- RING_MARK (R276): fields of R258 and the arrival as a phase against the own count, in 1/128 cycle -/
  | ringMark (p ring gm hops : Nat) (locked : Bool) (arr : Int)
  /-- PROBE (R276): `time` and `turn` as the answering port finds them (R275) -/
  | probe (p time turn : Nat)
  /-- ECHO (R276): `sent` and `arr` as the asking port finds them (R275) -/
  | echo (p sent arr turn : Nat)
  /-- DISCOVER (R520) -/
  | discover (p : Nat) (b : Machine.Discover)
  /-- TWIN (R444): a TWIN block: ring and digest -/
  | twin (p ring dig : Nat)
  /-- TWIN_COMPARE (R445) -/
  | twinCompare (d : Nat)
  /-- LANE_LOCK_LOSS (R254) -/
  | laneLockLoss (p : Nat)
  /-- RETRAIN (R254): `ld`: the LD that commands it, none for the management port -/
  | retrain (p : Nat) (ld : Option Nat)
  /-- DOWN (R254) -/
  | down (p : Nat) (ld : Option Nat)
  /-- LINK_TRAINED (R254): `flight` in 1/128 cycle; `ok`: training succeeded -/
  | linkTrained (p flight : Nat) (ok : Bool)
  /-- REF_LOST (R279) -/
  | refLost
  /-- AEL_MAP_DATA (R272) -/
  | aelMapData (d v : Nat)
  -- Notches and queues (chapter 10).
  /-- NOTCH_ADD (R288): the packet at the Notch bank -/
  | notchAdd (corrupt : Bool)
  /-- NOTCH_SET (R288) -/
  | notchSet (corrupt : Bool)
  /-- NOTCH_READ (R288) -/
  | notchRead (corrupt : Bool)
  /-- NOTCH_WAIT_GE (R293) -/
  | notchWaitGe (corrupt : Bool)
  /-- NOTCH_REPLY (R298) -/
  | notchReply (st : Nat) (corrupt : Bool)
  /-- HOST_NOTCH_SET (R299): a write of LD `ld` to notch `n` -/
  | hostNotchSet (ld n v : Nat)
  /-- HOST_NOTCH_ADD (R299) -/
  | hostNotchAdd (ld n v : Nat)
  /-- HOST_NOTCH_MODE (R299) -/
  | hostNotchMode (ld n v : Nat)
  /-- ENABLE (R307) -/
  | enable (d q : Nat)
  /-- DISABLE (R307) -/
  | disable (d q : Nat)
  /-- RESUME (R307) -/
  | resume (d q : Nat)
  /-- QUEUE_RESET (R307) -/
  | queueReset (d q : Nat)
  /-- QCTX_DOORBELL (R308): `v`: the value written -/
  | qctxDoorbell (d v : Nat)
  /-- QCTX_DATA (R310) -/
  | qctxData (d v : Nat)
  /-- REQUEST (R373): the entry at CONS of queue `q` -/
  | request (q : Nat)
  /-- WAIT (R304) -/
  | wait (q : Nat)
  /-- SIGNAL (R302) -/
  | signal (q : Nat)
  /-- BIND (R302) -/
  | bind (q : Nat)
  /-- CANCEL (R302) -/
  | cancel (q : Nat)
  /-- QUEUE_WAIT_RELEASE (R304) -/
  | queueWaitRelease (q : Nat)
  /-- WAIT_EXPIRED (R305) -/
  | waitExpired (q : Nat)
  -- Memory tiers (chapter 11).
  /-- REQUEST_FLIT (R322): at controller port `p` -/
  | requestFlit (p : Nat) (corrupt : Bool)
  /-- MEM_READ_ENTRY (R325): a slot-table entry of unit `u` (stack, or 16 + package), of channel half `half` -/
  | memReadEntry (u half : Nat)
  /-- MEM_WRITE_ENTRY (R325) -/
  | memWriteEntry (u half : Nat)
  /-- SELF_REFRESH_ENTRY (R339) -/
  | selfRefreshEntry (u : Nat)
  -- Weight sets and the Bucker (chapter 12). `idx`: set entry.
  /-- CREATE (R345) -/
  | create (d : Nat)
  /-- SEAL (R346): `hostJobs`: the sets that the unconsumed entries of a job ring in host memory name -/
  | sealSet (d idx : Nat) (hostJobs : List Nat)
  /-- SWITCH (R348) -/
  | switch (d idx : Nat)
  /-- DRAIN (R353) -/
  | drain (d m : Nat)
  /-- RELEASE (R346) -/
  | release (d idx : Nat) (hostJobs : List Nat)
  /-- JOB_RESUME (R361) -/
  | jobResume (d : Nat)
  /-- BUCK_JOB_DOORBELL (R354) -/
  | buckJobDoorbell (d v : Nat)
  /-- CONVERT (R356): `selfBad`: the self-check finds a mismatch (R360) -/
  | convert (d : Nat) (selfBad : Bool)
  /-- COPY (R366) -/
  | copy (d : Nat)
  /-- ADAPTER (R364) -/
  | adapter (d : Nat) (selfBad : Bool)
  /-- BUCKER_JOB_COMPLETE (R355) -/
  | buckerJobComplete (d : Nat)
  -- Landing (chapter 13).
  /-- BUILD (R375) -/
  | build (d : Nat)
  /-- TICKET_READBACK_COMPLETE (R376) -/
  | ticketReadbackComplete (d : Nat)
  /-- STEP_RECORD (R394) -/
  | stepRecord (d : Nat)
  /-- LND_OUT_IDX (R395) -/
  | lndOutIdx (d v : Nat)
  /-- LND_OUT_BASE (R389) -/
  | lndOutBase (d v : Nat)
  /-- LND_OUT_CFG (R389) -/
  | lndOutCfg (d v : Nat)
  /-- LND_OUT_WB (R395) -/
  | lndOutWb (d v : Nat)
  -- Grader (chapter 14).
  /-- GRADER_LOAD (R402) -/
  | graderLoad (d : Nat)
  /-- GRADER_UNLOAD (R402) -/
  | graderUnload (d h : Nat)
  /-- DRAFT (R413): `bad`: positions whose self-check finds a mismatch (R415) -/
  | draft (d : Nat) (bad : List Nat)
  /-- VERIFY (R415) -/
  | verify (d : Nat) (bad : List Nat)
  /-- GRADER_PHASE_COMPLETE (R418) -/
  | graderPhaseComplete (d : Nat)
  -- Tallies and the journal (chapter 15).
  /-- SIGNATURE (R434) -/
  | signature (d : Nat)
  /-- TALLY_SIGN_CMD (R434) -/
  | tallySignCmd (d v : Nat)
  /-- TALLY_RING_BASE (R452) -/
  | tallyRingBase (d v : Nat)
  /-- TALLY_RING_CFG (R452) -/
  | tallyRingCfg (d v : Nat)
  /-- TALLY_RING_IDX (R435) -/
  | tallyRingIdx (d v : Nat)
  /-- TALLY_SIGN_CFG (R452) -/
  | tallySignCfg (d v : Nat)
  /-- TALLY_JRN_BASE (R452) -/
  | tallyJrnBase (d v : Nat)
  /-- TALLY_JRN_CFG (R440) -/
  | tallyJrnCfg (d v : Nat)
  /-- TALLY_JRN_IDX (R452) -/
  | tallyJrnIdx (d v : Nat)
  /-- TALLY_EVT_BASE (R452) -/
  | tallyEvtBase (d v : Nat)
  /-- TALLY_EVT_CFG (R450) -/
  | tallyEvtCfg (d v : Nat)
  /-- TALLY_EVT_IDX (R452) -/
  | tallyEvtIdx (d v : Nat)
  /-- TALLY_TWIN_CFG (R443) -/
  | tallyTwinCfg (d v : Nat)
  -- Compartments and power (chapter 16).
  /-- STRETCH (R459): compartment `k` -/
  | stretch (k : Nat)
  /-- TEMP_SAMPLE (R468): readings of compartments, stacks and rails, in order -/
  | tempSample (tj hbm rails : List Nat)
  -- Boot and the image (chapter 17).
  /-- RESET_RELEASE (R478): `e`: what boot finds -/
  | resetRelease (e : Machine.BootEnv)
  /-- COLD_RESET (R550) -/
  | coldReset
  /-- RAIL_UNDERVOLT (R551) -/
  | railUndervolt
  /-- PWR_WARN (R539) -/
  | pwrWarn
  /-- PWR_WARN_RELEASE (R552) -/
  | pwrWarnRelease
  /-- UPDATE_BEGIN (R494): `tag`: TAG of the message (R511) -/
  | updateBegin (tag : Nat)
  /-- UPDATE_WRITE (R494) -/
  | updateWrite (tag off : Nat) (bs : List Byte)
  /-- UPDATE_COMMIT (R494): `seed`: what the PUF gives with the helper data of the new copy -/
  | updateCommit (tag : Nat) (hdr : List Byte) (seed : Option (List Byte))
  /-- UPDATE_ABORT (R494) -/
  | updateAbort (tag : Nat)
  -- The management port (chapters 17 and 18).
  /-- GET_STATUS (R512) -/
  | getStatus (tag : Nat)
  /-- READ_REG (R512): `dom`: DOMAIN, 0xFF for device-wide instances -/
  | readReg (tag dom off count : Nat)
  /-- WRITE_REG (R514) -/
  | writeReg (tag dom off v : Nat)
  /-- READ_TALLY (R512) -/
  | readTally (tag ctx back : Nat)
  /-- READ_LEDGER (R512) -/
  | readLedger (tag idx : Nat)
  /-- READ_LOG (R512) -/
  | readLog (tag idx : Nat)
  /-- RESET (R515) -/
  | reset (tag : Nat) (e : Machine.BootEnv)
  /-- RESET_FLUSH (R515) -/
  | resetFlush (tag : Nat) (e : Machine.BootEnv)
  /-- MCTP_CONTROL (R511): `eid`: an endpoint ID that the message sets -/
  | mctpControl (eid : Option Nat)
  /-- SETDASA (R510) -/
  | setdasa (addr dyn : Nat)
  /-- ENTDAA (R510) -/
  | entdaa (dyn : Nat)
  /-- GET_VERSION (R492) -/
  | getVersion
  /-- GET_CAPABILITIES (R492) -/
  | getCapabilities
  /-- NEGOTIATE_ALGORITHMS (R492) -/
  | negotiateAlgorithms
  /-- GET_DIGESTS (R492) -/
  | getDigests
  /-- GET_CERTIFICATE (R492) -/
  | getCertificate (slot off len : Nat)
  /-- CHALLENGE (R492) -/
  | challenge (nonce : List Byte)
  /-- GET_MEASUREMENTS (R493): `idx`: 0 asks for the count, 0xFF for all -/
  | getMeasurements (idx : Nat) (signed : Bool) (nonce : List Byte)
  /-- KEY_EXCHANGE (R492) -/
  | keyExchange (share : List Byte)
  /-- FINISH (R492): `ok`: the verification data of the requester match -/
  | finish (ok : Bool)
  /-- END_SESSION (R492) -/
  | endSession
  /-- VENDOR_DEFINED_REQUEST (R504): the stream whose key IDE_KM programs: none for CXL.cachemem, or that of an LD -/
  | vendorDefinedRequest (ld : Option Nat)
  -- The host port (chapter 18).
  /-- PERST_N (R503) -/
  | perstN
  /-- HOT_RESET (R503) -/
  | hotReset (e : Machine.BootEnv)
  /-- FLR (R503) -/
  | flr (d : Nat)
  /-- HOST_LINK_DOWN (R503) -/
  | hostLinkDown
  /-- CXL_MEM_ACCESS (R500): `off`: offset in the HDM range of LD `d`; `be`: byte enables -/
  | cxlMemAccess (d off : Nat) (write : Bool) (be : Nat) (bs : List Byte)
  /-- SNOOP (R499) -/
  | snoop
  /-- HOST_READ_COMPLETION (R502): `data`: none where the read completes with an error -/
  | hostReadCompletion (w : Machine.HostRead) (data : Option (List Byte))
  /-- HOST_READ_TIMEOUT (R502) -/
  | hostReadTimeout (w : Machine.HostRead)
  /-- MSIX_UNMASK (R509) -/
  | msixUnmask (ld v : Nat)
  -- Repair, broadcast and the test port (chapters 19 and 20).
  /-- SHIFT (R527): `row`: 16 × die + physical row -/
  | shift (d row pos : Nat)
  /-- ROW_SHIFTED (R527) -/
  | rowShifted
  /-- START (R531) -/
  | start (d : Nat) (resume : Bool)
  /-- ABANDON (R542) -/
  | abandon (d : Nat)
  /-- CONTROL_ARM (R534) -/
  | controlArm (corrupt : Bool)
  /-- CONTROL_GO (R535) -/
  | controlGo (corrupt : Bool)
  /-- CONFIRM (R534) -/
  | confirm (corrupt : Bool)
  /-- EXTEST (R556) -/
  | extest
  /-- BYPASS (R556) -/
  | bypass (e : Machine.BootEnv)
  /-- IDCODE (R556) -/
  | idcode (e : Machine.BootEnv)
  /-- SAMPLE_PRELOAD (R556) -/
  | samplePreload (e : Machine.BootEnv)
  -- Register writes and events of the pins.
  /-- REGISTER_WRITE (R9): `bar` 0 or 2; `jobs` as for SEAL -/
  | registerWrite (ld bar off v : Nat) (jobs : List Nat)
  /-- PERST_N_DEASSERT (R550) -/
  | perstNDeassert (e : Machine.BootEnv)
  /-- HOST_LINK_UP (R503): SPEED and log2 of the width, as SEC_HOST_STATUS has them -/
  | hostLinkUp (speed width : Nat)
  /-- REFERENCE_RETURN (R280) -/
  | referenceReturn
  /-- PWR_WARN_HALT (R539) -/
  | pwrWarnHalt
  /-- CONTROL_BLOCK_CHECK_FAIL (R259) -/
  | controlBlockCheckFail (p : Nat)
  /-- IDE_CHECK_FAIL (R504) -/
  | ideCheckFail
  /-- FABRIC_MANAGER_COMMAND (R498): `binding`: asks for the binding of LDs, otherwise for LD counts -/
  | fabricManagerCommand (binding : Bool)
  /-- PROMPT_STAGED (R373) -/
  | promptStaged (q : Nat)
  /-- TRST_N (R556) -/
  | trstN (e : Machine.BootEnv)
  deriving DecidableEq, Repr

end Sys2Proof
end

