-- ==== Sys2Proof/Decode.lean ====
section
/-! DEFINITION. Decoding a command from a word. The block takes commands at its ports and pins and decodes no instruction words; no row
of spec/opcode_table.json gives a command any bits. -/

namespace Sys2Proof

/-- The command that a word of `nbits` bits spells by the table: none, since the table gives no row bits. -/
def decodeTableWord (_nbits _w : Nat) : Option Instr := none

end Sys2Proof
end

