-- ==== Sys2Proof/Machine/Bits.lean ====
section
/-! DEFINITION. Bit fields (R6: a field [hi:lo] includes both ends) and little-endian byte strings (R7). -/

namespace Sys2Proof.Machine

/-- The field [hi:lo] of a number (R6). -/
def fld (n hi lo : Nat) : Nat := n / 2 ^ lo % 2 ^ (hi + 1 - lo)

/-- Bit `i` of a number. -/
def bit (n i : Nat) : Bool := n.testBit i

/-- A field value placed at bit `lo`. -/
def at_ (v lo : Nat) : Nat := v * 2 ^ lo

/-- A flag placed at bit `i`. -/
def flag (b : Bool) (i : Nat) : Nat := if b then 2 ^ i else 0

/-- A number cut to `w` bits. -/
def trunc (w n : Nat) : Nat := n % 2 ^ w

/-- Two's complement reading of the low `w` bits. -/
def sext (w n : Nat) : Int := if n % 2 ^ w < 2 ^ (w - 1) then (n % 2 ^ w : Nat) else (n % 2 ^ w : Nat) - (2 ^ w : Nat)

/-- The `w`-bit two's complement code of an integer, wrapped. -/
def wrapInt (w : Nat) (i : Int) : Nat := (i % (2 ^ w : Nat)).toNat

/-- `k` bytes of a number, least significant first (R7). -/
def leBytes : Nat → Nat → List Byte
  | 0, _ => []
  | k + 1, n => BitVec.ofNat 8 n :: leBytes k (n / 256)

/-- The number a little-endian byte string holds (R7). -/
def ofLe : List Byte → Nat
  | [] => 0
  | b :: bs => b.toNat + 256 * ofLe bs

/-- `k` bytes of a number, most significant first. -/
def beBytes (k n : Nat) : List Byte := (leBytes k n).reverse

/-- The number a big-endian byte string holds. -/
def ofBe (bs : List Byte) : Nat := ofLe bs.reverse

/-- `n` zero bytes. -/
def zeros (n : Nat) : List Byte := List.replicate n 0

/-- Bytes `lo` to `lo + n - 1` of a string; bytes past its end read as zero. -/
def slice (bs : List Byte) (lo n : Nat) : List Byte :=
  let t := (bs.drop lo).take n
  t ++ zeros (n - t.length)

/-- The little-endian number in bytes `lo` to `lo + n - 1`. -/
def num (bs : List Byte) (lo n : Nat) : Nat := ofLe (slice bs lo n)

/-- A string padded with zeros, or cut, to `n` bytes. -/
def padTo (n : Nat) (bs : List Byte) : List Byte := slice bs 0 n

/-- A field map: (byte offset, byte count, value) rows written into a string of `n` bytes, the others zero. -/
def layout (n : Nat) : List (Nat × Nat × Nat) → List Byte
  | [] => zeros n
  | (o, k, v) :: rs => let t := layout n rs; (t.take o ++ leBytes k v ++ t.drop (o + k)).take n

/-- The least number `k ≤ fuel` with `n ≤ 2^k`. -/
def clog2 (n : Nat) : Nat := if n ≤ 1 then 0 else (n - 1).log2 + 1

/-- `⌈a / b⌉`. -/
def cdiv (a b : Nat) : Nat := (a + b - 1) / b

/-- Saturation at the largest value of a `w`-bit count (R10). -/
def satAt (w n : Nat) : Nat := min n (2 ^ w - 1)

end Sys2Proof.Machine
end

