-- ==== Sys2Proof/Machine/Crypto.lean ====
section
/-! DEFINITION. The published functions the device computes (00, Names): SHA-512, CRC-64 (ECMA-182), ChaCha20, Ed25519,
HKDF over SHA-512, and the grain-hash field of R424. The spec names the standards and prints no constants of theirs: the
constants here are the standards' (PRESUMED, notes/assumptions/2.md). -/

namespace Sys2Proof.Machine

def p64 : Nat := 2 ^ 64
def rotr64 (x k : Nat) : Nat := x / 2 ^ k ||| x * 2 ^ (64 - k) % 2 ^ 64

/-- The integer `k`-th root of `x`, from its bit `n - 1` down; `r` is what is found so far. -/
def rootBits (k x : Nat) : Nat → Nat → Nat
  | 0, r => r
  | n + 1, r => rootBits k x n (if (r + 2 ^ n) ^ k ≤ x then r + 2 ^ n else r)

/-- The first 64 bits of the fraction of a prime's `k`-th root. -/
def rootFrac (k p : Nat) : Nat := rootBits k (p * 2 ^ (64 * k)) 69 0 % p64

/-- The primes below 410: there are eighty. -/
def smallPrimes : List Nat :=
  (List.range 410).filter fun n => decide (2 ≤ n) && (List.range 20).all fun d => decide (d < 2) || decide (n ≤ d) || n % d != 0

/-- The round constants of SHA-512: from the cube roots of the primes. -/
def sha512K : List Nat := smallPrimes.map (rootFrac 3)

/-- The eight working words of SHA-512. -/
structure Sha where
  a : Nat
  b : Nat
  c : Nat
  d : Nat
  e : Nat
  f : Nat
  g : Nat
  h : Nat
  deriving DecidableEq, Repr

/-- The words before the first block: from the square roots of the first eight primes. -/
def sha512Init : Sha :=
  match (smallPrimes.take 8).map (rootFrac 2) with
  | a :: b :: c :: d :: e :: f :: g :: h :: [] => ⟨a, b, c, d, e, f, g, h⟩
  | _ => ⟨0, 0, 0, 0, 0, 0, 0, 0⟩

/-- One round, with round constant plus message word `kw`. -/
def shaRound (s : Sha) (kw : Nat) : Sha :=
  let s1 := rotr64 s.e 14 ^^^ rotr64 s.e 18 ^^^ rotr64 s.e 41
  let ch := (s.e &&& s.f) ^^^ ((p64 - 1 - s.e) &&& s.g)
  let t1 := s.h + s1 + ch + kw
  let s0 := rotr64 s.a 28 ^^^ rotr64 s.a 34 ^^^ rotr64 s.a 39
  let mj := (s.a &&& s.b) ^^^ (s.a &&& s.c) ^^^ (s.b &&& s.c)
  ⟨(t1 + s0 + mj) % p64, s.a, s.b, s.c, (s.d + t1) % p64, s.e, s.f, s.g⟩

/-- The message schedule is kept as its last sixteen words; this gives the word that follows them. -/
def shaNextW (w : List Nat) : Nat :=
  let w1 := w.getD 1 0
  let w14 := w.getD 14 0
  let s0 := rotr64 w1 1 ^^^ rotr64 w1 8 ^^^ w1 / 2 ^ 7
  let s1 := rotr64 w14 19 ^^^ rotr64 w14 61 ^^^ w14 / 2 ^ 6
  (w.getD 0 0 + s0 + w.getD 9 0 + s1) % p64

/-- The rounds of one block: constants left, schedule window, working words. -/
def shaRounds : List Nat → List Nat → Sha → Sha
  | [], _, s => s
  | k :: ks, w, s => shaRounds ks (w.drop 1 ++ [shaNextW w]) (shaRound s (k + w.headD 0))

/-- One 128-byte block. -/
def shaBlock (s : Sha) (blk : List Byte) : Sha :=
  let w := (List.range 16).map fun i => ofBe ((blk.drop (8 * i)).take 8)
  let t := shaRounds sha512K w s
  ⟨(s.a + t.a) % p64, (s.b + t.b) % p64, (s.c + t.c) % p64, (s.d + t.d) % p64,
   (s.e + t.e) % p64, (s.f + t.f) % p64, (s.g + t.g) % p64, (s.h + t.h) % p64⟩

/-- `n` blocks in turn. -/
def shaBlocks : Nat → List Byte → Sha → Sha
  | 0, _, s => s
  | n + 1, bs, s => shaBlocks n (bs.drop 128) (shaBlock s (bs.take 128))

/-- SHA-512 of a byte string, 64 bytes. -/
def sha512 (m : List Byte) : List Byte :=
  let pad := (239 - m.length % 128) % 128
  let full := m ++ [0x80#8] ++ zeros pad ++ beBytes 16 (8 * m.length)
  let s := shaBlocks (full.length / 128) full sha512Init
  beBytes 8 s.a ++ beBytes 8 s.b ++ beBytes 8 s.c ++ beBytes 8 s.d ++
  beBytes 8 s.e ++ beBytes 8 s.f ++ beBytes 8 s.g ++ beBytes 8 s.h

/-- HMAC over SHA-512 (RFC 2104). -/
def hmac512 (key msg : List Byte) : List Byte :=
  let k := padTo 128 (if key.length > 128 then sha512 key else key)
  sha512 (k.map (· ^^^ 0x5c#8) ++ sha512 (k.map (· ^^^ 0x36#8) ++ msg))

/-- HKDF extract and one expansion block over SHA-512 (RFC 5869), cut to `n` bytes, `n` at most 64. -/
def hkdf512 (salt ikm info : List Byte) (n : Nat) : List Byte :=
  (hmac512 (hmac512 salt ikm) (info ++ [1#8])).take n

/-- One bit step of the CRC-64 register, polynomial of ECMA-182. -/
def crc64Step (c : Nat) : Nat :=
  if c ≥ 2 ^ 63 then (c * 2 % p64) ^^^ 0x42F0E1EBA9EA3693 else c * 2

/-- One byte into the CRC-64 register. -/
def crc64Byte (c : Nat) (b : Byte) : Nat :=
  crc64Step (crc64Step (crc64Step (crc64Step (crc64Step (crc64Step (crc64Step (crc64Step
    (c ^^^ b.toNat * 2 ^ 56))))))))

/-- CRC-64 (ECMA-182) of a byte string: register starting at zero, no reflection, no final exclusive OR. -/
def crc64 (bs : List Byte) : Nat := bs.foldl crc64Byte 0

/-- Multiplication by x in GF(2^128) with the polynomial of R424. -/
def gfX (a : Nat) : Nat := if a ≥ 2 ^ 127 then (a * 2 % 2 ^ 128) ^^^ 0x87 else a * 2

/-- The product of two field elements, by the bits of the second from bit `n - 1` down. -/
def gfMulAux (a b : Nat) : Nat → Nat → Nat
  | 0, acc => acc
  | n + 1, acc => let acc := gfX acc; gfMulAux a b n (if b.testBit n then acc ^^^ a else acc)

/-- The product of two field elements (R424). -/
def gfMul (a b : Nat) : Nat := gfMulAux a b 128 0

/-- The grain-hash key of a plan (R424). -/
def grainKey (planId : List Byte) : Nat :=
  let h := sha512 planId
  let k := num h 0 16
  if k ≤ 1 then num h 16 16 else k

/-- The 16-byte blocks of a line payload as field elements. -/
def gfBlocks (line : List Byte) : List Nat := (List.range 32).map fun i => num line (16 * i) 16

/-- R426: what one line of name `n` with byte enables `be` contributes, by Horner's scheme; `line` has its bytes not
enabled already zero. -/
def grainLine (k n be : Nat) (line : List Byte) : Nat :=
  let x := (gfBlocks line).foldl (fun acc b => gfMul (acc ^^^ b) k) 0
  gfMul (gfMul (x ^^^ n) k ^^^ be) k

def rotl32 (x k : Nat) : Nat := x * 2 ^ k % 2 ^ 32 ||| x / 2 ^ (32 - k)

/-- The ChaCha20 quarter round on state words at four places. -/
def chachaQ (s : List Nat) (a b c d : Nat) : List Nat :=
  let g := fun (s : List Nat) (i : Nat) => s.getD i 0
  let m := 2 ^ 32
  let s := s.set a ((g s a + g s b) % m); let s := s.set d (rotl32 (g s d ^^^ g s a) 16)
  let s := s.set c ((g s c + g s d) % m); let s := s.set b (rotl32 (g s b ^^^ g s c) 12)
  let s := s.set a ((g s a + g s b) % m); let s := s.set d (rotl32 (g s d ^^^ g s a) 8)
  let s := s.set c ((g s c + g s d) % m); s.set b (rotl32 (g s b ^^^ g s c) 7)

/-- Ten double rounds. -/
def chachaRounds : Nat → List Nat → List Nat
  | 0, s => s
  | n + 1, s =>
    let s := chachaQ (chachaQ (chachaQ (chachaQ s 0 4 8 12) 1 5 9 13) 2 6 10 14) 3 7 11 15
    chachaRounds n (chachaQ (chachaQ (chachaQ (chachaQ s 0 5 10 15) 1 6 11 12) 2 7 8 13) 3 4 9 14)

/-- One ChaCha20 block as sixteen 32-bit words: eight key words, a 32-bit counter, three nonce words (RFC 8439). -/
def chachaBlock (key : List Nat) (ctr : Nat) (nonce : List Nat) : List Nat :=
  let s0 := [0x61707865, 0x3320646e, 0x79622d32, 0x6b206574] ++ key ++ [ctr % 2 ^ 32] ++ nonce
  (s0.zip (chachaRounds 10 s0)).map fun p => (p.1 + p.2) % 2 ^ 32

/-! Ed25519 (RFC 8032), PureEdDSA over SHA-512. -/

def edP : Nat := 2 ^ 255 - 19
def edL : Nat := 2 ^ 252 + 27742317777372353535851937790883648493

/-- `b^e mod m` by the low `n` bits of the exponent. -/
def powModAux (m : Nat) : Nat → Nat → Nat → Nat → Nat
  | 0, _, _, acc => acc
  | n + 1, b, e, acc => powModAux m n (b * b % m) (e / 2) (if e % 2 = 1 then acc * b % m else acc)

def powMod (b e m : Nat) : Nat := powModAux m 256 (b % m) e (1 % m)
def edInv (a : Nat) : Nat := powMod a (edP - 2) edP
def edD : Nat := (edP - 121665) * edInv 121666 % edP

/-- A curve point in extended coordinates. -/
structure EdPt where
  x : Nat
  y : Nat
  z : Nat
  t : Nat
  deriving DecidableEq, Repr

/-- The sum of two points. -/
def edAdd (p q : EdPt) : EdPt :=
  let a := (p.y + edP - p.x) * (q.y + edP - q.x) % edP
  let b := (p.y + p.x) * (q.y + q.x) % edP
  let c := 2 * p.t * q.t % edP * edD % edP
  let d := 2 * p.z * q.z % edP
  let e := (b + edP - a) % edP
  let f := (d + edP - c) % edP
  let g := (d + c) % edP
  let h := (b + a) % edP
  ⟨e * f % edP, g * h % edP, f * g % edP, e * h % edP⟩

/-- `k` times a point, by the low `n` bits of `k`. -/
def edMulAux : Nat → Nat → EdPt → EdPt → EdPt
  | 0, _, _, acc => acc
  | n + 1, k, p, acc => edMulAux n (k / 2) (edAdd p p) (if k % 2 = 1 then edAdd acc p else acc)

def edMul (k : Nat) (p : EdPt) : EdPt := edMulAux 256 k p ⟨0, 1, 1, 0⟩

/-- The base point. -/
def edB : EdPt :=
  let x := 15112221349535400772501151409588531511454012693041857206046113283949847762202
  let y := 46316835694926478169428394003475163141307993866256225615783033603165251855960
  ⟨x, y, 1, x * y % edP⟩

/-- The 32-byte code of a point. -/
def edEnc (p : EdPt) : List Byte :=
  let zi := edInv p.z
  leBytes 32 (p.y * zi % edP + p.x * zi % edP % 2 * 2 ^ 255)

/-- The clamped secret scalar and the prefix of a 32-byte seed. -/
def edSecret (seed : List Byte) : Nat × List Byte :=
  let h := sha512 seed
  (num h 0 32 % 2 ^ 254 / 8 * 8 + 2 ^ 254, h.drop 32)

def ed25519Public (seed : List Byte) : List Byte := edEnc (edMul (edSecret seed).1 edB)

/-- The 64-byte signature of a message under a seed. -/
def ed25519Sign (seed msg : List Byte) : List Byte :=
  let (a, pre) := edSecret seed
  let pub := edEnc (edMul a edB)
  let r := ofLe (sha512 (pre ++ msg)) % edL
  let rp := edEnc (edMul r edB)
  let k := ofLe (sha512 (rp ++ pub ++ msg)) % edL
  rp ++ leBytes 32 ((r + k * a) % edL)

/-- A point from its 32-byte code, if it is one. -/
def edDec (bs : List Byte) : Option EdPt :=
  let n := num bs 0 32
  let y := n % 2 ^ 255
  let sgn := n / 2 ^ 255
  let y2 := y * y % edP
  let u := (y2 + edP - 1) % edP
  let v := (edD * y2 + 1) % edP
  let x2 := u * edInv v % edP
  let r := powMod x2 ((edP + 3) / 8) edP
  let x := if r * r % edP = x2 then r else r * powMod 2 ((edP - 1) / 4) edP % edP
  if y ≥ edP ∨ x * x % edP ≠ x2 ∨ (x = 0 ∧ sgn = 1) then none else
    let x := if x % 2 = sgn then x else (edP - x) % edP
    some ⟨x, y, 1, x * y % edP⟩

/-- Whether a signature of a message is valid under a public key. -/
def ed25519Verify (pub msg sig : List Byte) : Bool :=
  match edDec pub, edDec (slice sig 0 32) with
  | some a, some r =>
    let s := num sig 32 32
    let k := ofLe (sha512 (slice sig 0 32 ++ slice pub 0 32 ++ msg)) % edL
    decide (s < edL) && edEnc (edMul s edB) == edEnc (edAdd r (edMul k a))
  | _, _ => false

end Sys2Proof.Machine
end

