-- ==== Sys2Proof/Machine/StateRing.lean ====
section
/-! DEFINITION. State of the ring, the plan contexts, the tally and journal unit and the compartments: chapters 02, 15 and
16, with the two register shapes every block shares (R95 counters and R557 first-record registers). Field defaults are the
reset values. -/

namespace Sys2Proof.Machine

/-- A counter register with the fields of R95: sticky OVF and a 48-bit COUNT that saturates. Reset 0. -/
structure Ctr where
  ovf : Bool := false
  n : Nat := 0
  deriving DecidableEq, Repr

/-- A first-record register of R557: VALID, MORE, the other fields of the record (`w0`, packed at their places) and its
companion registers. Reset 0. -/
structure Rec where
  valid : Bool := false
  more : Bool := false
  w0 : Nat := 0
  w1 : Nat := 0
  w2 : Nat := 0
  deriving DecidableEq, Repr

/-- The ring-time registers every compartment obeys (R33 to R35, R69). -/
structure RingSt where
  /-- LOCKED of RING_POS: the device has reported RING_LOCKED and holds lock (R36, R277). Reset 0. -/
  locked : Bool := false
  /-- The device has once reported RING_LOCKED: RING_COUNT is never written again (R34). Reset 0. -/
  everLocked : Bool := false
  /-- LEN_LOG2 of RING_POS, log2 of the ring length, from the blaze image (R33). Reset 0. -/
  lenLog2 : Nat := 0
  /-- Root cycle within the ring (R35). Reset 0. -/
  cycle : Nat := 0
  /-- RING_COUNT (R34). Reset 0: the spec gives none (notes/assumptions/3.md). -/
  count : Nat := 0
  deriving DecidableEq, Repr

/-- State codes of a plan context (R59). -/
inductive PState where
  | none | loaded | armed | running | stopping | halted
  deriving DecidableEq, Repr

/-- A section of a loaded plan image (R561, R562). -/
structure Sect where
  type : Nat
  target : Nat
  bytes : List Byte
  deriving DecidableEq, Repr

/-- A stop that a plan context owes at a coming boundary (R53, R61). -/
structure Halt where
  /-- event code recorded as HALT_CAUSE -/
  cause : Nat
  /-- the ring at whose first root edge the context enters HALTED -/
  ring : Nat
  /-- unit of the cause, as UNIT of RING_PLAN_SLIP -/
  unit : Nat
  deriving DecidableEq, Repr

/-- One plan context (R58 to R69). -/
structure PlanCtx where
  state : PState := .none
  /-- GO_HELD (R60, R62) -/
  goHeld : Bool := false
  /-- RESUME_VALID and the resume step (R52, R66) -/
  resumeValid : Bool := false
  resumeStep : Nat := 0
  /-- LAST_STATUS of RING_PLAN_STATE -/
  lastStatus : Nat := 0
  /-- JOB_TAG bound at LOAD (R65) -/
  jobTag : Nat := 0
  haltCause : Nat := 0
  /-- RING_PLAN_START and RING_PLAN_IMAGE -/
  start : Nat := 0
  image : Nat := 0
  /-- The start ring and RESUME that ARM took, for an identical ARM (R60, R66) -/
  armStart : Nat := 0
  armResume : Bool := false
  /-- The fields of RING_PLAN_GEOM (R69) -/
  debug : Bool := false
  mode : Nat := 0
  policy : Bool := false
  minStands : Nat := 0
  stands : Nat := 0
  ringsPerStep : Nat := 0
  slipLimit : Nat := 0
  slack : Nat := 0
  /-- Other header fields of R560 -/
  canonSplit : Bool := false
  resendW : Nat := 0
  rf : Nat := 0
  replicas : Nat := 0
  buildAt : Nat := 0
  /-- PLAN_ID, 16 bytes (R564) -/
  planId : List Byte := []
  /-- Sections of the loaded image that outlive LOAD -/
  sects : List Sect := []
  /-- First ring of the run, its first step, the step running and the ring's number within it (R57) -/
  runRing : Nat := 0
  runStep : Nat := 0
  step : Nat := 0
  ringInStep : Nat := 0
  /-- One past the highest step number this load has started: a step below it is a repeated attempt (R430) -/
  stepsBegun : Nat := 0
  /-- A DISARM that takes effect at HALTED (R60) -/
  disarmAtHalt : Bool := false
  /-- Cause of a halt due at the end of the current step: TALLY_FULL, REF_LOST (R61) -/
  haltAtStepEnd : Nat := 0
  /-- A halt due at a ring boundary (R61) -/
  halt : Option Halt := none
  /-- ROW_DEGRADED: the context must be reloaded (R61) -/
  reload : Bool := false
  /-- E2E resend exhausted in this ring, with the unit (R51, R245) -/
  resendOut : Option Nat := none
  /-- Largest slip of a unit in this ring and the unit (R47); SLIP_LIMIT raised this ring (R48) -/
  slip : Nat := 0
  slipUnit : Nat := 0
  slipWarned : Bool := false
  /-- RING_PLAN_SLIP: the last completed ring -/
  slipLast : Nat := 0
  stretchLast : Nat := 0
  unitLast : Nat := 0
  /-- failed step numbers of the step-abort flags received in this run (R53) -/
  abortSeen : List Nat := []
  /-- The twin digest differed: the ring at whose boundary the plan stops is in `halt` (R445) -/
  ovr : Ctr := {}
  deriving DecidableEq, Repr

/-- The fields of the running step's tally (R427 to R430). Counts start at 0 at each step. -/
structure StepAcc where
  failed : Bool := false
  cause : Nat := 0
  causeUnit : Nat := 0
  repeatFlag : Bool := false
  held : Bool := false
  suspectOut : Bool := false
  epochMoved : Bool := false
  checks : Nat := 0
  eccCorr : Nat := 0
  eccUncorr : Nat := 0
  resends : Nat := 0
  slip : Nat := 0
  slipUnit : Nat := 0
  events : Nat := 0
  stretch : Tab Nat := []
  ringFirst : Nat := 0
  epochFirst : Nat := 0
  tseq : Nat := 0
  model : Nat := 0xFFFF
  /-- sets of the step's set maps, by entry -/
  wsets : List Nat := []
  gen0 : Nat := 0
  gen1 : Nat := 0
  inHash : Nat := 0
  outHash : Nat := 0
  intHash : Nat := 0
  tokHash : Nat := 0
  /-- Lines of grain 1 or 2 written so far, for the Scout's check (R428, R446) -/
  grainLines : List Nat := []
  /-- SUSPECT_INPUT raised in this step, by stand (R202) -/
  suspectStands : List Nat := []
  deriving DecidableEq, Repr

/-- A STEP tally closed but waiting for root cycle 256 in twin mode (R429), or for its step record's TOKEN sum. -/
structure OpenTally where
  acc : StepAcc
  step : Nat
  ringLast : Nat
  deriving DecidableEq, Repr

/-- The index registers of a host-memory ring (R389): base, size, owner's index and device's index. Reset 0. -/
structure HostRing where
  base : Nat := 0
  size : Nat := 0
  cons : Nat := 0
  prod : Nat := 0
  deriving DecidableEq, Repr

/-- One change-ledger entry (R449). -/
structure Change where
  c : Nat
  epochs : List Nat
  domain : Nat
  port : Nat
  offset : Nat
  sel : Nat
  old : Nat
  new : Nat
  ring : Nat
  deriving DecidableEq, Repr

/-- The tally and journal unit's state for one LD and its plan context (R429 to R452). -/
structure TallyCtx where
  ring : HostRing := {}
  /-- the last accepted write of TALLY_RING_CFG had SIZE 0: the context stops at each step boundary (R452) -/
  ringZero : Bool := false
  /-- TALLY_SIGN_CFG, reset 1,024 -/
  signInterval : Nat := 1024
  /-- SEQ the next chained tally takes (R433) -/
  seq : Nat := 0
  /-- D(n) of the last chained tally, 64 bytes; zero before GENESIS -/
  head : List Byte := []
  headSel : Nat := 0
  jrn : HostRing := {}
  jrnReplay : Bool := false
  /-- TALLY_JRN_TSEQ, the next ticket sequence: 1 from READY (R437) -/
  tseq : Nat := 1
  evt : HostRing := {}
  evtMsi : Bool := false
  evtVector : Nat := 0
  epoch : Nat := 0
  /-- EPOCH_SATURATED already raised (R448) -/
  epochSat : Bool := false
  ledgerSel : Nat := 0
  twinEn : Bool := false
  twinLeader : Bool := false
  twinPort : Nat := 0
  /-- TALLY_TWIN_DIG, own digest of the last ring; the sum T of the running ring; the peer's digest (R444) -/
  twinDig : Nat := 0
  twinSum : Nat := 0
  twinPeer : Option (Nat × Nat) := none
  /-- ring whose digests are still to be compared (R445) -/
  twinDue : Option Nat := none
  /-- Units waiting for room in the tally ring, oldest first, at most 64 (R435) -/
  backlog : List (List Byte) := []
  /-- Chain heads whose SIGNATURE unit is owed: SEQ and D(n) (R434) -/
  owed : List (Nat × List Byte) := []
  /-- A TALLY_SIGN_CMD waiting for 6 free backlog units (R435) -/
  signAsked : Bool := false
  /-- STEP tallies since the last signature (R434) -/
  sinceSign : Nat := 0
  /-- SEQ of the last chain head for which a signature was owed (R434) -/
  signedHead : Option Nat := none
  /-- Number of the last step whose STEP tally closed since LOAD (R429) -/
  lastStep : Nat := 0
  acc : StepAcc := {}
  waiting : Option OpenTally := none
  /-- what the build settles for the coming step: TSEQ of its BUILD ticket, HELD, and the Landing's share of IN_HASH -/
  nextTseq : Nat := 0
  nextHeld : Bool := false
  nextIn : Nat := 0
  /-- EPOCH tickets owed at the next build (R448): the epoch after the change, and the change -/
  epochTickets : List (Nat × Change) := []
  count : Ctr := {}
  failed : Ctr := {}
  signed : Ctr := {}
  evtLost : Ctr := {}
  epochRef : Ctr := {}
  /-- DBG_SCOUT0 to DBG_SCOUT2 (R453) -/
  scout : Rec := {}
  findings : Ctr := {}
  deriving DecidableEq, Repr

/-- The change ledger of the device (R449) and the boot events it holds (R450). -/
structure LedgerSt where
  /-- next change number c -/
  next : Nat := 0
  entries : Tab Change := []
  /-- STAND_FAULT and ROW_DEGRADED records of the boot self-test, at most 576 (R450) -/
  bootEvents : List (List Byte) := []
  /-- LDs whose event ring has taken the held boot events -/
  bootGiven : List Nat := []
  deriving DecidableEq, Repr

/-- One compartment (R455 to R472). -/
structure Cmp where
  /-- local cycle count (R37) -/
  loc : Nat := 0
  /-- kept edges so far in this ring (R458) -/
  kept : Nat := 0
  /-- the edge just passed was kept (R455) -/
  keptNow : Bool := true
  /-- stretch count of this ring, 16 bits saturating (R460), and STRETCH_LAST -/
  stretch : Nat := 0
  stretchLast : Nat := 0
  /-- a droop asks for the next kept edge to be suppressed (R459) -/
  droop : Bool := false
  /-- OP, and the point asked for at the next ring boundary (R462, R463) -/
  op : Nat := 0
  nextOp : Option Nat := none
  /-- in an operating-point stop: root edges 0 to 319 (R462) -/
  stop : Bool := false
  /-- POWER of CMP_STATUS is 1: reset 0, off -/
  on : Bool := false
  tj : Nat := 0
  vout : Nat := 0
  /-- CMP_CFG -/
  opMax : Nat := 0
  v0 : Nat := 0
  v1 : Nat := 0
  v2 : Nat := 0
  v3 : Nat := 0
  stretches : Ctr := {}
  changes : Ctr := {}
  gated : Ctr := {}
  deriving DecidableEq, Repr

/-- A physical row (R526 to R529, R541): FAILED bits by position, the shifted position (31 none), and whether boot has found
its working stands. -/
structure RowSt where
  known : Bool := false
  failed : Nat := 0
  shift : Nat := 31
  deriving DecidableEq, Repr

/-- The repair and power registers (R541). -/
structure Repair where
  rowSel : Nat := 0
  rows : Tab RowSt := []
  /-- CMP_SHIFT_RESULT -/
  shState : Nat := 0
  shStatus : Nat := 0
  shRowPos : Nat := 0
  /-- the row and position of the shift in progress, the domain whose owner commanded it, and the ring boundary it waits for or
  started at -/
  shRow : Nat := 0
  shPos : Nat := 0
  shDom : Nat := 0
  shRing : Nat := 0
  /-- CMP_PWR: FLUSHED, STOPPED, WARN -/
  flushed : Bool := false
  stopped : Bool := false
  warn : Bool := false
  /-- root time at which the device acted on PWR_WARN (R539) -/
  warnTime : Nat := 0
  /-- a RESET in MODE 1 waits for the stop and the flush (R515): what the boot after it finds -/
  resetEnv : Option BootEnv := none
  deriving DecidableEq, Repr

/-- The broadcast registers of one context (R531 to R535, R542). -/
structure Bcast where
  order : Bool := false
  rail : Nat := 0
  margin : Nat := 0
  rootY : Nat := 0
  rootX : Nat := 0
  lh : Nat := 0
  lw : Nat := 0
  first : Nat := 0
  count : Nat := 0
  failLid : Nat := 0
  state : Nat := 0
  /-- the ARM in force, as root or as a device of a tree; the children still to confirm and the devices confirmed below; the
  logical ID of the parent, none at the root -/
  ctl : Option Ctl := none
  waitFor : List Nat := []
  below : Nat := 0
  parent : Option Nat := none
  deriving DecidableEq, Repr

/-- Temperatures and conditions (R468 to R472). -/
structure Therm where
  /-- last reading of each HBM3E stack -/
  hbm : Tab Nat := []
  /-- conditions of the junctions and of the stacks -/
  warnTj : Bool := false
  warnHbm : Bool := false
  tripTj : Bool := false
  tripHbm : Bool := false
  critTj : Bool := false
  critHbm : Bool := false
  /-- a critical condition has occurred since reset: THERM_TRIP_N stays asserted (R553) -/
  burnt : Bool := false
  tjWarn : Nat := 90
  hbmWarn : Nat := 80
  warnSeen : Bool := false
  tripSeen : Bool := false
  critSeen : Bool := false
  deriving DecidableEq, Repr

end Sys2Proof.Machine
end

