-- ==== Sys2Proof/Machine/StateStand.lean ====
section
/-! DEFINITION. State of one stand (R14, R19): its cut-list store and counters (chapter 07), descriptor table (06), Headrig
(03), Edger (04) and Deck (05). A stand is named by its logical number 32 × row + column. Field defaults are the reset
values. -/

namespace Sys2Proof.Machine

/-- A post to a counter: the root time in which it takes effect, its amount and its SUSPECT mark (R196, R200). -/
structure Post where
  time : Nat
  k : Nat
  sus : Bool
  deriving DecidableEq, Repr

/-- A token or credit counter (R194): the count and SUSPECT flag, and the posts of the running cycle, which issue decisions see
from the next cycle on (R196). -/
structure Cnt where
  n : Nat := 0
  suspect : Bool := false
  posts : List Post := []
  deriving DecidableEq, Repr

/-- An open loop (R208): first slot of the body, trips in all, index of the running trip, STAMP_STEP. -/
structure LoopFrame where
  body : Nat
  trips : Nat
  trip : Nat
  stampStep : Nat
  deriving DecidableEq, Repr

/-- One issue stream of a stand (R42, R187 to R191, R218). -/
structure Stream where
  /-- area in the store: base slot and length -/
  base : Nat := 0
  len : Nat := 0
  /-- slot of the next instruction -/
  pc : Nat := 0
  /-- open loops, innermost first -/
  loops : List LoopFrame := []
  /-- first slot of the running section, and the rings it has run so far in this instance -/
  sect : Nat := 0
  sectRing : Nat := 0
  /-- the section that the next ring runs, set when CL_RING is reached -/
  nextSect : Nat := 0
  nextSectRing : Nat := 0
  /-- ENDED: the stream has reached CL_RING in this ring -/
  ended : Bool := false
  /-- the window of decoded instructions has been filled for this run (R191) -/
  filled : Bool := false
  /-- slip count of this ring and of the last completed one (R47) -/
  slip : Nat := 0
  slipLast : Nat := 0
  /-- local count from which the stream's engine is free again -/
  free : Nat := 0
  /-- local count of the stream's next possible issue: one instruction a cycle -/
  next : Nat := 0
  deriving DecidableEq, Repr

/-- What completes with an operation beyond its posts (R203). -/
inductive OpKind where
  /-- nothing further -/
  | plain
  /-- an HR_DRAIN: its finished-tile queue entry is pushed and STAND_HR_TILES counts -/
  | drain
  /-- an Edger instruction: STAND_ED_OPS counts -/
  | edger
  /-- completes only when its awaited rows, lines or reply have come: the number counts them -/
  | await (n : Nat)
  /-- completes when its packet of this number has left the Flume node (FG_POST, R203) -/
  | packet (id : Nat)
  deriving DecidableEq, Repr

/-- An instruction in flight (R203): when it completes and what it posts. -/
structure Op where
  id : Nat
  stream : Nat
  due : Nat
  pt : Nat
  pc : Nat
  suspect : Bool
  kind : OpKind
  deriving DecidableEq, Repr

/-- Operations of the Edger's compute rows (R210). -/
inductive EdKind where
  | fma | add | mul | min | max | cmp | csel | cvt | exp2 | log2 | rcp | rsq | tanh | expd | qmx | rsum | rssq | rmax
  | rmin | rcomb | topkf
  deriving DecidableEq, Repr

/-- One row of the heartwood accumulator buffer with its check accumulator (R75 to R78, R85, R201): 64 resolved values
in units of 2^-300, their flags, and the row's SUSPECT bit, as one write left them. -/
structure AccRow where
  cols : List Int
  flags : List Nat
  chk : Int
  chkFlags : Nat
  suspect : Bool := false
  /-- local count of that write, 0 where an earlier ring made it; a row is entered some cycles before its write -/
  lastWrite : Nat := 0
  deriving DecidableEq, Repr

/-- A weight buffer (R78, R90, R201): the tile image as loaded, and what tells its parts apart. Empty at entry into
RUNNING. -/
structure WBuf where
  full : Bool := false
  bytes : List Byte := []
  fmt : Nat := 0
  scaled : Bool := false
  chkForm : Nat := 1
  suspect : Bool := false
  /-- local counts: last line read, last line landed, last array entry of a pass on the buffer -/
  lastRead : Nat := 0
  landed : Nat := 0
  lastEntry : Nat := 0
  deriving DecidableEq, Repr

/-- A drain in progress (R79 to R87, R91). -/
structure Drain where
  opId : Nat
  handle : Nat
  aoff : Nat
  rows : Nat
  r0 : Nat
  fmt : Nat
  sat : Bool
  adj : Int
  push : Bool
  tag : Nat
  ds : Nat
  /-- rows read, oldest first, each with its check accumulator as read (R96), and rows checked so far -/
  reads : List (AccRow × Int) := []
  next : Nat := 0
  /-- rows that mismatched, and whether STAND_HR_CHK0 still holds the record of this drain's first one -/
  mask : Nat := 0
  holds : Bool := false
  suspect : Bool := false
  /-- bytes to write, by Deck offset, oldest row first -/
  out : List (Int × List Byte) := []
  deriving DecidableEq, Repr

/-- An entry of the finished-tile queue (R105). -/
structure Ftq where
  tag : Nat
  handle : Nat
  aoff : Nat
  r0 : Nat
  rows : Nat
  fmt : Nat
  suspect : Bool
  /-- first local count at which the entry can be taken (R106) -/
  cycle : Nat
  deriving DecidableEq, Repr

/-- A stream slot (R100 to R107). -/
structure Slot where
  isOpen : Bool := false
  handle : Nat := 0
  aoff : Nat := 0
  out : Bool := false
  wrap : Bool := false
  pos : Nat := 0
  /-- the line of a resident stream, read at ED_OPEN: line number and content as a little-endian number -/
  resident : Option (Nat × Nat) := none
  suspect : Bool := false
  /-- rows of a slot opened by ED_TAKE -/
  rows : Option Nat := none
  deriving DecidableEq, Repr

/-- What an SK_MOVE carries besides its header. -/
structure Move where
  src : Nat
  dst : Nat
  sOff : Nat
  dOff : Nat
  dtok : Nat
  grain : Nat
  deriving DecidableEq, Repr

/-- The instruction a job carries out, with what it fixed at its issue. -/
inductive JobKind where
  | load (handle buf : Nat) (base : Int)
  | mul (handle aoff buf r0 : Nat) (init : Bool)
  | addx (handle aoff : Nat) (fp32 : Bool) (r0 : Nat) (init : Bool)
  | drain
  | openSlot (slot : Nat)
  /-- an Edger operation on its slots as they stood, its result lines written from local count `wr` on -/
  | compute (k : EdKind) (o : EdOp) (a b c d : Slot) (wr : Nat)
  /-- a move: into the own Deck or not; each destination line with how many cycles later than a first line's its delivery can come, and its bytes'
  destination and source addresses, `none` under a NULL or a fault; and the lines it reads first, or the request flits it sends first -/
  | move (mv : Move) (own : Bool) (lines : List (Int × Nat × List (Int × Option Int))) (reqs : Nat)
  /-- an SK_ATOM: target, operand and RET addresses of its elements, and the old values so far: element, value, cycle of its landing -/
  | atom (op tgt src ret aoff imm : Nat) (els : List (Option Int × Option Int × Option Int)) (olds : List (Nat × Nat × Nat))
  /-- an SK_SCRUB: the line it reads next, the lines left, and rewrites to make: the cycle from which each can be made, its line, data
  and enables -/
  | scrub (next : Int) (left : Nat) (wb : List (Nat × Int × Nat × Nat))
  | bin (key list pos b : Nat)
  deriving DecidableEq, Repr

/-- What a job does in one local cycle: a line read or written through a port (R124), the atomic of element `i`, or its own
stage `i`. `img` is the line's 512 bytes and `be` its byte enables, as numbers. -/
inductive Act where
  | read (port : Nat) (line : Int)
  | write (port : Nat) (line : Int) (img be : Nat)
  | atomic (i : Nat)
  | stage (i : Nat)
  deriving DecidableEq, Repr

/-- An instruction at work after its issue: what it does next and in which local cycle, the lines it has read, and what it
marks and has raised. -/
structure Job where
  /-- its operation in flight, and its stream -/
  id : Nat
  stream : Nat
  kind : JobKind
  acts : List (Nat × Act)
  got : Tab Nat := []
  suspect : Bool := false
  /-- DECK_REFUSED, ECC_UNCORR_ACT, ECC_UNCORR_WGT and INDEX_FAULT raised (R130, R149, R180) -/
  raised : Bool × Bool × Bool × Bool := (false, false, false, false)
  /-- local count of its issue -/
  at_ : Nat := 0
  deriving DecidableEq, Repr

/-- One protection unit of a line that a write covers in part (R134): its Deck offset, how its read decoded, the data so
decoded, and whether an injected error made it so. -/
structure Merge where
  off : Nat
  outcome : Nat
  data : List Byte
  injected : Bool := false
  deriving DecidableEq, Repr

/-- What takes effect at a stand in a later local cycle: a write becomes visible (R124), a handover or a power transition
begins (R128, R151), or a DTOK is posted and its trackers leave (R229, R230). -/
inductive Later where
  | land (port base img be : Nat) (merges : List Merge)
  | own (owner mask : Nat)
  | power (state mask : Nat)
  | dtok (tok : Nat) (sus : Bool) (track : Nat)
  deriving DecidableEq, Repr

/-- An armed injection register: STAND_HR_INJECT, STAND_ED_INJECT, STAND_DK_INJECT, STAND_FL_INJECT, as written. -/
structure Inject where
  arm : Bool := false
  w : Nat := 0
  deriving DecidableEq, Repr

/-- A stand. -/
structure Stand where
  /-- the plan context that holds the stand (R466) -/
  ctx : Option Nat := none
  /-- refill areas by stream, whether its refill section runs now, and whether its physical stand has changed since its Deck
  was last filled (R528) -/
  refill : Tab (Nat × Nat) := []
  refillOn : Bool := false
  moved : Bool := false
  /-- store: instruction words by slot (R187), descriptors as eight words by handle (R156) -/
  cuts : Tab Nat := []
  desc : Tab (List Nat) := []
  tok : Tab Cnt := []
  cred : Tab Cnt := []
  /-- address registers and their owning streams, 0xFF none (R204) -/
  ar : Tab Nat := []
  arOwner : Tab Nat := []
  streams : Tab Stream := []
  ops : List Op := []
  nextOp : Nat := 0
  /-- outstanding WAIT_GE operations of FG_NOTCH, at most 16 (R203) -/
  waits : Nat := 0
  ctrSel : Nat := 0
  arSel : Nat := 0
  dxSel : Nat := 0
  issued : Ctr := {}
  tokWait : Ctr := {}
  crdWait : Ctr := {}
  taint : Ctr := {}
  syncOvf : Ctr := {}
  /-- instructions at work, oldest first, and what takes effect in a later local cycle, with that cycle -/
  jobs : List Job := []
  later : List (Nat × Later) := []
  /-- Headrig: accumulator rows, newest write first (a drain reads a row as its writes stood at its read, R91); rows not
  listed hold the undefined contents that `accSeed` names (R78). `rowDue`: local count of the last write to a row by any
  pass or add that has issued -/
  acc : Tab (List AccRow) := []
  accSeed : Nat := 0
  rowDue : Tab Nat := []
  buf : Tab WBuf := []
  activeBuf : Nat := 0
  /-- CLASS of STAND_HR_STATUS, reset 0b11 -/
  passClass : Nat := 3
  passFree : Nat := 0
  hwFree : Nat := 0
  drainFree : Nat := 0
  /-- first local cycles that HA has free for a drain's line and for an activation line -/
  haFree : Nat := 0
  haRead : Nat := 0
  drains : List Drain := []
  hrRec : Rec := {}
  mismatch : Ctr := {}
  tiles : Ctr := {}
  entries : Ctr := {}
  wwait : Ctr := {}
  hrSat : Ctr := {}
  hrNonfin : Ctr := {}
  hrInject : Inject := {}
  /-- Edger -/
  slots : Tab Slot := []
  ftq : List Ftq := []
  ftqReserved : Nat := 0
  /-- local count, plus one, in which the last entry was taken: it is free for a drain from the next cycle on (R106) -/
  ftqTaken : Nat := 0
  /-- local count from which the lanes are free (STATUS.BUSY) -/
  laneFree : Nat := 0
  edRec : Rec := {}
  edOps : Ctr := {}
  edBusy : Ctr := {}
  residue : Ctr := {}
  table : Ctr := {}
  edSat : Ctr := {}
  edNonfin : Ctr := {}
  bound : Ctr := {}
  edInject : Inject := {}
  /-- Deck: data as encoded; bits flipped since (read as data exclusive-or flip); units whose check symbols were inverted by
  R135, by the Deck offset of their first byte -/
  mem : Mem := []
  flip : Mem := []
  bad : List Nat := []
  /-- owner port (reset 3), class (reset 0), power state (reset 0) of each bank; target and end of a transition -/
  own : Tab Nat := []
  cls : Tab Nat := []
  pwr : Tab Nat := []
  pwrTo : Tab (Nat × Nat) := []
  /-- first local count at which each bank may be handed over (R128); banks in the second cycle of a merge or an atomic, with
  that cycle (R134, R140) -/
  quiet : Tab Nat := []
  busy : Tab Nat := []
  /-- local count, plus one, in which each port last moved a line for a job (R124) -/
  lineAt : Tab Nat := []
  errRec : Rec := {}
  refRec : Rec := {}
  lines : Ctr := {}
  atoms : Ctr := {}
  corr : Ctr := {}
  uncorr : Ctr := {}
  refused : Ctr := {}
  fence : Ctr := {}
  dkInject : Inject := {}
  /-- index tensors (R186) -/
  ixRec : Rec := {}
  /-- index faults noted in this run: operation and index entry (R180) -/
  ixSeen : List (Nat × Nat) := []
  ixNull : Ctr := {}
  ixFault : Ctr := {}
  ixOver : Ctr := {}
  ixLookup : Ctr := {}
  deriving DecidableEq, Repr

end Sys2Proof.Machine
end

