-- ==== Sys2Proof/Machine/StateNet.lean ====
section
/-! DEFINITION. State of the Flume (chapter 08) and of the memory controllers (chapter 11). -/

namespace Sys2Proof.Machine

/-- What a read request's line brings to the destination line it names: runs of bytes (destination, source, length), bytes that a
NULL entry makes zero (offset, length), and the bytes of the words so enabled that the same instruction fills by another flit,
as a mask. Further the instruction's operation and the index entry that governs the request, the local count of the issue (R180,
R186), and the operation that the transfer's landing ends. -/
structure ReqPart where
  runs : List (Nat × Nat × Nat) := [(0, 0, 512)]
  dead : List (Nat × Nat) := []
  keep : Nat := 0
  inst : Nat := 0
  ent : Nat := 0
  issued : Nat := 0
  op : Option (Nat × Nat) := none
  deriving DecidableEq, Repr

/-- A circuit flit (R227) with its payload and where it is. -/
structure Flit where
  loc : Loc
  /-- input port of `loc` at which it waits -/
  inPort : Nat
  /-- root time from which a crossing's far side can take it, and the local count of the entry planned for it (R222) -/
  ready : Nat
  due : Nat
  /-- whether it waits in a crossing FIFO (R232) -/
  fifo : Bool := false
  ckt : Nat := 0
  seq : Nat := 0
  last : Bool := false
  resent : Bool := false
  suspect : Bool := false
  doff : Nat := 0
  be : Nat := 0
  dtok : Nat := 0
  pcyc : Nat := 0
  /-- the end-to-end check value it carries (R242) -/
  crc : Nat := 0
  /-- bytes of enabled words that the same instruction fills by another flit, as a mask -/
  keep : Nat := 0
  /-- kept at a node because its entry found the crossing FIFO full (R234) -/
  kept : Bool := false
  payload : List Byte := []
  /-- tenancy domain of its source, and its source end point (R242) -/
  dom : Nat := 0
  srcEnd : Loc := .bridge
  /-- request flit of R322 rather than data -/
  request : Bool := false
  parts : List ReqPart := []
  /-- payload bytes' source Deck offsets, for the resend log (R244): payload index and offset -/
  src : List (Nat × Int) := []
  /-- the operation that completes when it leaves its source node, or, for read data, when the transfer lands -/
  op : Option (Nat × Nat) := none
  /-- read data of an SK_MOVE: its plan context, GRAIN and the line name of Deck line 0 of its destination (R425, R427) -/
  grain : Option (Nat × Nat × Nat) := none
  /-- the line name of its destination (R425), where the Scout can know it (R231) -/
  name : Option Nat := none
  /-- destination device and stand of a flit for another device (R257) -/
  dstDev : Nat := 0
  dstStand : Nat := 0
  /-- a VOID, or a flit that reached this device incomplete (R263): it fails its check where it is delivered -/
  bad : Bool := false
  deriving DecidableEq, Repr

/-- A transfer tracked at a destination node (R229, R230). -/
structure Track where
  id : Nat := 0
  ckt : Nat
  srcEnd : Loc
  dtok : Nat
  /-- SEQs outstanding after failed checks -/
  out : List Nat := []
  lastSeen : Bool := false
  suspect : Bool := false
  /-- wholly landed: its DTOK is on its way -/
  posting : Bool := false
  /-- a transfer beyond the sixteenth, which no tracker follows (R230) -/
  beyond : Bool := false
  op : Option (Nat × Nat) := none
  deriving DecidableEq, Repr

/-- An item of a resend log (R244). -/
inductive Sent where
  | flit (f : Flit)
  | pkt (p : Packet)
  deriving DecidableEq, Repr

def Sent.isPkt : Sent → Bool
  | .pkt _ => true
  | .flit _ => false

/-- `xfer` numbers the transfers of the end point. -/
structure LogEnt where
  time : Nat
  item : Sent
  xfer : Nat := 0
  deriving DecidableEq, Repr

/-- An end point of the Flume: a stand node, hub unit, controller port or Aelel port (R242). -/
structure Node where
  /-- slot table and route table entries (R223, R235) -/
  slots : Tab Nat := []
  routes : Tab Nat := []
  nRoutes : Nat := 0
  tracks : List Track := []
  nextTrack : Nat := 0
  log : List LogEnt := []
  xfers : Nat := 0
  /-- items NACKed and waiting for a resend entry, and whether a flit's line has been re-read for it (R226, R244) -/
  resends : List (LogEnt × Bool) := []
  /-- next SEQ of each packet channel sent: route, rail, SEQ -/
  chans : List (List Nat × Nat × Nat) := []
  /-- packet channels held for missing SEQs: source device, end point, route, rail, and the SEQs (R231, R240) -/
  heldCh : List ((Nat × Loc × List Nat × Nat) × List Nat) := []
  /-- later packets kept for them -/
  kept : List Packet := []
  rec_ : Rec := {}
  slotSel : Nat := 0
  flits : Ctr := {}
  pkts : Ctr := {}
  crcFail : Ctr := {}
  resent : Ctr := {}
  late : Ctr := {}
  inject : Inject := {}
  deriving DecidableEq, Repr

/-- The hub bridge (R247 to R251) with its counters for each domain. -/
structure BridgeDom where
  sel : Nat := 0
  flits : Ctr := {}
  pkts : Ctr := {}
  late : Ctr := {}
  routef : Ctr := {}
  deriving DecidableEq, Repr

/-- A request entry (R322). -/
structure Req where
  write : Bool
  kv : Bool
  last : Bool
  dtok : Nat
  doff : Nat
  stand : Nat
  handle : Nat
  dom : Nat
  cls : Nat
  be : Nat
  /-- line address in bytes, or with `kv` the page-map index and the line within the page -/
  addr : Nat
  v : Nat
  line : Nat
  suspect : Bool
  op : Option (Nat × Nat)
  grain : Option (Nat × Nat × Nat)
  part : ReqPart := {}
  deriving DecidableEq, Repr

/-- A controller port's queues (R325). -/
structure CtrlPort where
  reads : List Req := []
  writes : List Req := []
  data : List Flit := []
  /-- ECC class (0, 1), refusal (2) or index fault (3) already raised for the transfer at the head (R330) -/
  raised : List Nat := []
  /-- SEQ that the next data flit takes (R227) -/
  seq : Nat := 0
  deriving DecidableEq, Repr

/-- A memory unit: stack s as s, package p as 16 + p. -/
structure MemUnit where
  present : Bool := false
  /-- slot table of R323 -/
  slots : Tab Nat := []
  selfRefresh : Bool := false
  /-- root time of the last READ, WRITE or DEVICE access -/
  lastAcc : Nat := 0
  /-- the entry that last opened each bank, half × 128 + bank number: its local count, plus 64, and the row (R325) -/
  banks : Tab Nat := []
  deriving DecidableEq, Repr

/-- A KV page map entry (R333). -/
structure PageEnt where
  valid : Bool := false
  tier : Nat := 0
  gen : Nat := 0
  queue : Nat := 0
  frame : Nat := 0
  deriving DecidableEq, Repr

/-- A domain's copy of the memory registers (R340). -/
structure MemDom where
  rec_ : Rec := {}
  pmSel : Nat := 0
  corr : Ctr := {}
  uncorr : Ctr := {}
  refused : Ctr := {}
  lookups : Ctr := {}
  pmMiss : Ctr := {}
  bankWait : Ctr := {}
  deriving DecidableEq, Repr

/-- HBM3E and LPDDR5X (chapter 11): contents by device address, bits flipped since they were written, the page map and
its cache banks. -/
structure MemSt where
  mem : Mem := []
  flip : Mem := []
  unit : Tab MemUnit := []
  lpGb : Nat := 0
  port : Tab CtrlPort := []
  /-- lines written that READ entries do not see yet: cycles left, address, data and enables (R325) -/
  landing : List (Nat × Nat × List Byte × Nat) := []
  page : Tab PageEnt := []
  bank0 : Tab PageEnt := []
  bank1 : Tab PageEnt := []
  dom : Tab MemDom := []
  deriving DecidableEq, Repr

/-- The Flume as a whole. -/
structure NetSt where
  flits : List Flit := []
  /-- flits that a hub unit or an LPDDR5X controller sends: each enters its crossing FIFO from its time on, once that has room -/
  outbox : List Flit := []
  pkts : List Packet := []
  /-- buffers that packets left: place, input port, class, and root time; upstream sees the credit a cycle later (R238) -/
  gone : List (Loc × Nat × Bool × Nat) := []
  node : Tab Node := []
  bridge : Tab Nat := []
  bridgeDom : Tab BridgeDom := []
  /-- slot tables of the edge switches (R320) -/
  edge : Tab (Tab Nat) := []
  deriving DecidableEq, Repr

end Sys2Proof.Machine
end

