-- ==== Sys2Proof/Machine/Check.lean ====
section
/-! DEFINITION. The bytes of packets (R235, R239, R297, R533) and the end-to-end check values of flits and packets (R242). -/

namespace Sys2Proof.Machine

/-- A sideband's fields that the check covers, from CKT up, as 15 bytes (R242). -/
def Flit.sideband (f : Flit) : List Byte :=
  leBytes 15 (f.ckt % 2 ^ 12 + at_ (f.seq % 2 ^ 16) 12 + flag f.last 28 + flag f.suspect 29 + at_ (f.doff % 2 ^ 14) 30 +
    at_ (f.be % 2 ^ 64) 44 + at_ (f.dtok % 2 ^ 5) 108)

/-- The check value of a circuit flit (R242). -/
def Flit.check (f : Flit) : Nat := crc64 (f.payload ++ f.sideband)

/-- Whether a flit passes its check; one that reached the device incomplete does not (R263). -/
def Flit.intact (f : Flit) : Bool := !f.bad && f.crc == f.check

/-- SRC_END of R235: a stand, or a hub unit by its bridge port. -/
def Loc.srcCode : Loc → Nat
  | .node st => st | .stand st => st | .unit q => 512 + q | _ => 512

/-- Selectors of three bits each, the first lowest. -/
def selectors : List Nat → Nat
  | [] => 0
  | x :: xs => x % 8 + 8 * selectors xs

/-- TYPE of a payload (R239). -/
def Payload.code : Payload → Nat
  | .token .. => 0 | .atomic .. => 1 | .atomReply .. => 2 | .notch .. => 3 | .notchReply .. => 4 | .nack .. => 5 | .control _ => 6

/-- Requester tag: the number of the operation that waits (DESIGN CHOICE, notes/assumptions/46.md). -/
def Tag.code (t : Tag) : Nat := t.op % 2 ^ 16

/-- A CONTROL payload (R533). -/
def Ctl.word (c : Ctl) : Nat :=
  at_ (c.start % 2 ^ 64) 192 + at_ (c.plan % 2 ^ 64) 128 + at_ (c.count % 2 ^ 32) 96 + at_ (c.failLid % 2 ^ 16) 80 +
  at_ (c.first % 2 ^ 16) 64 + at_ ((c.lw - 1) % 2 ^ 8) 56 + at_ ((c.lh - 1) % 2 ^ 8) 48 + at_ (c.rootX % 2 ^ 8) 40 +
  at_ (c.rootY % 2 ^ 8) 32 + at_ (c.tag % 2 ^ 16) 16 + flag c.order 15 + at_ (c.rail % 4) 13 + flag c.ok 7 + flag c.resume 6 + c.cmd % 16

/-- The 32 payload bytes of a packet as a number: NOTCH and NOTCH_REPLY by R297, CONTROL by R533. The spec gives the others'
fields and no places for them (DESIGN CHOICE, notes/assumptions/46.md). -/
def Payload.word : Payload → Nat
  | .token credit ctr amt sus => amt % 2 ^ 16 + at_ (ctr % 32) 16 + flag credit 21 + flag sus 22
  | .atomic op off operand tag => operand % 2 ^ 64 + at_ (wrapInt 24 off) 64 + at_ (op % 4) 88 + at_ tag.code 96
  | .atomReply old sus tag => old % 2 ^ 64 + flag sus 64 + at_ tag.code 96
  | .notch op n value tag => value % 2 ^ 32 + at_ (n % 2 ^ 16) 32 + at_ (op % 4) 64 + at_ tag.code 96
  | .notchReply value md op status n tag =>
    value % 2 ^ 32 + at_ (md % 2 ^ 32) 32 + at_ (status % 4) 68 + at_ (op % 4) 70 + at_ (n % 2 ^ 16) 80 + at_ tag.code 96
  | .nack packet ckt route rail seq =>
    seq % 2 ^ 16 + at_ (ckt % 2 ^ 12) 16 + flag packet 28 + at_ (rail % 4) 29 + at_ (selectors route % 2 ^ 96) 32
  | .control c => c.word

/-- The 32-byte header of a packet, with RETURN as given, RLEN and PTR (R235). -/
def Packet.header (p : Packet) (ret : List Nat) (ptr : Nat) : Nat :=
  at_ (p.srcDev % 2 ^ 16) 228 + at_ (p.srcEnd.srcCode % 2 ^ 10) 218 + at_ (p.seq % 256) 210 + flag p.reply 209 + at_ p.payload.code 205 +
  at_ (p.rail % 4) 203 + at_ (ret.length % 64) 197 + at_ (ptr % 32) 192 + at_ (selectors ret % 2 ^ 96) 96 + selectors p.route % 2 ^ 96

/-- A packet's 64 bytes (R235). -/
def Packet.bytes (p : Packet) : List Byte := leBytes 32 (p.header p.ret.flatten p.ptr) ++ leBytes 32 p.payload.word

/-- The 32-byte header of a frame above FCHK, bits 255 to 64 (R257). -/
def Frame.header (f : Frame) : Nat :=
  at_ (f.tag % 2 ^ 16) 176 + at_ (f.lseq % 2 ^ 16) 160 + at_ (f.ftype % 8) 157 + at_ (f.half % 2) 156 + at_ (f.ckt % 2 ^ 12) 144 +
  at_ (f.seq % 2 ^ 16) 128 + flag f.last 127 + flag f.resent 126 + flag f.suspect 125 + at_ (f.doff % 2 ^ 14) 111 + at_ (f.dtok % 32) 106 +
  at_ (f.be % 2 ^ 32) 74 + at_ (f.dstDev % 2 ^ 16) 58 + at_ (f.dstStand % 2 ^ 9) 49 + at_ (f.pkts.length % 8) 46

/-- FCHK of a frame: over its header's bits 255 to 64 and its 256 payload bytes (R257). -/
def Frame.check (f : Frame) : Nat :=
  crc64 (leBytes 24 f.header ++ padTo 256 (if f.ftype = 2 then (f.pkts.map Packet.bytes).flatten else f.payload))

/-- Places of a control block's content: a field's width in bytes, in order (R519; the other rules give no places: DESIGN CHOICE,
notes/assumptions/46.md). -/
def ctlWidths : Nat → List Nat
  | 1 => [8, 2, 2, 1] | 2 => [2, 3, 1] | 3 => [6, 4] | 4 => [2, 8] | 5 => [2, 1] | 6 => [2, 1, 1, 1, 1, 1, 2, 1] | 7 => [8, 8] | _ => []

/-- The 32 bytes of a control block: type, 23 bytes of content, CRC-64 (R258). -/
def ctlBlock (type : Nat) (fields : List Nat) : List Byte :=
  let b := padTo 24 (leBytes 1 type ++ (((ctlWidths type).zip fields).map fun w => leBytes w.1 w.2).flatten)
  b ++ leBytes 8 (crc64 b)

/-- The check value of a packet: over its bytes with PTR, RLEN and RETURN taken as zero (R242). -/
def Packet.check (p : Packet) : Nat := crc64 (leBytes 32 (p.header [] 0) ++ leBytes 32 p.payload.word)

/-- Whether a packet passes its check. -/
def Packet.intact (p : Packet) : Bool := !p.bad && p.crc == p.check

end Sys2Proof.Machine
end

