-- ==== Sys2Proof/Machine/Num.lean ====
section
/-! DEFINITION. The number formats of R72 and R164, exact dyadic arithmetic on their values, and the one rounding of R79,
R80, R99 and R113. -/

namespace Sys2Proof.Machine

/-- A value of a number format: a signed zero, a nonzero dyadic `m * 2^e`, an infinity or NaN. -/
inductive FV where
  | nan
  | inf (neg : Bool)
  | zero (neg : Bool)
  | num (m : Int) (e : Int)
  deriving DecidableEq, Repr

/-- A floating-point format of R72: exponent and mantissa bits, bias, and its special codes: 0 none, 1 IEEE 754,
2 only S.1111.111 is NaN. -/
structure Fmt where
  eb : Nat
  mb : Nat
  bias : Int
  special : Nat
  deriving DecidableEq, Repr

def fmtFP32 : Fmt := ⟨8, 23, 127, 1⟩
def fmtBF16 : Fmt := ⟨8, 7, 127, 1⟩
def fmtFP16 : Fmt := ⟨5, 10, 15, 1⟩
def fmtE4M3 : Fmt := ⟨4, 3, 7, 2⟩
def fmtE5M2 : Fmt := ⟨5, 2, 15, 1⟩
def fmtE3M2 : Fmt := ⟨3, 2, 3, 0⟩
def fmtE2M3 : Fmt := ⟨2, 3, 1, 0⟩
def fmtE2M1 : Fmt := ⟨2, 1, 1, 0⟩

/-- The floating-point format of a FORMAT code (R164), where it is one. -/
def fmtOf? : Nat → Option Fmt
  | 0 => some fmtFP32 | 1 => some fmtBF16 | 2 => some fmtFP16 | 3 => some fmtE4M3 | 4 => some fmtE5M2
  | 6 => some fmtE3M2 | 7 => some fmtE2M3 | 8 => some fmtE2M1 | _ => none

/-- Bits of an element of a FORMAT code (R164); an X640 element is one row of 5,632 bytes. -/
def fmtBits : Nat → Nat
  | 0 => 32 | 1 => 16 | 2 => 16 | 3 => 8 | 4 => 8 | 5 => 8 | 6 => 6 | 7 => 6 | 8 => 4
  | 9 => 32 | 10 => 64 | 11 => 45056 | 12 => 8 | 13 => 8 | _ => 8

/-- Headrig class of a FORMAT code (R164): 0 8-bit, 1 4-bit, 2 16-bit, 3 none. -/
def fmtClass : Nat → Nat
  | 1 => 2 | 2 => 2 | 3 => 0 | 4 => 0 | 5 => 0 | 6 => 0 | 7 => 0 | 8 => 1 | _ => 3

/-- K of a class (R70). -/
def classK : Nat → Nat
  | 0 => 128 | 1 => 256 | _ => 32

/-- Largest finite magnitude code of a format (R72). -/
def Fmt.maxCode (f : Fmt) : Nat :=
  match f.special with
  | 1 => (2 ^ f.eb - 1) * 2 ^ f.mb - 1
  | 2 => 2 ^ (f.eb + f.mb) - 2
  | _ => 2 ^ (f.eb + f.mb) - 1

/-- The value of a code (R72): subnormals exact. -/
def Fmt.decode (f : Fmt) (c : Nat) : FV :=
  let neg := bit c (f.eb + f.mb)
  let mag := c % 2 ^ (f.eb + f.mb)
  let ex := mag / 2 ^ f.mb
  let mant := mag % 2 ^ f.mb
  if mag > f.maxCode then
    if f.special = 1 ∧ mant = 0 then .inf neg else .nan
  else if mag = 0 then .zero neg
  else
    let m : Nat := if ex = 0 then mant else mant + 2 ^ f.mb
    let e : Int := (if ex = 0 then 1 else (ex : Int)) - f.bias - f.mb
    .num (if neg then -(m : Int) else m) e

/-- The value of an integer. -/
def intFV (i : Int) : FV := if i = 0 then .zero false else .num i 0

/-- The value of an E8M0 scale (R72). -/
def e8m0FV (c : Nat) : FV := if c % 256 = 255 then .nan else .num 1 ((c % 256 : Nat) - 127)

/-- The value of an element code of a FORMAT code. -/
def decodeElem (fmt c : Nat) : FV :=
  match fmtOf? fmt with
  | some f => f.decode c
  | none =>
    match fmt with
    | 5 => intFV (sext 8 c)
    | 9 => intFV (sext 32 c)
    | 10 => intFV (sext 64 c)
    | 12 => e8m0FV c
    | _ => intFV (c : Nat)

def FV.isNan : FV → Bool | .nan => true | _ => false
def FV.isFinite : FV → Bool | .nan => false | .inf _ => false | _ => true
def FV.isZero : FV → Bool | .zero _ => true | _ => false
def FV.isNeg : FV → Bool | .inf n => n | .zero n => n | .num m _ => decide (m < 0) | .nan => false

/-- Normal form of a dyadic: a zero sum is +0. -/
def mkNum (m e : Int) : FV := if m = 0 then .zero false else .num m e

/-- The integer `m * 2^k` for `k ≥ 0`. -/
def shl (m k : Int) : Int := m * (2 ^ k.toNat : Nat)

/-- Exact sum of two dyadics. -/
def addDy (m1 e1 m2 e2 : Int) : FV :=
  let e := min e1 e2
  mkNum (shl m1 (e1 - e) + shl m2 (e2 - e)) e

def FV.neg : FV → FV
  | .nan => .nan | .inf n => .inf !n | .zero n => .zero !n | .num m e => .num (-m) e

/-- Exact product; NaN for infinity times zero (R77). -/
def FV.mul : FV → FV → FV
  | .nan, _ => .nan
  | _, .nan => .nan
  | .inf a, .inf b => .inf (a != b)
  | .inf _, .zero _ => .nan
  | .zero _, .inf _ => .nan
  | .inf a, .num m _ => .inf (a != decide (m < 0))
  | .num m _, .inf a => .inf (a != decide (m < 0))
  | .zero a, .zero b => .zero (a != b)
  | .zero a, .num m _ => .zero (a != decide (m < 0))
  | .num m _, .zero a => .zero (a != decide (m < 0))
  | .num m e, .num n f => .num (m * n) (e + f)

/-- Exact sum; opposite infinities give NaN; zeros of opposite sign give +0. -/
def FV.add : FV → FV → FV
  | .nan, _ => .nan
  | _, .nan => .nan
  | .inf a, .inf b => if a = b then .inf a else .nan
  | .inf a, _ => .inf a
  | _, .inf b => .inf b
  | .zero a, .zero b => .zero (a && b)
  | .zero _, x => x
  | x, .zero _ => x
  | .num m e, .num n f => addDy m e n f

/-- Order of finite and infinite values; zeros of either sign are equal here. -/
def FV.lt : FV → FV → Bool
  | .nan, _ => false
  | _, .nan => false
  | .inf a, .inf b => a && !b
  | .inf a, _ => a
  | _, .inf b => !b
  | .zero _, .zero _ => false
  | .zero _, .num m _ => decide (0 < m)
  | .num m _, .zero _ => decide (m < 0)
  | .num m e, .num n f => let k := min e f; decide (shl m (e - k) < shl n (f - k))

def FV.eq (a b : FV) : Bool := !a.isNan && !b.isNan && !a.lt b && !b.lt a

/-- Round-to-nearest-even of the magnitude `m * 2^e`, plus a little more when `sticky`, to an integer multiple of `2^q`. -/
def roundAt (m : Nat) (e q : Int) (sticky : Bool) : Nat :=
  if q ≤ e then m * 2 ^ (e - q).toNat
  else
    let k := (q - e).toNat
    let n := m / 2 ^ k
    let r := m % 2 ^ k
    let half := 2 ^ (k - 1)
    if r > half ∨ (r = half ∧ (sticky ∨ n % 2 = 1)) then n + 1 else n

/-- Magnitude code of the rounding of `m * 2^e` (`m > 0`) in a format, taken past the largest finite code where the
rounded magnitude passes the largest finite value (R80: a finite overflow). -/
def Fmt.roundMag (f : Fmt) (m : Nat) (e : Int) (sticky : Bool) : Nat :=
  let emin : Int := 1 - f.bias
  let top : Int := e + (m.log2 : Nat)
  let q : Int := max (top - f.mb) (emin - f.mb)
  let n := roundAt m e q sticky
  n + ((q - (emin - f.mb)).toNat) * 2 ^ f.mb

/-- What a rounding wrote: the code, whether it was a finite overflow and whether its exact value was non-finite. -/
structure Rnd where
  code : Nat
  ovf : Bool := false
  nonfin : Bool := false
  deriving DecidableEq, Repr

/-- Infinity and NaN codes of R80. -/
def Fmt.infCode (f : Fmt) (neg : Bool) : Nat :=
  match f.special with
  | 1 => flag neg (f.eb + f.mb) + (2 ^ f.eb - 1) * 2 ^ f.mb
  | 2 => 0x7F
  | _ => flag neg (f.eb + f.mb) + f.maxCode

def Fmt.nanCode (f : Fmt) : Nat :=
  match f.special with
  | 1 => (2 ^ f.eb - 1) * 2 ^ f.mb + 2 ^ (f.mb - 1)
  | 2 => 0x7F
  | _ => 0

/-- R80: the one rounding of a magnitude with its sign. -/
def Fmt.roundNum (f : Fmt) (sat neg : Bool) (m : Nat) (e : Int) (sticky : Bool) : Rnd :=
  let c := f.roundMag m e sticky
  if c > f.maxCode then
    { code := if sat ∨ f.special = 0 then flag neg (f.eb + f.mb) + f.maxCode else f.infCode neg, ovf := true }
  else { code := flag neg (f.eb + f.mb) + c }

/-- R80: the rounding of a value to a floating-point format. -/
def Fmt.round (f : Fmt) (sat : Bool) : FV → Rnd
  | .nan => { code := f.nanCode, nonfin := true }
  | .inf n => { code := f.infCode n, nonfin := true }
  | .zero n => { code := flag n (f.eb + f.mb) }
  | .num m e => f.roundNum sat (decide (m < 0)) m.natAbs e false

/-- R80: rounding to a `w`-bit two's-complement integer, ties to even, saturating. -/
def roundIntW (w : Nat) : FV → Rnd
  | .nan => { code := 0, nonfin := true }
  | .inf n => { code := if n then 2 ^ (w - 1) else 2 ^ (w - 1) - 1, nonfin := true }
  | .zero _ => { code := 0 }
  | .num m e =>
    let n := roundAt m.natAbs e 0 false
    if m < 0 then
      if n > 2 ^ (w - 1) then { code := 2 ^ (w - 1), ovf := true } else { code := (2 ^ w - n) % 2 ^ w }
    else if n > 2 ^ (w - 1) - 1 then { code := 2 ^ (w - 1) - 1, ovf := true } else { code := n }

/-- Rounding to an element of a FORMAT code without block scales (R80, R99). An unscaled INT8 destination is written as
the INT32 row of the table with the range of INT8 (DEDUCED, notes/assumptions/10.md). -/
def roundElem (fmt : Nat) (sat : Bool) (v : FV) : Rnd :=
  match fmtOf? fmt with
  | some f => f.round sat v
  | none => if fmt = 9 then roundIntW 32 v else if fmt = 10 then roundIntW 64 v else roundIntW 8 v

/-- The largest exponent `emax` of R113 step 3, and of R357 for INT8. -/
def mxEmax : Nat → Int
  | 3 => 8 | 4 => 15 | 6 => 4 | 7 => 2 | 8 => 2 | 5 => 6 | _ => 0

/-- ⌊log2 |v|⌋ of a nonzero dyadic. -/
def floorLog2 (m e : Int) : Int := e + (m.natAbs.log2 : Nat)

/-- R113: a block of elements quantised to an MX format: scale, element codes, saturated elements, and whether the scale
is 0xFF. `import?` is the scale of an IMPORT. -/
def mxBlock (fmt : Nat) (import? : Option Nat) (xs : List FV) : Nat × List Nat × Nat × Bool :=
  if xs.any (fun x => !x.isFinite) || import? == some 255 then (255, xs.map fun _ => 0, 0, true)
  else
    let tops := xs.filterMap fun | .num m e => some (floorLog2 m e) | _ => none
    let scale : Nat := match import? with
      | some c => c % 256
      | none => match tops with
        | [] => 127
        | t :: ts => (max 0 (min 254 (ts.foldl max t - mxEmax fmt + 127))).toNat
    if import?.isNone && tops.isEmpty then (127, xs.map fun _ => 0, 0, false)
    else
      let one := fun (x : FV) => match x with
        | .num m e => roundElem fmt true (.num m (e - ((scale : Int) - 127)))
        | v => roundElem fmt true v
      let rs := xs.map one
      (scale, rs.map (·.code), (rs.filter (·.ovf)).length, false)

/-- Sum of elements of a list in the exact fixed-point sense: finite parts only, at weight 2^-300 (R75). -/
def toFixed (v : FV) : Int :=
  match v with
  | .num m e => if e + 300 ≥ 0 then shl m (e + 300) else m / ((2 ^ (-(e + 300)).toNat : Nat) : Int)
  | _ => 0

/-- The non-finite flags of a value (R77): bit 0 NAN, bit 1 PINF, bit 2 NINF. -/
def nfFlags : FV → Nat
  | .nan => 1 | .inf false => 2 | .inf true => 4 | _ => 0

/-- A 640-bit two's-complement wrap of an integer. -/
def wrap640 (i : Int) : Int := sext 640 (wrapInt 640 i)

/-- The value a heartwood accumulator drains, before rounding (R77, R79). -/
def accFV (v : Int) (flags : Nat) (adj : Int) : FV :=
  if bit flags 0 ∨ (bit flags 1 ∧ bit flags 2) then .nan
  else if bit flags 1 then .inf false else if bit flags 2 then .inf true
  else mkNum v (-300 + adj)

/-! Table functions (R108 to R110): correctly rounded from 320-bit fixed point. -/

def fxBits : Nat := 320
def fxOne : Nat := 2 ^ fxBits

/-- ⌊√n⌋ by bits from `k` down. -/
def isqrtAux (n : Nat) : Nat → Nat → Nat
  | 0, r => r
  | k + 1, r => let t := r + 2 ^ k; isqrtAux n k (if t * t ≤ n then t else r)

def isqrt (n : Nat) : Nat := isqrtAux n (n.log2 / 2 + 1) 0

/-- exp of a fixed-point fraction by `n` Taylor terms; `k` counts terms from 1. -/
def expTaylor (x : Nat) : Nat → Nat → Nat → Nat → Nat
  | 0, _, _, acc => acc
  | n + 1, k, term, acc => let t := term * x / fxOne / k; expTaylor x n (k + 1) t (acc + t)

/-- atanh of a fixed-point fraction by `n` odd terms. -/
def atanhSeries (z2 : Nat) : Nat → Nat → Nat → Nat → Nat
  | 0, _, _, acc => acc
  | n + 1, k, p, acc => atanhSeries z2 n (k + 2) (p * z2 / fxOne) (acc + p / k)

/-- ln of a fixed-point number in [1, 2). -/
def lnFx (y : Nat) : Nat :=
  let z := (y - fxOne) * fxOne / (y + fxOne)
  2 * atanhSeries (z * z / fxOne) 110 1 z 0

def ln2Fx : Nat := 2 * atanhSeries (fxOne / 9) 110 1 (fxOne / 3) 0

/-- 2^f for a fixed-point fraction f in [0, 1). -/
def exp2Fx (f : Nat) : Nat := expTaylor (f * ln2Fx / fxOne) 90 1 fxOne fxOne

/-- Split of `m * 2^e` into an integer and a fixed-point fraction. -/
def splitFx (m e : Int) : Int × Nat :=
  let v : Int := if e + (fxBits : Int) ≥ 0 then shl m (e + fxBits) else m / ((2 ^ (-(e + fxBits)).toNat : Nat) : Int)
  (v / (fxOne : Int), (v % (fxOne : Int)).toNat)

/-- An approximation from below with its exactness: magnitude `m * 2^e`, a little more when `sticky`. -/
structure Apx where
  neg : Bool := false
  m : Nat
  e : Int
  sticky : Bool
  deriving DecidableEq, Repr

/-- Result of a table function: a special value, or an approximation that rounds as the exact value does. -/
inductive TF where
  | val (v : FV)
  | apx (a : Apx)
  /-- +Inf where the mathematical value is a finite overflow (R109: A ≥ 128) -/
  | big
  deriving DecidableEq, Repr

def TF.round (f : Fmt) (sat : Bool) : TF → Rnd
  | .val v => f.round sat v
  | .big => { code := f.infCode false, ovf := true }
  | .apx a => f.roundNum sat a.neg a.m a.e a.sticky

/-- ED_EXP2 (R108, R109). A ≥ 128 is +Inf. -/
def tfExp2 : FV → TF
  | .nan => .val .nan
  | .inf true => .val (.zero false)
  | .inf false => .val (.inf false)
  | .zero _ => .val (.num 1 0)
  | .num m e =>
    if !FV.lt (.num m e) (.num 1 7) then .big
    else if FV.lt (.num m e) (.num (-200) 0) then .apx { m := 1, e := -300, sticky := true }
    else
      let (n, f) := splitFx m e
      if f = 0 then .val (.num 1 n) else .apx { m := exp2Fx f, e := n - fxBits, sticky := true }

/-- ED_LOG2. -/
def tfLog2 : FV → TF
  | .nan => .val .nan
  | .inf true => .val .nan
  | .inf false => .val (.inf false)
  | .zero _ => .val (.inf true)
  | .num m e =>
    if m < 0 then .val .nan
    else
      let k := m.natAbs.log2
      let y := m.natAbs * 2 ^ (fxBits - k)
      let ex : Int := e + k
      if y = fxOne then .val (intFV ex)
      else
        let l : Int := ex * (fxOne : Int) + (lnFx y * fxOne / ln2Fx : Nat)
        .apx { neg := decide (l < 0), m := l.natAbs, e := -(fxBits : Int), sticky := true }

/-- ED_RCP. -/
def tfRcp : FV → TF
  | .nan => .val .nan
  | .inf n => .val (.zero n)
  | .zero n => .val (.inf n)
  | .num m e =>
    let d := m.natAbs
    let k := d.log2 + 80
    .apx { neg := decide (m < 0), m := 2 ^ k / d, e := -e - k, sticky := decide (2 ^ k % d ≠ 0) }

/-- ED_RSQ. -/
def tfRsq : FV → TF
  | .nan => .val .nan
  | .inf true => .val .nan
  | .inf false => .val (.zero false)
  | .zero n => .val (.inf n)
  | .num m e =>
    if m < 0 then .val .nan
    else
      let d : Nat := if e % 2 = 0 then m.natAbs else 2 * m.natAbs
      let h : Int := if e % 2 = 0 then e / 2 else (e - 1) / 2
      let k := d.log2 + 80
      let q := 2 ^ (2 * k) / d
      let r := isqrt q
      .apx { m := r, e := -h - k, sticky := decide (r * r ≠ q ∨ 2 ^ (2 * k) % d ≠ 0) }

/-- ED_TANH. -/
def tfTanh : FV → TF
  | .nan => .val .nan
  | .inf n => .val (.num (if n then -1 else 1) 0)
  | .zero n => .val (.zero n)
  | .num m e =>
    let neg := decide (m < 0)
    let a : Int := m.natAbs
    if FV.lt (.num a e) (.num 1 (-13)) then
      .apx { neg := neg, m := m.natAbs * 2 ^ 64 - 1, e := e - 64, sticky := true }
    else if !FV.lt (.num a e) (.num 32 0) then
      .apx { neg := neg, m := 2 ^ 64 - 1, e := -64, sticky := true }
    else
      let (n, f) := splitFx (2 * a) e
      let x := (n.toNat * fxOne + f) * fxOne / ln2Fx
      let p := x / fxOne
      let t := exp2Fx (x % fxOne) * 2 ^ p
      .apx { neg := neg, m := (t - fxOne) * fxOne / (t + fxOne), e := -(fxBits : Int), sticky := true }

end Sys2Proof.Machine
end

