-- ==== Sys2Proof/Config.lean ====
section
/-! DEFINITION. What an implementation fixes and the free values: constants with no body, so that no proof can see what
they are (notes/assumptions/4.md). -/

namespace Sys2Proof.Config

/-- R78: a column (0 to 63) or the check accumulator (64) of an accumulator row whose contents are undefined, by seed, row
and column. -/
opaque freeAcc (seed row col : Nat) : BitVec 640

/-- R78: the flags of such a column: three bits. -/
opaque freeAccFlags (seed row col : Nat) : BitVec 3

/-- R145: what the decoder of a code finds in a unit damaged beyond what the code guarantees: 0 no error, 1 corrected,
2 uncorrectable; and the data it then delivers, 64 bytes at most. It follows from what is stored: the code (0 SECDED, 1 Deck
RS, 2 HBM, 3 LPDDR), the data as encoded and the bits flipped since. -/
opaque freeDecode (code data flips : Nat) : BitVec 2
opaque freeUnit (code data flips : Nat) : BitVec 512

/-- R121: which mantissa bit of a result the residue injection inverts, by seed. -/
opaque freeMantissaBit (seed : Nat) : BitVec 5

/-- R243: the entry of a stand's route table that gives it the way back to the source of a circuit: the spec says that the
plan's table gives one and not which, by seed. -/
opaque freeNackRoute (seed : Nat) : BitVec 12

/-- R243: the route entry for NACKs of an end point that is no stand: the plan image gives it no table, by seed. -/
opaque freeNackEntry (seed : Nat) : BitVec 128

/-- R239: the route table entry along which a remote SK_ATOM sends its packets: the instruction names none (R216). -/
opaque freeAtomRoute (seed : Nat) : BitVec 12

/-- R206, R235, R272: the logical ID of a device in a domain whose range maps none to its physical ID: the spec gives none. -/
opaque freeLid (dom phys : Nat) : BitVec 16

/-- R429, R487: bytes of the security block's random source, by seed. -/
opaque freeRandom (seed : Nat) : BitVec 512

/-- R288, R294: VALUE in the reply to a NOTCH packet that is not applied, by seed. -/
opaque refusedValue (seed : Nat) : BitVec 32

/-- R309: whether an access of a queue's context finds it out of the context cache: no rule says which contexts the cache gives
up, by seed. -/
opaque contextMiss (seed : Nat) : Bool

/-- R355, R366: the bytes that a COPY job copies: no field of the job entry is said to hold them, by entry. -/
opaque copyBytes (entry : Nat) : BitVec 48

/-- R356: what an unscaled INT8 target keeps of a NaN: its format has none, by sign. -/
opaque nanInt8 (neg : Bool) : BitVec 8

/-- R378: which of a domain's windows are the plan's KV windows: nothing in the plan image names them, by plan, domain and
window number. -/
opaque kvWindow (planId dom window : Nat) : Bool

/-- R375: the token counter of a stand that the build's token goes to, 0 for none: the image names none, by plan and stand. -/
opaque buildToken (planId st : Nat) : BitVec 5

/-- R372: how a "slot to request" index tensor names a request: the spec gives no code, by arrival number. -/
opaque requestCode (arrival : Nat) : BitVec 32

/-- R418: lines that a Grader phase finds missing in its mask and transition caches, by seed. -/
opaque maskMisses (seed : Nat) : BitVec 16
opaque transMisses (seed : Nat) : BitVec 16

/-- R406: the nucleus size, less 1, where no cumulative weight reaches TOP_P of the whole (a TEMP so small that log2(e) / TEMP
is infinite makes the weights NaN): the rule gives none, by seed. -/
opaque freeRank (seed : Nat) : BitVec 20

/-- R477: the fields of a LINK section, whose places in it the spec does not give, by section and field: 0 LEN_LOG2, 1 NX − 1,
2 NY − 1, 3 GM, 4 + p MODE_p, 16 + i the i-th entry of RECOVERY. -/
opaque linkField (section_ : BitVec 2048) (field : Nat) : BitVec 16

/-- R475: the fields of a MEM section, whose places in it the spec does not give: 0 LP_GB, 1 the expected LPDDR5X presence mask. -/
opaque memField (section_ : BitVec 32768) (field : Nat) : BitVec 16

/-- R475: TJ_WARN and HBM_WARN of a CMP section, which follow the compartments at no stated place. -/
opaque warnField (section_ : BitVec 4096) (field : Nat) : BitVec 8

/-- R476: the vendor public key that mask ROM holds, and the SHA-512 digest of the mask ROM (R493). -/
opaque vendorKey : BitVec 256
opaque romDigest : BitVec 512

/-- R496: BOOT_MS, the milliseconds from the release of reset to READY, by seed. -/
opaque bootMs (seed : Nat) : BitVec 16

/-- R479: the copy that an update writes in a FAILED device, which has booted neither, by seed. -/
opaque failedCopy (seed : Nat) : Bool

end Sys2Proof.Config
end

