-- ==== Sys2Proof/Machine/StateHub.lean ====
section
/-! DEFINITION. State of the hub units: notches and queues (chapter 10), weight sets and the Bucker (12), the Landing (13), the
Grader (14), and the protection domains (17). -/

namespace Sys2Proof.Machine

/-- A slot of a stand's set map (R344): model, generation, set entry, and extents as (first frame, pages). -/
structure SetSlot where
  model : Nat := 0
  gen : Nat := 0
  entry : Nat := 0
  ext : List (Nat × Nat) := []
  deriving DecidableEq, Repr

/-- An entry of the set table (R342). STATE by R343: 0 FREE, 1 BUILDING, 2 READY, 3 CURRENT, 4 DRAINING, 5 FAILED. -/
structure SetEnt where
  state : Nat := 0
  domain : Nat := 0
  model : Nat := 0
  gen : Nat := 0
  /-- extents as (first frame, pages); NEXT is their number -/
  ext : List (Nat × Nat) := []
  adCount : Nat := 0
  adLines : Nat := 0
  adBase : Nat := 0
  notify : Bool := false
  notch : Nat := 0
  notifyVal : Nat := 0
  cache : Nat := 0
  live : Nat := 0
  /-- adapter slots loaded (R341), and ADAPTER jobs completed since CREATE (R431) -/
  loaded : List Nat := []
  adJobs : Nat := 0
  deriving DecidableEq, Repr

/-- A job that has run and whose completion is not yet written (R355, R361). -/
structure JobDone where
  type : Nat
  status : Nat
  set : Nat
  /-- notch of the completion and its addend, 0xFFFF for none -/
  notch : Nat
  add : Nat
  /-- adapter slot of an ADAPTER job -/
  slot : Nat := 0
  deriving DecidableEq, Repr

/-- The Bucker registers of an LD (R367). Reset 0. -/
structure BuckLd where
  arg : Nat := 0
  resStatus : Nat := 0
  resSet : Nat := 0
  resGen : Nat := 0
  selSet : Nat := 0
  selWord : Nat := 0
  /-- BUCK_JOB_BASE: whether the job ring lies in device memory, and its address -/
  jobDev : Bool := false
  jobBase : Nat := 0
  jobSize : Nat := 0
  jobCons : Nat := 0
  jobProd : Nat := 0
  stopped : Bool := false
  stopStatus : Nat := 0
  err : Rec := {}
  /-- BUCK_RELEASED, by set entry -/
  released : List Nat := []
  bytesIn : Ctr := {}
  linesOut : Ctr := {}
  sat : Ctr := {}
  jobFail : Ctr := {}
  done : Option JobDone := none
  deriving DecidableEq, Repr

/-- A SWITCH accepted and not yet in effect (R348): its domain, set entry and the ring of its acceptance. -/
structure Switch where
  dom : Nat
  set : Nat
  ring : Nat
  deriving DecidableEq, Repr

/-- A DRAIN of a model (R353); `on` from the step boundary that follows it. -/
structure Hold353 where
  dom : Nat
  model : Nat
  on : Bool
  /-- a ticket has recorded it (R438) -/
  noted : Bool
  deriving DecidableEq, Repr

structure WeightSt where
  /-- the set table: 256 entries (R341) -/
  sets : Tab SetEnt := []
  /-- generation high-water marks, at 65,536 d + m -/
  marks : Tab Nat := []
  /-- set maps: slot g of stand s at 2s + g -/
  map : Tab SetSlot := []
  switches : List Switch := []
  drains : List Hold353 := []
  /-- adapters loaded and not yet journalled: domain, set entry, slot (R364) -/
  adapters : List (Nat × Nat × Nat) := []
  ld : Tab BuckLd := []
  deriving DecidableEq, Repr

/-- A notch (R287). -/
structure Notch where
  value : Nat := 0
  sat : Bool := false
  wmode : Nat := 0
  deriving DecidableEq, Repr

/-- A packet waiter (R293): the threshold and the request, which holds the reply route and the requester tag. -/
structure Waiter where
  notch : Nat
  thr : Nat
  pkt : Packet
  deriving DecidableEq, Repr

/-- The source of an operation (R289): input, and for a packet its device and end point, for the queue engine the queue. -/
structure NSrc where
  input : Nat
  dev : Nat := 0
  end_ : Nat := 0
  deriving DecidableEq, Repr

/-- An operation that has reached the bank and is applied in a later cycle (R289, R296): operation of R288, or 4 for the registration
of a queue's WAIT, and the packet that a reply answers. -/
structure NOp where
  src : NSrc
  op : Nat
  notch : Nat
  value : Nat
  pkt : Option (Packet × Tag) := none
  deriving DecidableEq, Repr

/-- A domain's copy of the Notch bank registers (R312). -/
structure NotchDom where
  err : Rec := {}
  ops : Ctr := {}
  satCnt : Ctr := {}
  fence : Ctr := {}
  full : Ctr := {}
  drop : Ctr := {}
  deriving DecidableEq, Repr

/-- The Notch bank (R287 to R299). -/
structure NotchSt where
  n : Tab Notch := []
  waiters : List Waiter := []
  dom : Tab NotchDom := []
  /-- operations that have reached the bank, in order: each input delivers one in a cycle (R289) -/
  inbox : List NOp := []
  /-- notches that a SET, and that an ADD, has reached in this ring (R290) -/
  sets : List Nat := []
  adds : List Nat := []
  deriving DecidableEq, Repr

/-- A queue context (R310). Reset 0: DISABLED. -/
structure Queue where
  status : Nat := 0
  partition : Nat := 0
  specStop : Bool := false
  dlPolicy : Bool := false
  loc : Bool := false
  /-- 0 DISABLED, 1 ACTIVE, 2 BLOCKED, 3 FAULTED -/
  state : Nat := 0
  ringBase : Nat := 0
  defWait : Nat := 0
  size : Nat := 0
  cons : Nat := 0
  prod : Nat := 0
  gen : Nat := 0
  model : Nat := 0
  adapter : Nat := 0
  defer : Nat := 0
  waitValue : Nat := 0
  waitNotch : Nat := 0
  waitExpiry : Nat := 0
  /-- a change has satisfied the current WAIT (R304) -/
  met : Bool := false
  faultIdx : Nat := 0
  deriving DecidableEq, Repr

/-- The queue registers of an LD (R313). -/
structure QueueLd where
  selQueue : Nat := 0
  selWord : Nat := 0
  err : Rec := {}
  entries : Ctr := {}
  expired : Ctr := {}
  faults : Ctr := {}
  dbDrop : Ctr := {}
  cmiss : Ctr := {}
  drop : Ctr := {}
  deriving DecidableEq, Repr

structure QueueSt where
  ctx : Tab Queue := []
  ld : Tab QueueLd := []
  /-- the queue last visited (R308); at reset the last of all, so that queue 0 comes first -/
  last : Nat := 65535
  deriving DecidableEq, Repr

/-- What a prompt's staging has brought (R373, R374): the token IDs, or that they could not be read. -/
inductive Prompt where
  | ok (toks : List Nat)
  | bad
  deriving DecidableEq, Repr

/-- The slot that a live request occupies in a step (R370). -/
inductive SlotAt where
  | none
  | decode (k : Nat)
  | prefill (k : Nat)
  deriving DecidableEq, Repr

/-- What a step's VERIFY found for a request (R409 to R416): tokens with their log-probabilities, the grammar state, draft
length and run that follow, END, and whether any choice was SUSPECT. -/
structure Outcome where
  toks : List (Nat × Nat) := []
  gstate : Nat := 0
  d : Nat := 0
  z : Nat := 0
  ended : Bool := false
  suspect : Bool := false
  deriving DecidableEq, Repr

/-- A request that the Landing holds (R373), with what the Grader keeps of it (R403, R413 to R416). -/
structure Serve where
  arrival : Nat
  ring : Nat
  replica : Nat
  queue : Nat
  reqId : Nat
  flags : Nat
  topK : Nat
  promptLen : Nat
  maxNew : Nat
  deadline : Nat
  promptAddr : Nat
  seed : Nat
  adapter : Nat
  grammar : Nat
  temp : Nat
  topP : Nat
  draft : Nat
  prompt : Prompt
  /-- bound model and pinned generation of its queue when it was consumed -/
  model : Nat
  pin : Nat
  journalled : Bool := false
  cancel : Bool := false
  deferCause : Option Nat := none
  bestEffort : Bool := false
  /-- bound generation, set entry and adapter -/
  gen : Nat := 0
  set : Nat := 0
  bound : Nat := 0xFFFFFFFF
  /-- pages: series, page-map index -/
  pages : List (Nat × Nat) := []
  slot : SlotAt := .none
  /-- it sits out the coming step (R382, R388) -/
  sit : Bool := false
  /-- prompt positions written into index tensors; tokens delivered; last token -/
  fed : Nat := 0
  got : Nat := 0
  lastTok : Nat := 0
  /-- draft length, zero-acceptance run, whether a ticket owes the length; grammar state -/
  d : Nat := 0
  z : Nat := 0
  dOwed : Bool := false
  gstate : Nat := 0
  /-- of the running step: draft tokens proposed, and what VERIFY found -/
  drafts : List Nat := []
  res : Option Outcome := none
  deriving DecidableEq, Repr

/-- An entry of a step record (R392): its 64-byte units, and whether it is a NOTICE. -/
structure RecEnt where
  arrival : Nat
  units : List (List Byte)
  notice : Bool
  deriving DecidableEq, Repr

/-- A decision of a build about one request, by its arrival number (R375, R438). -/
inductive Dec where
  /-- an arrival that REPLAY takes from its tickets -/
  | arrival (r : Serve)
  | cancel (arr : Nat)
  /-- BITS of a RETIRE ticket -/
  | retire (arr bits : Nat)
  | draft (arr d z : Nat)
  | reject (arr code detail : Nat)
  /-- `fresh`: its first deferral or a change of cause -/
  | defer (arr : Nat) (slots fresh : Bool)
  | accept (arr sub gen adapter : Nat) (best : Bool)
  | sitout (arr : Nat)
  deriving DecidableEq, Repr

/-- A build (R375): its step and that step's first ring, its decisions, the cause where it holds the step, the TSEQ of its
BUILD ticket, and the last arrival number considered. -/
structure Build where
  step : Nat
  ring : Nat
  decs : List Dec
  held : Option Nat
  tseq : Nat
  last : Nat
  deriving DecidableEq, Repr

/-- What a repeated attempt of a step needs (R54, R393): the requests as the step began and where each one's prompt chunk starts, the
fields of its tally that its build settled, and, once the next build has taken effect, that build, the page-map entries it
changed as they stood, and the requests it removed from the pending ones. -/
structure Snap where
  step : Nat
  live : List Serve
  chunks : List (Nat × Nat)
  tseq : Nat
  inHash : Nat
  held : Bool
  built : Option Build := none
  undo : List (Nat × PageEnt) := []
  gone : List Serve := []
  deriving DecidableEq, Repr

/-- A step record that is due (R394). `closed` is its step's tally once it has closed: SEQ, FAILED and cause. -/
structure StepRec where
  step : Nat
  ring : Nat
  aborted : Bool
  again : Bool
  entries : List RecEnt
  closed : Option (Nat × Bool × Nat) := none
  deriving DecidableEq, Repr

/-- The Landing of an LD and its domain's replicas (R368 to R395). -/
structure LndLd where
  out : HostRing := {}
  msi : Bool := false
  vector : Nat := 0
  wb : Nat := 0
  held : Bool := false
  holdCause : Nat := 0
  err : Rec := {}
  arrivals : Ctr := {}
  admits : Ctr := {}
  rejects : Ctr := {}
  defers : Ctr := {}
  late : Ctr := {}
  cancels : Ctr := {}
  heldCt : Ctr := {}
  records : Ctr := {}
  /-- number of the next arrival -/
  nextArr : Nat := 1
  /-- requests, in arrival order; live requests in admission order -/
  pending : List Serve := []
  live : List Serve := []
  /-- prompts that have come for the REQUEST at the head of a queue -/
  staged : Tab Prompt := []
  /-- held steps that no HOLD ticket has covered: their number, the last of them, its cause -/
  owedHolds : Nat := 0
  lastHeld : Nat := 0
  owedCause : Nat := 0
  /-- a build whose tickets are written and whose last ticket is being read back (R376) -/
  build : Option Build := none
  /-- the build for the coming step has taken effect -/
  posted : Bool := false
  /-- the step that runs is held: it writes no record (R387) -/
  stepHeld : Bool := false
  /-- entries of the record of the step that runs, settled by the build -/
  entries : List RecEnt := []
  recs : List StepRec := []
  /-- page-map entries whose release a later build takes (R377) -/
  carried : List Nat := []
  /-- where the prompt chunks of the step last built start, by arrival number -/
  chunks : List (Nat × Nat) := []
  /-- the steps begun in this run, newest first; builds to be applied again in a repeated step -/
  hist : List Snap := []
  redo : List Build := []
  deriving DecidableEq, Repr

/-- A Grader object (R399, R400). -/
structure GObj where
  dom : Nat
  addr : Nat
  kind : Nat
  count : Nat
  masks : Nat
  start : Nat
  stateOff : Nat
  transOff : Nat
  maskOff : Nat
  trans : Nat
  deriving DecidableEq, Repr

/-- The Grader for one LD and its context (R417, R419). -/
structure GrLd where
  arg : Nat := 0
  resHandle : Nat := 0
  resStatus : Nat := 0
  err : Rec := {}
  positions : Ctr := {}
  proposed : Ctr := {}
  accepted : Ctr := {}
  empty : Ctr := {}
  mmiss : Ctr := {}
  check : Ctr := {}
  /-- token counters 1 to 16 -/
  tok : Tab Cnt := []
  /-- next schedule entry of the step; the phase in work: its end, in local cycles of compartment 19, and kind -/
  next : Nat := 0
  due : Option (Nat × Nat) := none
  /-- completion of the step's last VERIFY posted to the Landing -/
  done : Bool := false
  deriving DecidableEq, Repr

structure HubSt where
  obj : Tab GObj := []
  gr : Tab GrLd := []
  lnd : Tab LndLd := []
  deriving DecidableEq, Repr

/-- A tenancy domain of the protection table (R483 to R486). Reset 0. -/
structure Dom where
  /-- VALID, and the grants of PROT_DOM_CFG by bit: stand compartments, Aelel ports, stacks, packages -/
  valid : Bool := false
  stands : Nat := 0
  aelel : Nat := 0
  hbm : Nat := 0
  lp : Nat := 0
  /-- queue, notch and logical-ID ranges: first and count -/
  queues : Nat × Nat := (0, 0)
  notches : Nat × Nat := (0, 0)
  lids : Nat × Nat := (0, 0)
  /-- ENTRIES of PROT_DOM_HUB -/
  hub : Nat := 0
  /-- first and last 4 KiB page of the host region -/
  hostBase : Nat := 0
  hostLast : Nat := 0
  /-- windows W0, W1 (R318) -/
  win : Tab (Nat × Nat) := []
  deriving DecidableEq, Repr

end Sys2Proof.Machine
end

