-- ==== Sys2Proof/Machine/StateHost.lean ====
section
/-! DEFINITION. State of the blocks that face the outside, and what leaves the device. -/

namespace Sys2Proof.Machine

/-- Something the device sent out, oldest first in State. -/
inductive Emit where
  /-- a posted write to host memory by the function of an LD (R502) -/
  | hostWrite (ld : Nat) (addr : Nat) (bytes : List Byte)
  /-- an MSI-X message of an LD (R509) -/
  | msix (ld : Nat) (vector : Nat)
  /-- a frame sent on an Aelel port, in the link slot of this number of the ring (R255) -/
  | frame (port slot : Nat) (f : Frame)
  /-- a control block sent on an Aelel port, in the link slot of this number of the ring: its 32 bytes (R258) -/
  | control (port slot : Nat) (block : List Byte)
  /-- the response to a Fjotal command (R511, R512): COMMAND, TAG, STATUS and the data that follow -/
  | fjotal (cmd tag status : Nat) (data : List Byte)
  /-- an MCTP control response, and an SPDM response by its request (R492, R511) -/
  | mctp (data : List Byte)
  | spdm (request : Nat) (data : List Byte)
  /-- data of a CXL.mem read of an LD with its poison indication (R500); RspIHitI (R499); the answer to a Fabric Manager
  API command (R498) -/
  | cxlData (ld : Nat) (addr : Nat) (bytes : List Byte) (poison : Bool)
  | rspIHitI
  | fabric (data : List Nat)
  /-- what a TAP instruction shifts out (R556) -/
  | tdo (value : Nat)
  deriving DecidableEq, Repr

/-- The management block (R511 to R517). -/
structure Mgmt where
  /-- event log: the last 1,024 records, by record number mod 1,024, and the number of the next -/
  log : Tab (List Byte) := []
  logNext : Nat := 0
  /-- tally log: for each context the last 16 chained units, newest first, and the last SIGNATURE unit -/
  units : Tab (List (List Byte)) := []
  signature : Tab (List Byte) := []
  /-- SEC_MGT_STATUS: endpoint ID, I3C dynamic address, an SPDM session open -/
  eid : Nat := 0
  dyn : Nat := 0
  session : Bool := false
  /-- SEC_MGT_UPDATE (R494) -/
  updOpen : Bool := false
  updCopy : Nat := 0
  updBytes : Nat := 0
  /-- SEC_MGT_RAILSEL of each LD; lowest, highest and latest sample of each rail -/
  railSel : Tab Nat := []
  rails : Tab (Nat × Nat × Nat) := []
  cmds : Ctr := {}
  /-- messages that the SPDM responder has exchanged since GET_VERSION, and whether algorithms are settled (R492); a session
  begun by KEY_EXCHANGE and not yet finished -/
  transcript : List Byte := []
  settled : Bool := false
  keyed : Bool := false
  deriving DecidableEq, Repr

/-- The last RING_MARK taken on a port (R258, R276): its fields and the phase error it gives, in 1/128 cycle. -/
structure Mark where
  ring : Nat
  gm : Nat
  hops : Nat
  locked : Bool
  err : Int
  deriving DecidableEq, Repr

/-- A control block that waits to be sent (R258, R259): its type, its fields, how many copies are left, and whether one has gone. -/
structure CtlItem where
  type : Nat
  fields : List Nat
  left : Nat
  begun : Bool := false
  deriving DecidableEq, Repr

/-- An Aelel port (R252 to R284). Reset 0: DOWN. -/
structure AelPort where
  /-- STATE: 0 DOWN, 1 TRAINING, 2 UP -/
  state : Nat := 0
  lanes : Nat := 0
  peer : Nat := 0
  peerPort : Nat := 0
  /-- MODE_p of the LINK section: 0 disabled, 1 normal, 2 compatibility -/
  mode : Nat := 0
  rtt : Nat := 0
  flight : Nat := 0
  err : Rec := {}
  framesTx : Ctr := {}
  framesRx : Ctr := {}
  fecCorr : Ctr := {}
  fecUncorr : Ctr := {}
  resent : Ctr := {}
  void : Ctr := {}
  tagDrop : Ctr := {}
  /-- next LSEQ to send; last LSEQ accepted, none before the first (R266) -/
  lseqTx : Nat := 0
  lseqRx : Option Nat := none
  /-- the last 1,024 frames sent, oldest first (R265), and the frames that a RESEND_REQ named and that wait for a slot -/
  replay : List Frame := []
  pend : List Frame := []
  /-- HALF 0 of a flit whose HALF 1 has not come -/
  half : Option Frame := none
  /-- SEQ that follows the last flit of each circuit through the port (R263) -/
  cktSeq : Tab Nat := []
  /-- frames dropped in this ring (R269), uncorrectable codewords in this ring (R254) -/
  dropped : Bool := false
  badWords : Nat := 0
  /-- control blocks that wait for their slots, and blocks received that were discarded: the spec counts them in no register (R259) -/
  ctl : List CtlItem := []
  ctlFail : Ctr := {}
  /-- a DOWN command that takes effect at the next ring boundary (R254) -/
  downAsked : Bool := false
  /-- the last RING_MARK taken, and whether it came in this ring -/
  mark : Option Mark := none
  fresh : Bool := false
  deriving DecidableEq, Repr

/-- The Aelel links and ring time (chapter 09, R518 to R524). -/
structure AelSt where
  /-- own physical ID (X in [7:0], Y in [15:8]) and whether it is held -/
  id : Nat := 0
  known : Bool := false
  /-- LINK parameters: torus extents less 1, grandmaster, recovery order (R477) -/
  nx : Nat := 0
  ny : Nat := 0
  gm : Nat := 0
  recovery : List Nat := []
  /-- GM_SEL_N was asserted at the release of reset (R518) -/
  isGm : Bool := false
  ports : Tab AelPort := []
  /-- logical-to-physical map: valid bit and physical ID (R272); AEL_MAP_SEL of each LD -/
  map : Tab (Bool × Nat) := []
  mapSel : Tab Nat := []
  /-- ring-time parent and own HOPS; 511 until ring time is taken (R275, R521) -/
  parent : Option Nat := none
  hops : Nat := 511
  /-- what drives the root clock (R279, R286): the reference, a recovered clock of a port, or the local oscillator -/
  refDrives : Bool := false
  recov : Option Nat := none
  freeRun : Bool := false
  /-- the reference has returned: the root time from which a ring boundary takes it again (R280) -/
  restoreAt : Option Nat := none
  /-- phase error against the parent's estimate, in 1/128 cycle -/
  phase : Int := 0
  /-- marks averaged for the first acquisition and the sum of their errors; ring counter named by the last of them -/
  acqN : Nat := 0
  acqSum : Int := 0
  acqRing : Nat := 0
  /-- ring time has been seeded or acquired (R34, R521, R522) -/
  seeded : Bool := false
  /-- consecutive rings within tolerance (R277), and rings without an acceptable parent (R524) -/
  inTol : Nat := 0
  orphan : Nat := 0
  /-- lock cannot be regained without a reset (R277) -/
  lost : Bool := false
  deriving DecidableEq, Repr

/-- An entry of an LD's MSI-X table (R505, R509), in the layout of PCI Express: address, data, mask bit, reset 1 (PRESUMED,
notes/assumptions/30.md), and its pending bit. -/
structure Msix where
  addr : Nat := 0
  data : Nat := 0
  masked : Bool := true
  pend : Bool := false
  deriving DecidableEq, Repr

/-- The host port (chapter 18). Registers of an LD are listed by its number. -/
structure HostSt where
  /-- STATE of SEC_HOST_STATUS: 0 down, 1 training, 2 up; SPEED and log2 of the width -/
  link : Nat := 0
  speed : Nat := 0
  width : Nat := 0
  /-- keys programmed: CXL.cachemem IDE, and the LDs whose selective IDE stream is enabled (R504); CXL.cachemem is in
  containment after a failed check -/
  ideCm : Bool := false
  ideIo : List Nat := []
  contained : Bool := false
  /-- SEC_HOST_ERR0 and ERR1, SEC_HOST_DROPS, MEMDROP, RDFAIL, UPBYTES (R516) -/
  err : Tab Rec := []
  drops : Tab Ctr := []
  memDrop : Tab Ctr := []
  rdFail : Tab Ctr := []
  upBytes : Tab Ctr := []
  /-- MSI-X tables by LD and vector -/
  msix : Tab (Tab Msix) := []
  /-- read completions not yet used: data, or none where the read failed -/
  reads : List (HostRead × Option (List Byte)) := []
  deriving DecidableEq, Repr

/-- The CXL link is up. -/
def HostSt.up (h : HostSt) : Bool := h.link == 2

/-- The security block (chapter 17). -/
structure Sec where
  /-- SEC_BOOT: STAGE (0 in reset, 1 to 9 boot, 10 READY, 15 FAILED), COPY, A_STATE and B_STATE (0 valid, 1 erased, 2 invalid,
  3 not checked), FAIL_CODE, RESET_CAUSE, BOOT_MS -/
  stage : Nat := 0
  copy : Nat := 0
  aState : Nat := 3
  bState : Nat := 3
  failCode : Nat := 0
  cause : Nat := 0
  bootMs : Nat := 0
  /-- SEC_IMAGE_A and SEC_IMAGE_B -/
  seqA : Nat := 0
  seqB : Nat := 0
  /-- attestation key seed and its public key; SHA-512 of the booted copy; the copy itself as booted, by section type -/
  attSeed : List Byte := []
  pubKey : List Byte := []
  imageDigest : List Byte := []
  sects : Tab (List Byte) := []
  certSel : Nat := 0
  repairSel : Nat := 0
  /-- by physical row: failed stands in the image's repair map, and those that the self-test of this boot added (R480) -/
  image : Tab Nat := []
  tested : Tab Nat := []
  /-- LOCKED of PROT_CTRL (R486) -/
  locked : Bool := false
  deriving DecidableEq, Repr

/-- Pins of the board that hold the device (R545, R550, R556). At power-up COLD_RST_N and PERST_N are asserted (DESIGN CHOICE for
PERST_N, notes/assumptions/31.md). -/
structure Pins where
  cold : Bool := true
  perst : Bool := true
  /-- boot waits for PERST_N after an assertion of it -/
  perstHeld : Bool := false
  /-- a rail below its range has reset the device (R551) -/
  railHeld : Bool := false
  /-- TAP: the instruction selected (0 BYPASS, 1 IDCODE, 2 SAMPLE/PRELOAD, 3 EXTEST) and the last sample of the pins -/
  tap : Nat := 1
  sample : Nat := 0
  /-- RING_PULSE has begun (R550, R555) -/
  pulse : Bool := false
  deriving DecidableEq, Repr

end Sys2Proof.Machine
end

