-- ==== Sys2Proof/Machine/State.lean ====
section
/-! DEFINITION. The whole state of the block, as plain data, and the state after reset. -/

namespace Sys2Proof.Machine

/-- A fault that stops the block. The spec gives it none: every fault it describes is recorded in State and the block goes on
(R1, R431 to R453), so nothing raises one. -/
inductive Fault where
  deriving DecidableEq, Repr

/-- Why a command has no meaning. -/
inductive Refusal where
  /-- raised by an arm of exec whose command has no meaning yet; safe -/
  | notModelled (mnemonic : String)
  /-- raised by a meaning whose operand holds a code that the spec reserves and gives no effect: SEL of AR_CONST (R206); safe -/
  | reserved (field : String)
  deriving DecidableEq, Repr

/-- The state of the device, everything that the spec gives it; a table that lists nothing holds the reset value of its kind. -/
structure State where
  /-- ring counter, root cycle, ring length, lock (chapter 02) -/
  ring : RingSt := {}
  /-- plan contexts 0 to 15 -/
  ctx : Tab PlanCtx := []
  /-- tally, journal, event and twin state of each context (chapter 15), with its Scout record -/
  tally : Tab TallyCtx := []
  /-- the change ledger, and boot events held -/
  ledger : LedgerSt := {}
  /-- compartments 0 to 19 (chapter 16) -/
  cmp : Tab Cmp := []
  therm : Therm := {}
  /-- row repair and failing power (chapter 19) -/
  repair : Repair := {}
  /-- broadcast registers of each context (chapter 19) -/
  bcast : Tab Bcast := []
  /-- stands 0 to 511: streams, stores, Headrig, Edger, Deck (chapters 03 to 07) -/
  stand : Tab Stand := []
  /-- the Flume and the hub bridge (chapter 08) -/
  net : NetSt := {}
  /-- device memory, its units and the page map (chapter 11) -/
  mem : MemSt := {}
  /-- Aelel ports, the map and ring time (chapter 09) -/
  ael : AelSt := {}
  /-- weight sets and the Bucker (chapter 12) -/
  weight : WeightSt := {}
  /-- the Notch bank (chapter 10) -/
  notch : NotchSt := {}
  /-- queue contexts (chapter 10) -/
  queue : QueueSt := {}
  /-- Landing and Grader (chapters 13, 14) -/
  hub : HubSt := {}
  /-- the protection table (chapter 17) -/
  prot : Tab Dom := []
  /-- the security block (chapter 17) -/
  sec : Sec := {}
  /-- the host port (chapter 18) -/
  host : HostSt := {}
  /-- the management block (chapter 18) -/
  mgmt : Mgmt := {}
  /-- the flash, by offset, each byte as the complement of its contents, so that an erased byte (0xFF) is not listed -/
  flash : Mem := []
  /-- pins of the board and the test port (chapter 20) -/
  pins : Pins := {}
  /-- what has left the device, oldest first (the model's own) -/
  out : List Emit := []
  /-- the next seed of the free values (the model's own, notes/assumptions/4.md) -/
  free : Nat := 0
  /-- commands that wait, first in first out (the model's own) -/
  pending : List Instr := []
  deriving DecidableEq, Repr

/-- The state right after reset, with power just applied and COLD_RST_N asserted (R550): every field at its reset value. -/
def State.reset : State := {}

end Sys2Proof.Machine
end

