-- ==== Sys2Proof/Machine/Tab.lean ====
section
/-! DEFINITION. Reading and writing the sparse tables and the byte memories of State. -/

namespace Sys2Proof.Machine

/-- The entry of index `k`, or the kind's reset value `d` where the table lists none. -/
def tget {α : Type} (d : α) : Tab α → Nat → α
  | [], _ => d
  | (i, x) :: t, k => if i = k then x else tget d t k

/-- The entry of index `k`, if listed. -/
def tfind? {α : Type} : Tab α → Nat → Option α
  | [], _ => none
  | (i, x) :: t, k => if i = k then some x else tfind? t k

/-- The table with entry `k` set to `v`. -/
def tput {α : Type} : Tab α → Nat → α → Tab α
  | [], k, v => [(k, v)]
  | (i, x) :: t, k, v =>
    if k < i then (k, v) :: (i, x) :: t else if i = k then (k, v) :: t else (i, x) :: tput t k v

/-- The table with entry `k` passed through `f`. -/
def tupd {α : Type} (d : α) (t : Tab α) (k : Nat) (f : α → α) : Tab α := tput t k (f (tget d t k))

/-- The table without entry `k`: that index holds its reset value again. -/
def tdel {α : Type} : Tab α → Nat → Tab α
  | [], _ => []
  | (i, x) :: t, k => if i = k then tdel t k else (i, x) :: tdel t k

/-- Every listed entry passed through `f`, with its index. -/
def tmap {α : Type} (f : Nat → α → α) : Tab α → Tab α
  | [] => []
  | (i, x) :: t => (i, f i x) :: tmap f t

/-- The first index below `n` for which `p` holds. -/
def firstBelow (p : Nat → Bool) (n : Nat) : Option Nat := (List.range n).find? p

/-- The byte at address `a`. -/
def memGet : Mem → Nat → Byte
  | [], _ => 0
  | (i, x) :: t, a => if i = a then x else memGet t a

/-- The memory with a nonzero byte placed at `a`. -/
def memIns : Mem → Nat → Byte → Mem
  | [], a, b => [(a, b)]
  | (i, x) :: t, a, b =>
    if a < i then (a, b) :: (i, x) :: t else if i = a then (a, b) :: t else (i, x) :: memIns t a b

/-- The memory with nothing listed at `a`, which then reads as zero. -/
def memDel : Mem → Nat → Mem
  | [], _ => []
  | (i, x) :: t, a => if i = a then memDel t a else (i, x) :: memDel t a

/-- The memory with byte `b` at address `a`: writing zero removes the entry, so that equal memories are equal data. -/
def memPut (m : Mem) (a : Nat) (b : Byte) : Mem := if b = 0 then memDel m a else memIns m a b

/-- `n` bytes from address `a` up. -/
def memRead (m : Mem) (a : Nat) : Nat → List Byte
  | 0 => []
  | n + 1 => memGet m a :: memRead m (a + 1) n

/-- Bytes written from address `a` up. -/
def memWrite (m : Mem) (a : Nat) : List Byte → Mem
  | [] => m
  | b :: bs => memWrite (memPut m a b) (a + 1) bs

/-- Bytes written from address `a` up where the byte's enable is set (R124, R236). -/
def memWriteBE (m : Mem) (a : Nat) : List Byte → (Nat → Bool) → Mem
  | [], _ => m
  | b :: bs, be => memWriteBE (if be 0 then memPut m a b else m) (a + 1) bs (fun i => be (i + 1))

/-- Everything from address `lo` up to but not including `hi` returned to zero. -/
def memClear : Mem → Nat → Nat → Mem
  | [], _, _ => []
  | (i, x) :: t, lo, hi => if lo ≤ i ∧ i < hi then memClear t lo hi else (i, x) :: memClear t lo hi

/-- The canonical form of a memory, decidable: addresses strictly rising and no zero listed. -/
def Memory.wf : Mem → Bool
  | [] => true
  | [(_, x)] => x != 0
  | (i, x) :: (j, y) :: t => x != 0 && decide (i < j) && Memory.wf ((j, y) :: t)

end Sys2Proof.Machine
end

