-- ==== Sys2Proof/Machine/Flags.lean ====
section
/-! DEFINITION. The counter registers of R95 and the first-record registers of R557. -/

namespace Sys2Proof.Machine

/-- Largest COUNT of an R95 counter. -/
def ctrMax : Nat := 2 ^ 48 - 1

/-- A counter advanced by `k`: COUNT saturates and OVF is set when it would pass its largest value (R10, R95). -/
def Ctr.add (c : Ctr) (k : Nat) : Ctr :=
  if c.n + k > ctrMax then { ovf := true, n := ctrMax } else { c with n := c.n + k }

/-- R95: reading a counter register. -/
def Ctr.read (c : Ctr) : Nat := flag c.ovf 63 + c.n

/-- R95: writing 0 clears the register, other values are ignored. -/
def Ctr.write (c : Ctr) (v : Nat) : Ctr := if v = 0 then {} else c

/-- R557: an event of the recorded kind. -/
def Rec.latch (r : Rec) (w0 w1 w2 : Nat) : Rec :=
  if r.valid then { r with more := true } else { r with valid := true, w0 := w0, w1 := w1, w2 := w2 }

/-- R557: the record register with VALID in bit 63 and MORE in bit 62. -/
def Rec.read (r : Rec) : Nat := flag r.valid 63 + flag r.more 62 + r.w0

/-- R557: a write clears VALID and MORE where it holds ones. -/
def Rec.write (r : Rec) (v : Nat) : Rec :=
  { r with valid := r.valid && !bit v 63, more := r.more && !bit v 62 }

end Sys2Proof.Machine
end

