-- ==== Sys2Proof/Machine/Ops.lean ====
section
/-! DEFINITION. Operations over State that every chapter shares: reading and writing the tables, time, what leaves the
device, events (R450), and the marks a fault leaves in the running step's tally (R429, R432). -/

namespace Sys2Proof.Machine

/-! Tables of State. -/

def State.getCtx (s : State) (d : Nat) : PlanCtx := tget {} s.ctx d
def State.updCtx (s : State) (d : Nat) (f : PlanCtx → PlanCtx) : State := { s with ctx := tupd {} s.ctx d f }
def State.getTally (s : State) (d : Nat) : TallyCtx := tget {} s.tally d
def State.updTally (s : State) (d : Nat) (f : TallyCtx → TallyCtx) : State := { s with tally := tupd {} s.tally d f }
def State.getStand (s : State) (st : Nat) : Stand := tget {} s.stand st
def State.updStand (s : State) (st : Nat) (f : Stand → Stand) : State := { s with stand := tupd {} s.stand st f }
def State.getCmp (s : State) (k : Nat) : Cmp := tget {} s.cmp k
def State.updCmp (s : State) (k : Nat) (f : Cmp → Cmp) : State := { s with cmp := tupd {} s.cmp k f }
def State.emit (s : State) (e : Emit) : State := { s with out := s.out ++ [e] }

/-- The value of the free-value counter this step uses, and the state with it advanced. -/
def State.takeFree (s : State) : Nat × State := (s.free, { s with free := s.free + 1 })

/-- The conditions of R468 to R470, and THERM_WARN_N and THERM_TRIP_N as asserted (R553). -/
def Therm.warn (t : Therm) : Bool := t.warnTj || t.warnHbm
def Therm.trip (t : Therm) : Bool := t.tripTj || t.tripHbm
def Therm.crit (t : Therm) : Bool := t.critTj || t.critHbm
def Therm.tripPin (t : Therm) : Bool := t.trip || t.burnt

/-! Time. -/

/-- Ring length L (R33). -/
def State.L (s : State) : Nat := 2 ^ s.ring.lenLog2

/-- Root time of the device: rings and root cycles since the epoch (R35). -/
def State.time (s : State) : Nat := s.ring.count * s.L + s.ring.cycle

/-- The compartment of a stand (R21): pairs of rows of die A, then of die B. -/
def standCmp (st : Nat) : Nat := st / 32 / 2 + (if st % 32 ≥ 16 then 8 else 0)

/-- The local count at a stand (R37, R38). -/
def State.standNow (s : State) (st : Nat) : Nat := (s.getCmp (standCmp st)).loc

/-- R456: the skip period of an operating point, 0 where no edge is skipped. -/
def opPeriod : Nat → Nat
  | 1 => 9 | 2 => 5 | 3 => 3 | _ => 0

/-- R456: the kept edges of a ring before local count `t`. -/
def keptIdx (op t : Nat) : Nat := if opPeriod op = 0 then t else t - t / opPeriod op

/-- The local count of a ring's kept edge with `r` kept edges before it. -/
def keptAt (op r : Nat) : Nat := if opPeriod op = 0 then r else r + r / (opPeriod op - 1)

/-- R458: the local count of the `k`-th kept edge after a kept edge with count `t`. -/
def keptAfter (op t k : Nat) : Nat := keptAt op (keptIdx op t + k)

/-- Whether the operating point skips the edge of local count `t` (R456). -/
def skips (op t : Nat) : Bool := opPeriod op != 0 && t % opPeriod op == opPeriod op - 1

/-- R89, R91: the first odd local count at or after `t` that is kept, in which HA may write. -/
def oddKept (op t : Nat) : Nat :=
  let w := t + (1 - t % 2)
  if skips op w then w + 2 else w

/-- R89: the first even local count at or after `t` that is kept, in which HA may read. -/
def evenKept (op t : Nat) : Nat :=
  let w := t + t % 2
  if skips op w then w + 2 else w

/-- R89: the last even local count at or before `t` that is kept. -/
def evenBefore (op t : Nat) : Nat :=
  let w := t - t % 2
  if skips op w then w - 2 else w

/-- R458: a work count of `k` cycles from local count `t` at a stand. -/
def State.after (s : State) (st t k : Nat) : Nat := keptAfter (s.getCmp (standCmp st)).op t k

/-- The operating point of a stand's compartment. -/
def State.standOp (s : State) (st : Nat) : Nat := (s.getCmp (standCmp st)).op

/-! Units, as UNIT of RING_PLAN_SLIP (R69). -/

def standUnit (st stream : Nat) : Nat := at_ (st % 32) 9 + at_ (st / 32) 5 + stream
def hubUnit (k : Nat) : Nat := 0x8000 + k
def noUnit : Nat := 0xFFFF

/-! Host memory rings (R389) and what is written to them. -/

/-- Entries a ring holds: PROD less CONS, both wrapping modulo SIZE (R300, R311, R389). -/
def HostRing.used (r : HostRing) : Nat := (r.prod + r.size - r.cons) % r.size
/-- Free entries: a ring holds at most SIZE − 1 (R389). -/
def HostRing.free (r : HostRing) : Nat := r.size - 1 - r.used
/-- Host address of the entry of index `i`, for entries of `u` bytes. -/
def HostRing.addr (r : HostRing) (u i : Nat) : Nat := r.base + u * (i % r.size)
def HostRing.push (r : HostRing) : HostRing := { r with prod := (r.prod + 1) % r.size }

/-- A posted write to host memory by the function of an LD; its payload counts in SEC_HOST_UPBYTES (R499, R516). -/
def State.hostWrite (s : State) (ld addr : Nat) (bytes : List Byte) : State :=
  { s with out := s.out ++ [.hostWrite ld addr bytes]
           host := { s.host with upBytes := tupd {} s.host.upBytes ld fun c => c.add bytes.length } }

/-- R506, R507, R509: a write of an LD dropped: it counts, and SEC_HOST_ERR0 latches its CAUSE and OFFSET. -/
def State.hostDrop (s : State) (ld cause off : Nat) : State :=
  { s with host := { s.host with
      drops := tupd {} s.host.drops ld fun c => c.add 1
      err := tupd {} s.host.err ld fun r => r.latch (at_ cause 60 + off % 2 ^ 25) s.ring.count 0 } }

def State.getDom (s : State) (d : Nat) : Dom := tget {} s.prot d

/-- Whether a host structure of `n` bytes at `a` lies in the domain's host region (R484). -/
def Dom.hosts (g : Dom) (a n : Nat) : Bool := decide (g.hostBase * 4096 ≤ a ∧ a + n ≤ (g.hostLast + 1) * 4096)

/-- R507: a structure of `size` units of `u` bytes lies in the host region; a size of 0 counts as one unit. -/
def State.placed (s : State) (d : Nat) (base u size : Nat) : Bool := (s.getDom d).hosts base (u * max 1 size)

def State.getMsix (s : State) (ld v : Nat) : Msix := tget {} (tget [] s.host.msix ld) v
def State.updMsix (s : State) (ld v : Nat) (f : Msix → Msix) : State :=
  { s with host := { s.host with msix := tupd [] s.host.msix ld fun t => tupd {} t v f } }

/-- R509: a message of a vector: held pending while the vector is masked; one whose address lies outside the LD's host region
sends nothing and counts. The message is a write of 4 bytes. -/
def State.sendMsi (s : State) (ld v : Nat) : State :=
  let e := s.getMsix ld v
  if e.masked then s.updMsix ld v fun e => { e with pend := true }
  else
    let s := s.updMsix ld v fun e => { e with pend := false }
    if !(s.getDom ld).hosts e.addr 4 then s.hostDrop ld 3 v
    else
      let s : State := { s with out := s.out ++ [.msix ld v] }
      { s with host := { s.host with upBytes := tupd {} s.host.upBytes ld fun c => c.add 4 } }

/-- The 32-byte event record of R450. -/
def evtRecord (code ctx unit ring cyc i1 i2 : Nat) : List Byte :=
  layout 32 [(0, 2, code), (2, 1, ctx), (4, 2, unit), (8, 8, ring), (16, 4, cyc % 2 ^ 20), (20, 4, i1), (24, 8, i2)]

/-- R450: one record to the event ring of an LD; a full ring, or SIZE 0, drops it and TALLY_EVTLOST advances. -/
def State.putEvent (s : State) (ld : Nat) (r : List Byte) : State :=
  let t := s.getTally ld
  if t.evt.free = 0 then s.updTally ld fun t => { t with evtLost := t.evtLost.add 1 }
  else
    let s := (s.hostWrite ld (t.evt.addr 32 t.evt.prod) r).updTally ld fun t => { t with evt := t.evt.push }
    if t.evtMsi then s.sendMsi ld t.evtVector else s

/-- R450, R517: one record to the management block's log, which keeps the last 1,024. -/
def State.putLog (s : State) (r : List Byte) : State :=
  { s with mgmt := { s.mgmt with log := tput s.mgmt.log (s.mgmt.logNext % 1024) r, logNext := s.mgmt.logNext + 1 } }

/-- Every LD below `n` in turn. -/
def State.putEventAll (s : State) (r : List Byte) : Nat → State
  | 0 => s
  | n + 1 => (s.putEventAll r n).putEvent n r

/-- The device has reached READY and not been reset since (R478). -/
def State.ready (s : State) : Bool := s.sec.stage == 10

/-- R482, R485, R506: an LD sees the blocks of its domain once the device is READY, and only where the domain is valid. -/
def State.seen (s : State) (d : Nat) : Bool := s.ready && (s.getDom d).valid

/-- R506: a write by LD `d` to a register of its domain at a BAR0 offset: dropped and counted where the register is not visible. -/
def State.asLd (s : State) (d off : Nat) (f : State → State) : State := if s.seen d then f s else s.hostDrop d 0 off

/-- R482, R485: a plan command of LD `d` is refused before READY by its own status; an invalid domain has no plan registers. -/
def State.asPlanLd (s : State) (d off : Nat) (f : State → State) : State := if s.ready && !s.seen d then s.hostDrop d 0 off else f s

/-- R450: an event that concerns plan context `d`, raised now. -/
def State.raiseAt (s : State) (code d unit cyc i1 i2 : Nat) : State :=
  let r := evtRecord code d unit s.ring.count cyc i1 i2
  let s := s.updTally d fun t => { t with acc := { t.acc with events := satAt 32 (t.acc.events + 1) } }
  let s := s.putEvent d r
  if s.ready then s else s.putLog r

/-- R450: an event that concerns the device as a whole: it goes to every LD, and the management log takes those of class
0x01, 0x07 and 0x08 and all that are raised before READY. -/
def State.raiseAll (s : State) (code unit cyc i1 i2 : Nat) : State :=
  let r := evtRecord code 0xFF unit s.ring.count cyc i1 i2
  let s := s.putEventAll r 16
  if !s.ready || code / 256 == 1 || code / 256 == 7 || code / 256 == 8 then s.putLog r else s

/-- R432: the step's tally is FAILED; the first cause recorded stays. -/
def State.failStep (s : State) (d cause unit : Nat) : State :=
  s.updTally d fun t =>
    { t with acc := { t.acc with failed := true, cause := if t.acc.cause = 0 then cause else t.acc.cause,
                                 causeUnit := if t.acc.cause = 0 then unit else t.acc.causeUnit } }

/-- An event of kind F: it is raised and marks the step FAILED (R451). -/
def State.raiseFail (s : State) (code d unit cyc i1 i2 : Nat) : State :=
  (s.raiseAt code d unit cyc i1 i2).failStep d code unit

/-- Changes to the running step's tally fields. -/
def State.updAcc (s : State) (d : Nat) (f : StepAcc → StepAcc) : State := s.updTally d fun t => { t with acc := f t.acc }

/-- R446, R453: a finding of the Scout: check 0 to 5, unit, resource; checks 0 to 4 fail the step. -/
def State.scoutFind (s : State) (d check unit res cyc : Nat) : State :=
  let s := s.updTally d fun t =>
    { t with scout := t.scout.latch (at_ check 59 + at_ unit 40 + at_ (res % 2 ^ 20) 20 + cyc % 2 ^ 20) s.ring.count 0
             findings := t.findings.add 1 }
  if check = 5 then s.raiseAt 0x0602 d unit cyc check res else s.raiseFail 0x0602 d unit cyc check res

/-- R61: a halt at a coming ring boundary; of two, the earlier one, and the first asked for (DESIGN CHOICE, notes/assumptions/56.md). -/
def State.askHalt (s : State) (d cause ring unit : Nat) : State :=
  s.updCtx d fun c => if c.halt.any fun h => decide (h.ring ≤ ring) then c else { c with halt := some { cause := cause, ring := ring, unit := unit } }

/-- R525: a read of an entry of a stand's stores fails its parity: the step fails and the plan halts at the next boundary. -/
def State.parityFault (s : State) (st stream store : Nat) : State :=
  match (s.getStand st).ctx with
  | some d =>
    (s.raiseFail 0x0701 d (standUnit st stream) (s.standNow st) st store).askHalt d 0x0701 (s.ring.count + 1) (standUnit st stream)
  | none => s

/-- Declarations of the OWNERSHIP section of a context's plan (R562, R446), 16 bytes each. -/
def PlanCtx.declarations (c : PlanCtx) : List (List Byte) :=
  ((c.sects.filter (·.type == 0x17)).map fun x => (List.range (x.bytes.length / 16)).map fun i => slice x.bytes (16 * i) 16).flatten

/-- Whether a debug plan runs in the context (R446, R96). -/
def PlanCtx.debugging (c : PlanCtx) : Bool := c.debug && (c.state == .running || c.state == .stopping)

/-! Identity (R271, R272). -/

/-- R515, R539: plan commands are refused and queues consume nothing while PWR_WARN_N is asserted, or a RESET in MODE 1 stops the device. -/
def Repair.refuses (r : Repair) : Bool := r.warn || r.resetEnv.isSome

/-- A number of a domain's range. -/
def inRange (r : Nat × Nat) (n : Nat) : Bool := decide (r.1 ≤ n ∧ n < r.1 + r.2)

/-- The logical ID of this device for a domain: the first of the domain's range that the map gives to its physical ID
(DEDUCED, notes/assumptions/19.md). -/
def State.logicalId (s : State) (d : Nat) : Nat :=
  match s.ael.map.find? fun e => inRange (s.getDom d).lids e.1 && e.2.1 && e.2.2 == s.ael.id with
  | some e => e.1
  | none => (Config.freeLid d s.ael.id).toNat

def State.getAel (s : State) (p : Nat) : AelPort := tget {} s.ael.ports p
def State.updAel (s : State) (p : Nat) (f : AelPort → AelPort) : State :=
  { s with ael := { s.ael with ports := tupd {} s.ael.ports p f } }

/-- The domain that a port is granted to, if any (R268). -/
def State.aelDom (s : State) (p : Nat) : Option Nat := firstBelow (fun d => (s.getDom d).valid && bit (s.getDom d).aelel p) 16

/-! Configuration changes (R447 to R449). -/

/-- R449: an entry of the change ledger. -/
def State.putChange (s : State) (x : Change) : State :=
  { s with ledger := { s.ledger with next := (x.c + 1) % 2 ^ 32, entries := tput s.ledger.entries (x.c % 256) x } }

/-- R448: a change counted in a domain's epoch, and the EPOCH ticket it owes. -/
def State.bumpEpoch (s : State) (d : Nat) (x : Change) : State :=
  s.updTally d fun t => { t with epoch := t.epoch + 1, epochTickets := t.epochTickets ++ [(t.epoch + 1, x)]
                                 acc := { t.acc with epochMoved := true } }

/-- R448: EPOCH_SATURATED, once for a domain. -/
def State.epochRefused (s : State) (d : Nat) : State :=
  let first := !(s.getTally d).epochSat
  let s := s.updTally d fun t => { t with epochSat := true, epochRef := t.epochRef.add 1 }
  if first then s.raiseAt 0x0605 d noUnit s.ring.cycle 0 0 else s

/-- R447, R448: an accepted change of domain `d` by port `port`: `f` applied with the epoch, or refused where the epoch is
at its largest value. -/
def State.change (s : State) (d port off sel old new : Nat) (f : State → State) : State :=
  let e := (s.getTally d).epoch
  if e = 0xFFFFFFFF then s.epochRefused d
  else
    let x : Change := { c := s.ledger.next, epochs := [e + 1], domain := d, port := port, offset := off, sel := sel, old := old
                        new := new, ring := s.ring.count }
    ((f s).putChange x).bumpEpoch d x

/-- R494, R448: a change of device-wide state by the management port: every domain's epoch moves. A domain whose epoch is
at its largest value refuses its own part. -/
def State.changeAll (s : State) (port off sel old new : Nat) (f : State → State) : State :=
  if (List.range 16).any fun d => (s.getTally d).epoch == 0xFFFFFFFF then
    (List.range 16).foldl (fun s d => if (s.getTally d).epoch = 0xFFFFFFFF then s.epochRefused d else s) s
  else
    let x : Change := { c := s.ledger.next, epochs := (List.range 16).map fun d => (s.getTally d).epoch + 1, domain := 0xFF
                        port := port, offset := off, sel := sel, old := old, new := new, ring := s.ring.count }
    (List.range 16).foldl (fun s d => s.bumpEpoch d x) ((f s).putChange x)

/-! Token and credit counters of a stand (R194 to R200). -/

/-- Posts that have been made by root time `now`. -/
def Cnt.made (c : Cnt) (now : Nat) : Nat := ((c.posts.filter fun p => decide (p.time ≤ now)).map (·.k)).foldl (· + ·) 0

/-- R197, R198: the posts of a cycle counted in at its end, after what the cycle consumed: a count that would pass 0xFFFF stays
at 0xFFFF and sets the flag. Issue decisions see the result from the next cycle on (R196). -/
def Cnt.settle (c : Cnt) (now : Nat) : Cnt :=
  let p := c.posts.filter fun p => decide (p.time ≤ now)
  { n := min 0xFFFF (c.n + c.made now), suspect := c.suspect || p.any (·.sus) || decide (c.n + c.made now > 0xFFFF)
    posts := c.posts.filter fun p => !decide (p.time ≤ now) }

/-- R198: whether the posts of a cycle saturate the counter. -/
def Cnt.overflows (c : Cnt) (now : Nat) : Bool := decide (c.n + c.made now > 0xFFFF)

/-- R195, R200: `k` taken at issue; a count that reaches 0 clears the flag. -/
def Cnt.take (c : Cnt) (k : Nat) : Cnt := { c with n := c.n - k, suspect := c.suspect && decide (c.n - k ≠ 0) }

/-- R196: `k` posted in the cycle of root time `now`. -/
def Cnt.post (c : Cnt) (now k : Nat) (sus : Bool) : Cnt := { c with posts := c.posts ++ [⟨now, k, sus⟩] }

def Stand.getTok (t : Stand) (i : Nat) : Cnt := tget {} t.tok i
def Stand.getCred (t : Stand) (i : Nat) : Cnt := tget {} t.cred i

/-- R198: posts that saturate a counter raise SYNC_OVERFLOW and fail the step. `idx`: a token counter, or 32 more than a credit
counter. -/
def State.syncOverflow (s : State) (st idx : Nat) : State :=
  let s := s.updStand st fun t => { t with syncOvf := t.syncOvf.add 1 }
  match (s.getStand st).ctx with
  | some d => s.raiseFail 0x020A d (standUnit st 0) (s.standNow st) idx 0
  | none => s

/-- R196: a token post of `k` to counter `i` of a stand; 0 names no counter. -/
def State.postTok (s : State) (st i k : Nat) (sus : Bool) : State :=
  if i = 0 ∨ i > 31 then s else s.updStand st fun t => { t with tok := tput t.tok i ((t.getTok i).post s.time k sus) }

/-- R196: a credit post; a credit counter holds no SUSPECT flag. -/
def State.postCred (s : State) (st i k : Nat) : State :=
  if i = 0 ∨ i > 15 then s else s.updStand st fun t => { t with cred := tput t.cred i ((t.getCred i).post s.time k false) }

/-- A credit counter without the flag that only token counters hold (R194). -/
def Cnt.plain (c : Cnt) : Cnt := { c with suspect := false }

/-- R197, R198: the posts of the cycle that ends counted into a stand's counters. -/
def State.settleStandCounters (s : State) (st : Nat) : State :=
  let t := s.getStand st
  let now := s.time
  let full := (t.tok.filter fun e => e.2.overflows now).map (·.1) ++ (t.cred.filter fun e => e.2.overflows now).map (·.1 + 32)
  let s := s.updStand st fun t =>
    { t with tok := tmap (fun _ c => c.settle now) t.tok, cred := tmap (fun _ c => (c.settle now).plain) t.cred }
  full.foldl (fun s i => s.syncOverflow st i) s

end Sys2Proof.Machine
end

