-- ==== Sys2Proof/Machine/Operands.lean ====
section
/-! DEFINITION. Operand forms: tensor descriptors (R156 to R173), where they place elements, scales, rows and tile images,
and address registers as offsets (R205). -/

namespace Sys2Proof.Machine

/-- A tensor descriptor (R160 to R167). -/
structure Desc where
  valid : Bool := false
  tier : Nat := 0
  fmt : Nat := 0
  scaled : Bool := false
  layout : Nat := 0
  ndim : Nat := 0
  cls : Nat := 0
  chkForm : Nat := 0
  genSel : Nat := 0
  idxKind : Nat := 0
  idxDim : Nat := 0
  idxHandle : Nat := 0
  base : Nat := 0
  ext : List Nat := [1, 1, 1, 1, 1]
  stride : List Int := [0, 0, 0, 0, 0]
  sstride1 : Nat := 0
  scaleOff : Int := 0
  deriving DecidableEq, Repr

/-- The fields of a descriptor's eight words (R161, R166, R167). -/
def Desc.ofWords (w : List Nat) : Desc :=
  let w0 := w.getD 0 0
  let dims := (List.range 5).map fun k => w.getD (k + 2) 0
  { valid := bit w0 63, tier := fld w0 62 60, fmt := fld w0 59 55, scaled := bit w0 54, layout := fld w0 53 51
    ndim := fld w0 50 48, cls := fld w0 47 47, chkForm := fld w0 46 45, genSel := fld w0 44 44
    idxKind := fld w0 43 42, idxDim := fld w0 41 39, idxHandle := fld w0 35 24, base := w.getD 1 0
    ext := dims.map fun d => fld d 63 40, stride := dims.map fun d => sext 40 d
    sstride1 := fld (w.getD 7 0) 63 40, scaleOff := sext 40 (w.getD 7 0) }

/-- The descriptor of a handle; a handle not given is the null descriptor (R157). -/
def Stand.getDesc (t : Stand) (h : Nat) : Desc :=
  match tfind? t.desc h with
  | some w => if h = 0 then {} else Desc.ofWords w
  | none => {}

def Desc.e (d : Desc) (k : Nat) : Nat := d.ext.getD k 1
def Desc.bits (d : Desc) : Nat := fmtBits d.fmt

/-- Rows of a descriptor: the product of extents 1 to 4 (R88); elements: of all five (R169). -/
def Desc.outer (d : Desc) : Nat := d.e 1 * d.e 2 * d.e 3 * d.e 4
def Desc.count (d : Desc) : Nat := d.e 0 * d.outer

/-- The offset field of BASE that strides move (R162). -/
def Desc.origin (d : Desc) : Nat :=
  match d.tier with
  | 0 | 3 | 4 => fld d.base 22 0
  | 5 => fld d.base 15 0
  | _ => fld d.base 47 0

/-- Stand number and logical device of a STAND or DEVICE descriptor (R162). -/
def Desc.stand (d : Desc) : Nat := fld d.base 31 23
def Desc.device (d : Desc) : Nat := fld d.base 47 32

/-- Position to coordinates in mixed radix over five extents (R169). -/
def coordsOf : List Nat → Nat → List Nat
  | [], _ => []
  | e :: es, p => p % max e 1 :: coordsOf es (p / max e 1)

def Desc.coords (d : Desc) (p : Nat) : List Nat := coordsOf d.ext p
/-- Coordinates of dimensions 1 to 4 of a row number, with i0 = 0. -/
def Desc.rowCoords (d : Desc) (r : Nat) : List Nat := 0 :: coordsOf (d.ext.drop 1) r

/-- R205: all arithmetic is 64-bit two's complement. -/
def wrap64 (i : Int) : Int := sext 64 (wrapInt 64 i)

/-- The stride terms of dimensions 1 to 4. -/
def strideSum (d : Desc) (c : List Int) : Int :=
  ((List.range 4).map fun k => c.getD (k + 1) 0 * d.stride.getD (k + 1) 0).foldl (· + ·) 0

/-- R168: the bit address of element `i0` on a row with coordinates `c`; `c` has its indirect coordinate looked up. -/
def Desc.elemBit (d : Desc) (aoff : Nat) (c : List Int) (i0 : Nat) : Int :=
  8 * wrap64 ((d.origin : Int) + sext 64 aoff + (i0 * d.bits / 8 : Nat) + strideSum d c) + (i0 * d.bits % 8 : Nat)

/-- R170: the byte address of the scale of element `i0`. -/
def Desc.scaleAddr (d : Desc) (aoff : Nat) (c : List Int) (i0 : Nat) : Int :=
  wrap64 ((d.origin : Int) + sext 64 aoff + d.scaleOff + (i0 / 32 : Nat) + c.getD 1 0 * d.sstride1 +
    ((List.range 3).map fun k => c.getD (k + 2) 0 * d.stride.getD (k + 2) 0).foldl (· + ·) 0)

def intCoords (c : List Nat) : List Int := c.map fun (x : Nat) => (x : Int)

/-- Side of the square tile of a transposed layout (R136, R172). -/
def Desc.tileSide (d : Desc) : Nat := if d.layout = 3 then 64 else 32

/-- Bit addresses of the elements of row `r`, as an engine is given it: for T32 and T64 the delivered, transposed row
(R88, R172); otherwise the row of R168. -/
def Desc.rowBits (d : Desc) (aoff r : Nat) : List Int :=
  if d.layout = 2 ∨ d.layout = 3 then
    let n := d.tileSide
    let outer := coordsOf (d.ext.drop 2) (r / n)
    (List.range n).map fun k => d.elemBit aoff (intCoords (0 :: k :: outer)) (r % n)
  else
    (List.range (d.e 0)).map fun i0 => d.elemBit aoff (intCoords (d.rowCoords r)) i0

/-- Scale byte addresses of the 32-element blocks of row `r` (R170). -/
def Desc.rowScales (d : Desc) (aoff r : Nat) : List Int :=
  if d.scaled then (List.range (d.e 0 / 32)).map fun b => d.scaleAddr aoff (intCoords (d.rowCoords r)) (32 * b) else []

/-- R171: the Deck offset of tile image `t`. -/
def Desc.tileAddr (d : Desc) (aoff t : Nat) : Int :=
  wrap64 ((d.origin : Int) + sext 64 aoff + strideSum d (intCoords (d.rowCoords t)))

/-- R90: lines of a tile image's elements, scales and check entries. -/
def tileElemLines (fmt : Nat) : Nat := match fmtBits fmt with | 6 => 12 | 16 => 8 | _ => 16
def tileScaleLines (scaled : Bool) : Nat := if scaled then 1 else 0
def tileCheckLines (fmt form : Nat) : Nat :=
  match fmtClass fmt with
  | 1 => if form = 2 then 20 else 8
  | 2 => if form = 2 then 3 else 1
  | _ => if form = 2 then 10 else 4
def tileLines (fmt : Nat) (scaled : Bool) (form : Nat) : Nat :=
  tileElemLines fmt + tileScaleLines scaled + tileCheckLines fmt form

/-- R205: the address register offset an instruction takes at issue. -/
def Stand.aoff (t : Stand) (en : Bool) (reg : Nat) : Nat := if en then tget 0 t.ar reg else 0

/-- Rows of an X640 descriptor: each element is one row (R88); its Deck offset. -/
def Desc.x640Addr (d : Desc) (aoff i : Nat) : Int :=
  let c := d.coords i
  d.elemBit aoff (intCoords (0 :: c.drop 1)) (c.headD 0) / 8

end Sys2Proof.Machine
end

