-- ==== Sys2Proof/Machine/Slots.lean ====
section
/-! DEFINITION. Places of the fabric and their slot tables (R21, R223, R224, R248), and the cycles of a stand's SK port that
they give to the Flume node (R126, R226). -/

namespace Sys2Proof.Machine

/-! Places and slot tables. -/

/-- The compartment whose local count a place follows (R21, R222). -/
def Loc.cmp : Loc → Nat
  | .node st => standCmp st | .stand st => standCmp st
  | .bridge => 17 | .aelel _ => 17
  | .edge _ => 18 | .ctrl _ => 18
  | .unit q => if q = 48 then 18 else 19

def State.locNow (s : State) (l : Loc) : Nat := (s.getCmp l.cmp).loc

/-- Number of an end point in the table of nodes. -/
def Loc.endId : Loc → Nat
  | .node st => st | .stand st => st
  | .unit q => 512 + q | .ctrl p => 600 + p | .aelel p => 700 + p
  | .bridge => 800 | .edge k => 801 + k

def State.getNode (s : State) (l : Loc) : Node := tget {} s.net.node l.endId
def State.updNode (s : State) (l : Loc) (f : Node → Node) : State :=
  { s with net := { s.net with node := tupd {} s.net.node l.endId f } }
def State.updBridge (s : State) (d : Nat) (f : BridgeDom → BridgeDom) : State :=
  { s with net := { s.net with bridgeDom := tupd {} s.net.bridgeDom d f } }

/-- A connection of a slot-table entry (R224, R248): KIND 0 idle, 1 circuit, 2 packet, 3 resend. -/
structure Conn where
  kind : Nat
  inp : Nat
  out : Nat
  mat : Bool
  ckt : Nat
  deriving DecidableEq, Repr

/-- OUT_o of a stand node's entry (R224). -/
def nodeConn (e o : Nat) : Conn :=
  let f := fld e (24 * o + 23) (24 * o)
  ⟨fld f 23 22, fld f 21 19, o, bit f 18, fld f 11 0⟩

/-- Connection i of a bridge or edge entry (R248). -/
def wideConn (e i : Nat) : Conn :=
  let f := fld e (32 * i + 31) (32 * i)
  ⟨fld f 31 30, fld f 29 24, fld f 23 18, bit f 17, fld f 11 0⟩

/-- Connections of a place's slot table at local count `t` (R223, R248, R320). -/
def State.conns (s : State) (l : Loc) (t : Nat) : List Conn :=
  match l with
  | .node _ => let e := tget 0 (s.getNode l).slots (t % 4096); (List.range 5).map (nodeConn e)
  | .bridge => let e := tget 0 s.net.bridge (t % 4096); (List.range 16).map (wideConn e)
  | .edge k => let e := tget 0 (tget [] s.net.edge k) (t % 4096); (List.range 6).map (wideConn e)
  | _ => []

/-- R226: whether a local cycle of a stand's SK port belongs to the Flume node. -/
def State.flumeCycle (s : State) (st t : Nat) : Bool :=
  (s.conns (.node st) t).any (fun c => c.out == 4 && c.kind != 0) ||
  (s.conns (.node st) (s.after st t 4)).any (fun c => c.kind == 3 && c.inp == 4)

end Sys2Proof.Machine
end

