-- ==== Sys2Proof/Machine/Deck.lean ====
section
/-! DEFINITION. Accesses of a stand's Deck (chapter 05): refusals, protection codes, merges, atomics, and the marks they
leave. An access is one line of 512 bytes that enters one port in one local cycle, and is judged in that cycle. -/

namespace Sys2Proof.Machine

def deckSize : Nat := 0x600000
def bankBytes : Nat := 0x30000

/-- Ports (R125). -/
def portHW : Nat := 0
def portHA : Nat := 1
def portEC : Nat := 2
def portSK : Nat := 3

/-- Bank and line within the bank of a Deck offset (R123). -/
def bankOf (off : Nat) : Nat := off / bankBytes
def lineOf (off : Nat) : Nat := off % bankBytes / 512

def Stand.owner (t : Stand) (b : Nat) : Nat := tget 3 t.own b
def Stand.cls_ (t : Stand) (b : Nat) : Nat := tget 0 t.cls b
def Stand.power (t : Stand) (b : Nat) : Nat := tget 0 t.pwr b

/-- Causes of R129, in the order of their codes. -/
def causeNotOwner : Nat := 0
def causeNotOn : Nat := 1
def causeRange : Nat := 2
def causeClass : Nat := 3
def causeBusy : Nat := 4

/-- R134, R140: whether a bank is in the second cycle of a merge or an atomic. -/
def Stand.isBusy (t : Stand) (b cyc : Nat) : Bool := tfind? t.busy b == some cyc

/-- R129: why an access at a Deck offset that enters its port in cycle `cyc` is refused, if it is, the first cause in the order
RANGE, NOT_OWNER, NOT_ON, CLASS, BUSY. `arrival`: it came through the Flume node; `atomic`: it is an atomic. -/
def Stand.refusal (t : Stand) (port : Nat) (off : Int) (cyc : Nat) (arrival atomic : Bool) : Option Nat :=
  if off < 0 ∨ off ≥ (deckSize : Int) then some causeRange
  else
    let b := bankOf off.toNat
    if t.owner b ≠ port then some causeNotOwner
    else if t.power b ≠ 2 then some causeNotOn
    else if atomic ∧ t.cls_ b = 1 then some causeClass
    else if arrival ∧ t.isBusy b cyc then some causeBusy
    else none

/-- What one access met: a refusal (bank, cause), or its first uncorrectable unit (bank, line), by the class of its bank; and the
local cycle; and how many units were corrected. -/
structure Met where
  refused : Option (Nat × Nat × Nat) := none
  uncA : Option (Nat × Nat × Nat) := none
  uncW : Option (Nat × Nat × Nat) := none
  corrected : Nat := 0
  deriving DecidableEq, Repr

/-- Whether an access marks the outputs of its instruction SUSPECT (R201). -/
def Met.bad (m : Met) : Bool := m.refused.isSome || m.uncA.isSome || m.uncW.isSome

/-- What an access met whose decoding found `c` units corrected and `x` uncorrectable. -/
def Met.ofUnits (cls bank line cyc c x : Nat) : Met :=
  { uncA := if x ≠ 0 ∧ cls = 0 then some (bank, line, cyc) else none
    uncW := if x ≠ 0 ∧ cls ≠ 0 then some (bank, line, cyc) else none, corrected := c }

/-- R130: one refused access: the counter and the first-record register. -/
def Stand.noteRefusal (t : Stand) (cause port : Nat) (off : Int) (ring cyc : Nat) : Stand :=
  let b := if cause = causeRange then 0 else bankOf off.toNat
  let l := if cause = causeRange then 0 else lineOf off.toNat
  { t with refused := t.refused.add 1
           refRec := t.refRec.latch (at_ cause 56 + at_ port 48 + at_ b 40 + at_ l 20 + cyc % 2 ^ 20) ring 0 }

/-- R130, R446: in a debug plan, an access outside the declared interval of its port for the bank is a finding. -/
def State.scoutDeck (s : State) (st port bank cyc : Nat) : State :=
  match (s.getStand st).ctx with
  | none => s
  | some d =>
    let c := s.getCtx d
    if !c.debugging then s
    else if c.declarations.any fun b =>
      num b 0 1 == 0 && num b 1 1 == port && num b 2 2 == st && num b 4 1 == bank && num b 6 2 == c.ringInStep &&
      decide (num b 8 4 ≤ cyc ∧ cyc ≤ num b 12 4) then s
    else s.scoutFind d 0 (standUnit st 0) (at_ bank 2 + port) cyc

/-- R425: the name of a Deck line of this device. -/
def State.deckName (s : State) (d st : Nat) (line : Int) : Nat := at_ (s.logicalId d) 45 + at_ st 23 + at_ (line.toNat) 9

/-- R446, R562: whether a line name is declared a step input. Consecutive lines of a Deck, of host memory and of the other kinds have
names 512, 64 and 1 apart (R425). -/
def PlanCtx.inputLine (c : PlanCtx) (n : Nat) : Bool :=
  c.declarations.any fun b =>
    let n0 := num b 8 8
    let k := match n0 / 2 ^ 61 with | 0 => 512 | 3 => 64 | _ => 1
    num b 0 1 == 1 && decide (n0 ≤ n ∧ n < n0 + k * num b 4 4) && (n - n0) % k == 0

/-- R55, R446: in a debug plan, a write to a declared step input is a finding: the running step's tally is not OK before its end. -/
def State.scoutInput (s : State) (d unit name cyc : Nat) : State :=
  if (s.getCtx d).debugging && (s.getCtx d).inputLine name then s.scoutFind d 4 unit name cyc else s

def State.scoutWrite (s : State) (st : Nat) (line : Int) (cyc : Nat) : State :=
  match (s.getStand st).ctx with
  | some d => s.scoutInput d (standUnit st 0) (s.deckName d st line) cyc
  | none => s

/-- A refused access (R130): counted, recorded, and shown to the Scout where it names a bank. -/
def State.refuse (s : State) (st port : Nat) (off : Int) (cyc cause : Nat) : State × Met :=
  let b := if cause = causeRange then 0 else bankOf off.toNat
  let s := if cause = causeRange then s else s.scoutDeck st port b cyc
  (s.updStand st fun t => t.noteRefusal cause port off s.ring.count cyc, { refused := some (b, cause, cyc) })

/-- An access that enters its port: STAND_DK_LINES, the Scout, and the hold it puts on a handover of its bank (R128). -/
def State.enterLine (s : State) (st port bank cyc : Nat) : State :=
  let q := s.after st cyc 4
  (s.scoutDeck st port bank cyc).updStand st fun t => { t with lines := t.lines.add 1, quiet := tput t.quiet bank q }

/-! Protection codes. -/

/-- Units of a line by class (R145): how many bytes each. -/
def unitBytes (cls : Nat) : Nat := if cls = 1 then 64 else 8

/-- Bits set in a byte. -/
def popByte (b : Byte) : Nat := ((List.range 8).filter fun i => b.getLsbD i).length

/-- What a code sees of the damage of one unit (R145): errors counted in bits for a word, in symbols for a segment. -/
def unitErrors (cls : Nat) (flips : List Byte) : Nat :=
  if cls = 1 then (flips.filter (· != 0)).length else (flips.map popByte).foldl (· + ·) 0

/-- Outcome of decoding a unit: 0 clean, 1 corrected, 2 uncorrectable; with the data delivered. Beyond what the code
guarantees the outcome and the data follow from the stored unit in a way the spec leaves free (R145), so that every read of
it finds the same (R149). -/
def decodeUnit (cls : Nat) (isBad : Bool) (data flips : List Byte) : Nat × List Byte :=
  let n := unitErrors cls flips
  let stored := data.zipWith (fun a b => a ^^^ b) flips
  let limit := if cls = 1 then 2 else 1
  if isBad then (2, stored)
  else if n = 0 then (0, data)
  else if n ≤ limit then (1, data)
  else if n = limit + 1 then (2, stored)
  else
    match (Config.freeDecode cls (ofLe data) (ofLe flips)).toNat with
    | 0 => (0, stored)
    | 1 => (1, leBytes (unitBytes cls) (Config.freeUnit cls (ofLe data) (ofLe flips)).toNat)
    | _ => (2, stored)

/-- Whether a debug plan runs on the stand (R96, R121, R155, R250). -/
def State.debugOn (s : State) (st : Nat) : Bool :=
  match (s.getStand st).ctx with
  | some d => (s.getCtx d).debugging
  | none => false

/-- The damage mask that an armed STAND_DK_INJECT adds to the read of a unit of a line (R155): unit and mask. -/
def Stand.injectMask (t : Stand) (bank line : Nat) : Option (Nat × List Byte) :=
  let w := t.dkInject.w
  let cls := t.cls_ bank
  let n := fld w 1 0
  let u := fld w 13 8
  if !t.dkInject.arm || fld w 52 48 != bank || fld w 40 32 != line || n == 0 || u ≥ 512 / unitBytes cls then none
  else if cls = 1 then some (u, padTo 64 (List.replicate n 1))
  else some (u, padTo 8 [BitVec.ofNat 8 (2 ^ (min n 2) - 1)])

/-- The injection that acts on a line: only while a debug plan runs on the stand (R155). -/
def State.injection (s : State) (st bank line : Nat) : Option (Nat × List Byte) :=
  if s.debugOn st then (s.getStand st).injectMask bank line else none

/-- An injection that has fired is disarmed (R155). -/
def Stand.disarmDk (t : Stand) (fired : Bool) : Stand := if fired then { t with dkInject := { t.dkInject with arm := false } } else t

/-- R147, R149: one erroneous unit: counters and the first-record register. -/
def Stand.noteEcc (t : Stand) (unc : Bool) (cls port bank line count unit ring cyc : Nat) : Stand :=
  { t with corr := if unc then t.corr else t.corr.add 1
           uncorr := if unc then t.uncorr.add 1 else t.uncorr
           errRec := t.errRec.latch (flag unc 61 + at_ cls 60 + at_ port 56 + at_ bank 48 + at_ line 32 +
             at_ (if unc then 0 else count) 28 + at_ unit 20 + cyc % 2 ^ 20) ring 0 }

/-- The damage of a unit as a read finds it, with an injection's mask for that unit. -/
def Stand.unitFlips (t : Stand) (off k u : Nat) (inj : Option (Nat × List Byte)) : List Byte :=
  let fl := memRead t.flip off k
  match inj with
  | some i => if i.1 = u then fl.zipWith (fun a b => a ^^^ b) i.2 else fl
  | none => fl

/-- Unit `u` of the line at Deck offset `a` as a read decodes it. -/
def Stand.readUnit (t : Stand) (cls a u : Nat) (inj : Option (Nat × List Byte)) : Nat × List Byte :=
  let k := unitBytes cls
  let o := a + u * k
  decodeUnit cls (t.bad.contains o) (memRead t.mem o k) (t.unitFlips o k u inj)

/-- One unit's outcome noted: the stand's counters and record, and the step's ECC counts (R147, R149). -/
def State.noteUnit (s : State) (st cls port a u cyc outcome : Nat) (inj : Option (Nat × List Byte)) : State :=
  if outcome = 0 then s
  else
    let t := s.getStand st
    let k := unitBytes cls
    let n := min 15 (unitErrors cls (t.unitFlips (a + u * k) k u inj))
    let s := s.updStand st fun t => t.noteEcc (outcome == 2) cls port (bankOf a) (lineOf a) n u s.ring.count cyc
    match t.ctx with
    | some d => s.updAcc d fun q => if outcome = 1 then { q with eccCorr := satAt 32 (q.eccCorr + 1) }
                                    else { q with eccUncorr := satAt 32 (q.eccUncorr + 1) }
    | none => s

/-- The units of a line read in turn: outcomes noted, data delivered, and the units corrected and uncorrectable. -/
def State.readUnits (st cls port a cyc : Nat) (inj : Option (Nat × List Byte)) : List Nat → State → State × List Byte × Nat × Nat
  | [], s => (s, [], 0, 0)
  | u :: us, s =>
    let r := (s.getStand st).readUnit cls a u inj
    let (s, ds, c, x) := State.readUnits st cls port a cyc inj us (s.noteUnit st cls port a u cyc r.1 inj)
    (s, r.2 ++ ds, c + (if r.1 = 1 then 1 else 0), x + (if r.1 = 2 then 1 else 0))

/-- Whether nothing on the stand's Deck is damaged. -/
def Stand.intact (t : Stand) : Bool := t.flip == [] && t.bad == []

/-- R133: bytes of the chute's own copy over a line: lines the Edger has written that are not visible yet, oldest first. -/
def Stand.chuteOver (t : Stand) (line : Int) (v : Nat) : Nat :=
  let put := fun (v : Nat) (img be : Nat) =>
    ofLe ((List.range 512).map fun i => BitVec.ofNat 8 ((if bit be i then img else v) / 2 ^ (8 * i)))
  let v := t.later.foldl (fun v e => match e.2 with
    | .land 2 base img be _ => if (base / 512 : Nat) = line then put v img be else v
    | _ => v) v
  t.jobs.foldl (fun v j => j.acts.foldl (fun v a => match a.2 with
    | .write 2 l img be => if l = line then put v img be else v
    | _ => v) v) v

/-- One line read through a port in local cycle `cyc` (R124, R147, R149): the line as a little-endian number. -/
def State.readLine (s : State) (st port : Nat) (off : Int) (cyc : Nat) : State × Nat × Met :=
  match (s.getStand st).refusal port off cyc false false with
  | some cause => let r := s.refuse st port off cyc cause; (r.1, 0, r.2)
  | none =>
    let a := off.toNat / 512 * 512
    let b := bankOf a
    let cls := (s.getStand st).cls_ b
    let s := s.enterLine st port b cyc
    let t := s.getStand st
    let inj := s.injection st b (lineOf a)
    let (s, v, m) :=
      if t.intact ∧ inj = none then (s, ofLe (memRead t.mem a 512), ({} : Met))
      else
        let (s, ds, c, x) := State.readUnits st cls port a cyc inj (List.range (512 / unitBytes cls)) s
        (s.updStand st (·.disarmDk inj.isSome), ofLe ds, Met.ofUnits cls b (lineOf a) cyc c x)
    (s, if port = portEC then t.chuteOver (a / 512 : Nat) v else v, m)

/-! Lines read and bytes gathered for lines. -/

/-- Lines read so far by an instruction: line number to content. -/
abbrev LineTab := Tab Nat

/-- Distinct line numbers of a list of byte addresses, in the order in which they are first met. -/
def distinctLines (addrs : List Int) : List Int :=
  (addrs.foldl (fun (acc : List Int) a => let l := a / 512; if acc.contains l then acc else l :: acc) []).reverse

/-- A byte of the lines read; an address below 0 was refused and reads as zero. -/
def LineTab.byte (tab : LineTab) (a : Int) : Nat :=
  if a < 0 then 0 else tget 0 tab (a.toNat / 512) / 2 ^ (8 * (a.toNat % 512)) % 256

/-- An element of `w` bits, at most 64, at a bit address. -/
def LineTab.elem (tab : LineTab) (bitAddr : Int) (w : Nat) : Nat :=
  let a := bitAddr / 8
  let o := (bitAddr % 8).toNat
  let n := (o + w + 7) / 8
  ((List.range n).map fun (i : Nat) => tab.byte (a + (i : Int)) * 2 ^ (8 * i)).foldl (· + ·) 0 / 2 ^ o % 2 ^ w

/-- Byte addresses of an element of `w` bits at a bit address: an element of 6 bits may run over two bytes, and over the end of
a line. -/
def elemBytes (bitAddr : Int) (w : Nat) : List Int :=
  (List.range (((bitAddr % 8).toNat + w + 7) / 8)).map fun (i : Nat) => bitAddr / 8 + (i : Int)

/-- Byte writes of an instruction, by address, in the order in which they are made. -/
abbrev Writes := List (Int × Byte)

/-- The 512 bytes and the byte enables of one line among an instruction's writes, later writes over earlier ones. -/
def lineImage (ws : Writes) (l : Int) : Nat × Nat :=
  let r := ws.foldl (fun (acc : Mem × Nat) w =>
    if w.1 / 512 = l then (memPut acc.1 (w.1 % 512).toNat w.2, acc.2 ||| 2 ^ (w.1 % 512).toNat) else acc) ([], 0)
  (ofLe (memRead r.1 0 512), r.2)

/-- Runs of pieces within one line (R132): each is one line access. -/
def writeRuns : Writes → List (Int × Writes)
  | [] => []
  | w :: ws =>
    match writeRuns ws with
    | [] => [(w.1 / 512, [w])]
    | (l, r) :: rs => if w.1 / 512 = l then (l, w :: r) :: rs else (w.1 / 512, [w]) :: (l, r) :: rs

/-! Writes. -/

/-- The enables of unit `u` of a line, as a number of as many bits as the unit has bytes. -/
def unitEnables (cls be u : Nat) : Nat := be / 2 ^ (u * unitBytes cls) % 2 ^ unitBytes cls

/-- Units of a line that a write covers in part (R134). -/
def partialUnits (cls be : Nat) : List Nat :=
  (List.range (512 / unitBytes cls)).filter fun u => unitEnables cls be u ≠ 0 && unitEnables cls be u ≠ 2 ^ unitBytes cls - 1

/-- Whether some unit of the line is written in part. -/
def partialUnit (cls be : Nat) : Bool := !(partialUnits cls be).isEmpty

/-- The reads that a merge write makes of the units it covers in part (R134, R135), with what they met. -/
def State.mergeUnits (st cls port a cyc : Nat) (inj : Option (Nat × List Byte)) : List Nat → State → State × List Merge × Nat × Nat
  | [], s => (s, [], 0, 0)
  | u :: us, s =>
    let t := s.getStand st
    let r := t.readUnit cls a u inj
    let hit := inj.any (·.1 == u)
    let s := (s.noteUnit st cls port a u cyc r.1 inj).updStand st (·.disarmDk hit)
    let (s, ms, c, x) := State.mergeUnits st cls port a cyc inj us s
    (s, { off := a + u * unitBytes cls, outcome := r.1, data := r.2, injected := hit } :: ms,
     c + (if r.1 = 1 then 1 else 0), x + (if r.1 = 2 then 1 else 0))

/-- One line written through a port in local cycle `cyc` (R124, R134, R567): 512 bytes as a number with an enable for each. It
becomes visible in cycle `cyc` + 4. -/
def State.writeLine (s : State) (st port : Nat) (off : Int) (cyc : Nat) (arrival : Bool) (img be : Nat) : State × Met :=
  match (s.getStand st).refusal port off cyc arrival false with
  | some cause => s.refuse st port off cyc cause
  | none =>
    let a := off.toNat / 512 * 512
    let b := bankOf a
    let cls := (s.getStand st).cls_ b
    let s := (s.enterLine st port b cyc).scoutWrite st (a / 512 : Nat) cyc
    let ps := partialUnits cls be
    let (s, ms, c, x) :=
      if ps = [] then (s, [], 0, 0) else State.mergeUnits st cls port a cyc (s.injection st b (lineOf a)) ps s
    let due := s.after st cyc 4
    let next := s.after st cyc 1
    (s.updStand st fun t =>
      { t with later := t.later ++ [(due, .land port a img be ms)]
               busy := if ps = [] then t.busy else tput t.busy b next },
     Met.ofUnits cls b (lineOf a) cyc c x)

/-- R135: a damaged unit that takes bytes: the data as stored, and every later read finds it uncorrectable. -/
def Stand.spoil (t : Stand) (off k : Nat) : Stand :=
  let stored := (memRead t.mem off k).zipWith (fun x y => x ^^^ y) (memRead t.flip off k)
  { t with mem := memWrite t.mem off stored, flip := memClear t.flip off (off + k), bad := off :: t.bad.filter (· != off) }

/-- A unit that takes a fresh code: no damage is left. -/
def Stand.cleanUnit (t : Stand) (off k : Nat) : Stand :=
  { t with flip := memClear t.flip off (off + k), bad := t.bad.filter (· != off) }

/-- One unit of a landing line: written whole it takes a fresh code; a part is merged, onto the data as the merge's read decoded
it, or by R135 where that read found the unit uncorrectable. An error that was injected into the read leaves the stored unit
as it is (R155). -/
def Stand.landUnit (t : Stand) (cls a img be : Nat) (ms : List Merge) (u : Nat) : Stand :=
  let k := unitBytes cls
  let off := a + u * k
  let en := unitEnables cls be u
  if en = 0 then t
  else
    let bs := leBytes k (img / 2 ^ (8 * (u * k)))
    let place := fun (t : Stand) => { t with mem := memWriteBE t.mem off bs (bit en) }
    if en = 2 ^ k - 1 then place (t.cleanUnit off k)
    else match ms.find? (·.off == off) with
      | some m =>
        if m.outcome = 0 ∨ m.injected then place t
        else if m.outcome = 1 then place (({ t with mem := memWrite t.mem off m.data } : Stand).cleanUnit off k)
        else place (t.spoil off k)
      | none => place t

/-- A write becomes visible (R124). -/
def Stand.land (t : Stand) (a img be : Nat) (ms : List Merge) : Stand :=
  let cls := t.cls_ (bankOf a)
  if t.intact ∧ ms = [] then { t with mem := memWriteBE t.mem a (leBytes 512 img) (bit be) }
  else (List.range (512 / unitBytes cls)).foldl (fun t u => t.landUnit cls a img be ms u) t

/-- R130, R149: the events of an arrival's access, in the stand's step, with the local cycle of the access. -/
def State.raiseMet (s : State) (st unit : Nat) (m : Met) : State :=
  match (s.getStand st).ctx with
  | none => s
  | some d =>
    let s := match m.refused with
      | some (b, c, cyc) => s.raiseFail 0x0206 d unit cyc b c
      | none => s
    let s := match m.uncW with
      | some (b, l, cyc) => s.raiseFail 0x0203 d unit cyc b l
      | none => s
    match m.uncA with
      | some (b, l, cyc) => s.raiseFail 0x0202 d unit cyc b l
      | none => s

/-! Atomics. -/

/-- Operations of R138: 0 ADD32, 1 ADD64, 2 SWAP32, 3 SWAP64, and their width in bytes. -/
def atomicBytes (op : Nat) : Nat := if op % 2 = 1 then 8 else 4
def atomicResult (op old operand : Nat) : Nat :=
  let w := 8 * atomicBytes op
  if op / 2 = 0 then (old + operand) % 2 ^ w else operand % 2 ^ w

/-- R138 to R141: an atomic at a Deck offset through SK: the old value, and what it met. A misaligned address is refused with
cause RANGE (R139). The new value is visible in cycle `cyc` + 2 (R140). -/
def State.atomic (s : State) (st op : Nat) (off : Int) (operand cyc : Nat) (arrival : Bool) : State × Nat × Met :=
  let w := atomicBytes op
  let why := if off % w ≠ 0 then some causeRange else (s.getStand st).refusal portSK off cyc arrival true
  match why with
  | some cause => let r := s.refuse st portSK off cyc cause; (r.1, 0, r.2)
  | none =>
    let o := off.toNat
    let b := bankOf o
    let a := o / 512 * 512
    let u := o % 512 / 8
    let s := (s.enterLine st portSK b cyc).scoutWrite st (a / 512 : Nat) cyc
    let inj := (s.injection st b (lineOf o)).filter (·.1 == u)
    let (s, ds, c, x) := State.readUnits st 0 portSK a cyc inj [u] s
    let due := s.after st cyc 2
    let next := s.after st cyc 1
    let s := s.updStand st fun t => { t.disarmDk inj.isSome with busy := tput t.busy b next }
    let word := ofLe ds
    let sh := 8 * (o % 8)
    let old := word / 2 ^ sh % 2 ^ (8 * w)
    let m := Met.ofUnits 0 b (lineOf o) cyc c x
    if x ≠ 0 then (s, old, m)
    else
      let new := word - old * 2 ^ sh + atomicResult op old operand * 2 ^ sh
      (s.updStand st fun t =>
        { t with later := t.later ++ [(due, .land portSK a (new * 2 ^ (64 * u)) (255 * 2 ^ (8 * u)) [])], atoms := t.atoms.add 1 }, old, m)

end Sys2Proof.Machine
end

