-- ==== Sys2Proof/Machine/CutDecode.lean ====
section
/-! DEFINITION. The instruction word of a cut list (R192, R209 to R217): the command that a word of a stream's area spells. -/

namespace Sys2Proof.Machine

/-- The common fields of a word (R192). -/
def hdrOf (w : Nat) : Hdr :=
  { stamp := fld w 127 108, wt := fld w 101 97, wtn := fld w 96 93, wc := fld w 92 89, wcn := fld w 88 86, pt := fld w 85 81
    pc := fld w 80 77 }

def stampOf (w : Nat) : Nat := fld w 127 108
def opcodeOf (w : Nat) : Nat := fld w 107 102

/-- Compute opcodes of the Edger (R210). -/
def edKindOf : Nat → Option EdKind
  | 0x08 => some .fma | 0x09 => some .add | 0x0A => some .mul | 0x0B => some .min | 0x0C => some .max | 0x0D => some .cmp
  | 0x0E => some .csel | 0x0F => some .cvt | 0x10 => some .exp2 | 0x11 => some .log2 | 0x12 => some .rcp | 0x13 => some .rsq
  | 0x14 => some .tanh | 0x15 => some .expd | 0x18 => some .qmx | 0x19 => some .rsum | 0x1A => some .rssq | 0x1B => some .rmax
  | 0x1C => some .rmin | 0x1D => some .rcomb | 0x1E => some .topkf | _ => none

/-- The operand fields of a compute operation (R215). For ED_TOPKF, k − 1 takes the place of slots B and C. -/
def edOpOf (k : EdKind) (w : Nat) : EdOp :=
  let top := k == .topkf
  { hdr := hdrOf w, d := fld w 76 72, a := fld w 71 67, b := if top then 0 else fld w 66 62, c := if top then 0 else fld w 61 57
    ai := bit w 56, bi := bit w 55, ci := bit w 54, fn := fld w 53 52, n := fld w 51 32 + 1, imm := fld w 31 0
    k := if top then fld w 66 57 + 1 else 1 }

/-- The command of a compute operation. -/
def edInstr (k : EdKind) (st : Nat) (o : EdOp) : Instr :=
  match k with
  | .fma => .edFma st o | .add => .edAdd st o | .mul => .edMul st o | .min => .edMin st o | .max => .edMax st o
  | .cmp => .edCmp st o | .csel => .edCsel st o | .cvt => .edCvt st o | .exp2 => .edExp2 st o | .log2 => .edLog2 st o
  | .rcp => .edRcp st o | .rsq => .edRsq st o | .tanh => .edTanh st o | .expd => .edExpd st o | .qmx => .edQmx st o
  | .rsum => .edRsum st o | .rssq => .edRssq st o | .rmax => .edRmax st o | .rmin => .edRmin st o | .rcomb => .edRcomb st o
  | .topkf => .edTopkf st o

/-- Control and address operations, which every stream has (R213). -/
def decodeCtl (st k w : Nat) : Option Instr :=
  let rd := fld w 76 73
  let ra := fld w 72 69
  match opcodeOf w with
  | 0x30 => some (.nop st k (hdrOf w))
  | 0x31 => some (.clRing st k (fld w 11 0))
  | 0x32 => some (.loop st k (bit w 76) (fld w 75 72) (fld w 71 52) (fld w 51 32))
  | 0x33 => some (.loopEnd st k)
  | 0x34 => some (.arSet st k (stampOf w) rd (fld w 47 0))
  | 0x35 => some (.arAddi st k (stampOf w) rd ra (fld w 47 0))
  | 0x36 => some (.arAdd st k (stampOf w) rd ra (fld w 68 65))
  | 0x37 => some (.arShl st k (stampOf w) rd ra (fld w 5 0))
  | 0x38 => some (.arShr st k (stampOf w) rd ra (fld w 5 0))
  | 0x39 => some (.arMuli st k (stampOf w) rd ra (fld w 31 0))
  | 0x3A => some (.arBnd st k (stampOf w) rd ra (bit w 64) (fld w 47 0))
  | 0x3B => some (.arConst st k (stampOf w) rd (fld w 7 0))
  | _ => none

/-- The Headrig stream (R209, R214). -/
def decodeHr (st w : Nat) : Option Instr :=
  let h := hdrOf w
  let d := fld w 76 65
  let ar := bit w 63
  let rg := fld w 62 59
  let rows := fld w 58 54 + 1
  let r0 := fld w 53 49
  match opcodeOf w with
  | 0x00 => some (.hrLoad st h d (fld w 19 0) (fld w 64 64) ar rg)
  | 0x01 => some (.hrMul st h d (fld w 64 64) rows r0 (bit w 48) ar rg)
  | 0x02 => some (.hrAddx st h d (bit w 64) rows r0 (bit w 48) ar rg)
  | 0x03 => some (.hrDrain st h d rows r0 (fld w 47 43) (bit w 42) (sext 8 (fld w 41 34)) (bit w 33) (fld w 15 0) ar rg)
  | _ => decodeCtl st 0 w

/-- The Edger stream (R210, R215). -/
def decodeEd (st w : Nat) : Option Instr :=
  let h := hdrOf w
  match opcodeOf w with
  | 0x00 => some (.edOpen st h (fld w 76 72) (fld w 71 60) (bit w 59) (bit w 58) (bit w 57) (fld w 56 53))
  | 0x01 => some (.edClose st h (fld w 76 72))
  | 0x02 => some (.edTake st h (fld w 76 72))
  | op => match edKindOf op with
    | some k => some (edInstr k st (edOpOf k w))
    | none => decodeCtl st 1 w

/-- The Skidder stream (R211, R216). -/
def decodeSk (st w : Nat) : Option Instr :=
  let h := hdrOf w
  match opcodeOf w with
  | 0x00 => some (.skMove st h (fld w 76 65) (fld w 64 53) (bit w 52) (fld w 51 48) (bit w 47) (fld w 46 43) (fld w 42 38) (fld w 37 36))
  | 0x01 => some (.skAtom st h (fld w 76 75) (fld w 74 63) (fld w 62 51) (fld w 50 39) (bit w 38) (fld w 37 34) (fld w 31 0))
  | 0x02 => some (.skOwn st h (fld w 33 32) (fld w 31 0))
  | 0x03 => some (.skPwr st h (fld w 33 32) (fld w 31 0))
  | 0x04 => some (.skScrub st h (fld w 54 32) (fld w 13 0))
  | 0x05 => some (.skBin st h (fld w 76 65) (fld w 64 53) (fld w 52 41) (fld w 31 0))
  | _ => decodeCtl st 2 w

/-- The Flume gate stream (R212, R217). -/
def decodeFg (st w : Nat) : Option Instr :=
  let h := hdrOf w
  match opcodeOf w with
  | 0x00 => some (.fgPost st h (bit w 76) (fld w 75 71) (fld w 70 59 + 1) (fld w 58 47))
  | 0x01 => some (.fgNotch st h (fld w 76 75) (fld w 74 59) (fld w 58 47) (fld w 46 35) (fld w 31 0))
  | _ => decodeCtl st 3 w

/-- The command that a word of stream `k` of a stand spells (R188, R192): its opcode is read in that stream's table. -/
def decodeSlot (st k w : Nat) : Option Instr :=
  match k with
  | 0 => decodeHr st w | 1 => decodeEd st w | 2 => decodeSk st w | 3 => decodeFg st w | _ => none

/-- What the environment adds to an instruction that a stream issues: the store of which a read for it fails its parity (R525),
and a fault in the lanes (R117). -/
structure EnvFault where
  parity : Option Nat := none
  bad : Option (Nat × List Nat) := none
  deriving DecidableEq, Repr

def hdrWith (h : Hdr) (e : EnvFault) : Hdr := { h with parity := e.parity }
def edOpWith (o : EdOp) (e : EnvFault) : EdOp := { o with hdr := hdrWith o.hdr e, bad := e.bad }

/-- The header of an instruction of a stream, if it has one, and its lane fault. -/
def instrEnv : Instr → EnvFault
  | .hrLoad _ h .. | .hrMul _ h .. | .hrAddx _ h .. | .hrDrain _ h .. | .edOpen _ h .. | .edClose _ h .. | .edTake _ h ..
  | .skMove _ h .. | .skAtom _ h .. | .skOwn _ h .. | .skPwr _ h .. | .skScrub _ h .. | .skBin _ h .. | .nop _ _ h
  | .fgPost _ h .. | .fgNotch _ h .. => { parity := h.parity }
  | .edFma _ o | .edAdd _ o | .edMul _ o | .edMin _ o | .edMax _ o | .edCmp _ o | .edCsel _ o | .edCvt _ o | .edExp2 _ o
  | .edLog2 _ o | .edRcp _ o | .edRsq _ o | .edTanh _ o | .edExpd _ o | .edQmx _ o | .edRsum _ o | .edRssq _ o | .edRmax _ o
  | .edRmin _ o | .edRcomb _ o | .edTopkf _ o => { parity := o.hdr.parity, bad := o.bad }
  | _ => {}

/-- An instruction of a stream with what the environment adds. -/
def instrWithEnv (i : Instr) (e : EnvFault) : Instr :=
  match i with
  | .hrLoad st h a b c d f => .hrLoad st (hdrWith h e) a b c d f
  | .hrMul st h a b c d f g i => .hrMul st (hdrWith h e) a b c d f g i
  | .hrAddx st h a b c d f g i => .hrAddx st (hdrWith h e) a b c d f g i
  | .hrDrain st h a b c d f g i j k l => .hrDrain st (hdrWith h e) a b c d f g i j k l
  | .edOpen st h a b c d f g => .edOpen st (hdrWith h e) a b c d f g
  | .edClose st h a => .edClose st (hdrWith h e) a
  | .edTake st h a => .edTake st (hdrWith h e) a
  | .skMove st h a b c d f g i j => .skMove st (hdrWith h e) a b c d f g i j
  | .skAtom st h a b c d f g i => .skAtom st (hdrWith h e) a b c d f g i
  | .skOwn st h a b => .skOwn st (hdrWith h e) a b
  | .skPwr st h a b => .skPwr st (hdrWith h e) a b
  | .skScrub st h a b => .skScrub st (hdrWith h e) a b
  | .skBin st h a b c d => .skBin st (hdrWith h e) a b c d
  | .nop st k h => .nop st k (hdrWith h e)
  | .fgPost st h a b c d => .fgPost st (hdrWith h e) a b c d
  | .fgNotch st h a b c d f => .fgNotch st (hdrWith h e) a b c d f
  | .edFma st o => .edFma st (edOpWith o e) | .edAdd st o => .edAdd st (edOpWith o e) | .edMul st o => .edMul st (edOpWith o e)
  | .edMin st o => .edMin st (edOpWith o e) | .edMax st o => .edMax st (edOpWith o e) | .edCmp st o => .edCmp st (edOpWith o e)
  | .edCsel st o => .edCsel st (edOpWith o e) | .edCvt st o => .edCvt st (edOpWith o e) | .edExp2 st o => .edExp2 st (edOpWith o e)
  | .edLog2 st o => .edLog2 st (edOpWith o e) | .edRcp st o => .edRcp st (edOpWith o e) | .edRsq st o => .edRsq st (edOpWith o e)
  | .edTanh st o => .edTanh st (edOpWith o e) | .edExpd st o => .edExpd st (edOpWith o e) | .edQmx st o => .edQmx st (edOpWith o e)
  | .edRsum st o => .edRsum st (edOpWith o e) | .edRssq st o => .edRssq st (edOpWith o e) | .edRmax st o => .edRmax st (edOpWith o e)
  | .edRmin st o => .edRmin st (edOpWith o e) | .edRcomb st o => .edRcomb st (edOpWith o e) | .edTopkf st o => .edTopkf st (edOpWith o e)
  | i => i

end Sys2Proof.Machine
end

