-- ==== Sys2Proof/Machine/Issue.lean ====
section
/-! DEFINITION. The heads of a stand's streams and their issue (R42, R43, R47, R188 to R202, R208), and completion (R203). -/

namespace Sys2Proof.Machine

def Stand.getStream (t : Stand) (k : Nat) : Stream := tget {} t.streams k
def Stand.updStream (t : Stand) (k : Nat) (f : Stream → Stream) : Stand := { t with streams := tupd {} t.streams k f }
def Stand.getBuf (t : Stand) (b : Nat) : WBuf := tget {} t.buf b
def Stand.updBuf (t : Stand) (b : Nat) (f : WBuf → WBuf) : Stand := { t with buf := tupd {} t.buf b f }

/-- R208: STAMP plus trip index times STAMP_STEP over the enclosing loops. -/
def effStamp (h : Hdr) (loops : List LoopFrame) : Nat := loops.foldl (fun a l => a + l.trip * l.stampStep) h.stamp

/-- What keeps the head of a stream from issuing (R43), with the WAIT codes of STAND_CL_STATUS; `idle`: the stream issues
nothing now, because no running plan holds the stand, it has reached CL_RING, or the edge is not kept. -/
inductive Hold where
  | go | stamp | token | credit | datapath | window | idle
  deriving DecidableEq, Repr

def Hold.code : Hold → Nat
  | .go => 0 | .stamp => 1 | .token => 2 | .credit => 3 | .datapath => 4 | .window => 5 | .idle => 0

/-- The plan context whose cut lists the stand runs now, if any: its steps (R42, R61), or its refill section (R528). -/
def State.running (s : State) (st : Nat) : Option Nat :=
  match (s.getStand st).ctx with
  | some d =>
    if (s.getCtx d).state == .running || (s.getCtx d).state == .stopping || (s.getStand st).refillOn then some d else none
  | none => none

/-- Whether stream `k` of a stand runs a cut list now: a running plan holds the stand, the stream has not reached CL_RING
in this ring, and the compartment's edge is kept (R42, R190, R455). -/
def State.streamLive (s : State) (st k : Nat) : Bool :=
  (s.running st).isSome && !((s.getStand st).getStream k).ended && (s.getCmp (standCmp st)).keptNow

/-- The head of a stream: the command that the word at its next slot spells (R188, R192). -/
def State.head (s : State) (st k : Nat) : Option Instr :=
  let t := s.getStand st
  let q := t.getStream k
  if decide (q.base ≤ q.pc ∧ q.pc < q.base + q.len) then decodeSlot st k (tget 0 t.cuts q.pc) else none

/-! Condition 4 of R43 beyond the stream's own engine. -/

/-- R92: HW is free and the first line lands after the last array entry of every pass on the target buffer. -/
def State.hrLoadReady (s : State) (st buf : Nat) : Bool :=
  let t := s.getStand st
  let now := s.standNow st
  decide (t.hwFree ≤ now) && decide ((t.getBuf buf).lastEntry < s.after st now 4)

/-- R92: the pass slot is free and the last line of the buffer's tile has been read. -/
def Stand.hrMulReady (t : Stand) (now buf : Nat) : Bool := decide (t.passFree ≤ now) && decide ((t.getBuf buf).lastRead ≤ now)

/-- Entries of the finished-tile queue that a drain cannot have in cycle `now` (R92, R106). -/
def Stand.ftqHeld (t : Stand) (now : Nat) : Nat := t.ftq.length + t.ftqReserved + (if t.ftqTaken = now + 1 then 1 else 0)

/-- R92: the drain unit has read every row of the previous drain, and a pushing drain finds a free queue entry. A drain issues
after the cycle of that last read (DESIGN CHOICE, notes/assumptions/40.md). -/
def Stand.hrDrainReady (t : Stand) (now : Nat) (push : Bool) : Bool :=
  decide (t.drainFree ≤ now) && (!push || decide (t.ftqHeld now < 16))

/-- The queue entry an ED_TAKE finds: pushed in an earlier cycle (R106). -/
def Stand.ftqHead (t : Stand) (now : Nat) : Option Ftq :=
  match t.ftq with
  | e :: _ => if e.cycle ≤ now then some e else none
  | [] => none

/-- R128: 4 cycles have passed since the last access of each named bank's owner. -/
def Stand.handoverReady (t : Stand) (now mask : Nat) : Bool :=
  (List.range 32).all fun b => !bit mask b || decide (tget 0 t.quiet b ≤ now)

/-- R152: no named bank is in TRANSITION. -/
def Stand.settledBanks (t : Stand) (mask : Nat) : Bool := (List.range 32).all fun b => !bit mask b || tget 0 t.pwr b != 3

/-- Buffered packets of a class at an input port (R238). -/
def State.pktCount (s : State) (l : Loc) (inp : Nat) (reply : Bool) : Nat :=
  (s.net.pkts.filter fun p => p.loc == l && p.inPort == inp && p.reply == reply).length

/-- R203, R238: a packet slot is free in the stand's buffer for requests. -/
def State.packetSlot (s : State) (st : Nat) : Bool := decide (s.pktCount (.node st) 4 false < 8)

/-- R203, R228: whether the Skidder is at work: on an instruction's accesses, or with a flit of its own that has not left. -/
def State.skBusy (s : State) (st : Nat) : Bool :=
  (s.getStand st).jobs.any (·.stream == 2) || s.net.flits.any fun f => f.loc == .node st && f.inPort == 4 && !f.resent

/-- Condition 4 of R43 for a head, its stream's engine apart. -/
def State.headReady (s : State) (st : Nat) : Instr → Bool
  | .hrLoad _ _ _ _ buf _ _ => s.hrLoadReady st buf
  | .hrMul _ _ _ buf _ _ _ _ _ => (s.getStand st).hrMulReady (s.standNow st) buf
  | .hrAddx .. => decide ((s.getStand st).hwFree ≤ s.standNow st) && decide ((s.getStand st).passFree ≤ s.standNow st)
  | .hrDrain _ _ _ _ _ _ _ _ push _ _ _ => (s.getStand st).hrDrainReady (s.standNow st) push
  | .edTake .. => ((s.getStand st).ftqHead (s.standNow st)).isSome
  | .skOwn _ _ _ mask => !s.skBusy st && (s.getStand st).handoverReady (s.standNow st) mask
  | .skPwr _ _ _ mask => !s.skBusy st && (s.getStand st).handoverReady (s.standNow st) mask && (s.getStand st).settledBanks mask
  | .skMove .. | .skAtom .. | .skScrub .. | .skBin .. => !s.skBusy st
  | .fgPost .. => s.packetSlot st
  | .fgNotch _ _ op .. => s.packetSlot st && !(op == 3 && decide ((s.getStand st).waits ≥ 16))
  | _ => true

/-- What R43 asks of an instruction: its header, the tokens ED_RCOMB counts (R195), and whether it takes its stream's engine.
CL_RING, LOOP and LOOP_END issue nothing (R208). -/
def issueNeeds : Instr → Option (Hdr × Option Nat × Bool)
  | .hrLoad _ h .. | .hrMul _ h .. | .hrAddx _ h .. | .hrDrain _ h .. | .edOpen _ h .. | .edClose _ h .. | .edTake _ h ..
  | .skMove _ h .. | .skAtom _ h .. | .skOwn _ h .. | .skPwr _ h .. | .skScrub _ h .. | .skBin _ h ..
  | .fgPost _ h .. | .fgNotch _ h .. => some (h, none, true)
  | .edFma _ o | .edAdd _ o | .edMul _ o | .edMin _ o | .edMax _ o | .edCmp _ o | .edCsel _ o | .edCvt _ o | .edExp2 _ o
  | .edLog2 _ o | .edRcp _ o | .edRsq _ o | .edTanh _ o | .edExpd _ o | .edQmx _ o | .edRsum _ o | .edRssq _ o | .edRmax _ o
  | .edRmin _ o | .edTopkf _ o => some (o.hdr, none, true)
  | .edRcomb _ o => some (o.hdr, some o.imm, true)
  | .nop _ _ h => some (h, none, false)
  | .arSet _ _ stamp .. | .arAddi _ _ stamp .. | .arAdd _ _ stamp .. | .arShl _ _ stamp .. | .arShr _ _ stamp ..
  | .arMuli _ _ stamp .. | .arBnd _ _ stamp .. | .arConst _ _ stamp .. => some ({ stamp := stamp }, none, false)
  | _ => none

/-- The tokens an instruction waits on: its amount (R195). -/
def tokNeed (h : Hdr) (rcomb : Option Nat) : Nat :=
  if h.wt = 0 then 0 else match rcomb with | some n => n | none => h.wtn + 1

def credNeed (h : Hdr) : Nat := if h.wc = 0 then 0 else h.wcn + 1

/-- What a stream's head takes from the counters in its issue cycle: token counter, amount, credit counter, amount. -/
structure Take where
  wt : Nat
  tok : Nat
  wc : Nat
  cred : Nat
  deriving DecidableEq, Repr

/-- What the streams before have taken of a token or credit counter in this cycle (R197). -/
def takenTok (l : List Take) (i : Nat) : Nat := ((l.filter (·.wt == i)).map (·.tok)).foldl (· + ·) 0
def takenCred (l : List Take) (i : Nat) : Nat := ((l.filter (·.wc == i)).map (·.cred)).foldl (· + ·) 0

/-- The four conditions of R43 for an instruction of stream `k`: its stamp, its tokens, its credits, the datapath; the streams
before take `l` in the same cycle (R197). -/
structure Conds where
  stamp : Bool
  tok : Bool
  cred : Bool
  path : Bool
  deriving DecidableEq, Repr

def State.conds (s : State) (st k : Nat) (i : Instr) (h : Hdr) (rcomb : Option Nat) (eng : Bool) (l : List Take) : Conds :=
  let t := s.getStand st
  let q := t.getStream k
  let now := s.standNow st
  { stamp := decide (effStamp h q.loops ≤ now)
    tok := decide (tokNeed h rcomb + takenTok l h.wt ≤ (t.getTok h.wt).n) || h.wt == 0
    cred := decide (credNeed h + takenCred l h.wc ≤ (t.getCred h.wc).n) || h.wc == 0
    path := decide (q.next ≤ now) && (!eng || decide (q.free ≤ now)) && s.headReady st i }

/-- R43: what holds an instruction; the first condition that fails names it. -/
def Conds.hold (c : Conds) : Hold :=
  if !c.stamp then .stamp else if !c.tok then .token else if !c.cred then .credit else if !c.path then .datapath else .go

/-- What the heads of the streams below `k` take in this cycle, in the order Headrig, Edger, Skidder, Flume gate (R197). -/
def State.takes (s : State) (st : Nat) : Nat → List Take
  | 0 => []
  | k + 1 =>
    let l := s.takes st k
    if !s.streamLive st k then l
    else match s.head st k with
      | some i => match issueNeeds i with
        | some (h, rcomb, eng) =>
          if (s.conds st k i h rcomb eng l).hold = .go ∧ ((s.getStand st).getStream k).filled then
            l ++ [⟨h.wt, tokNeed h rcomb, h.wc, credNeed h⟩]
          else l
        | none => l
      | none => l

/-- R43: whether the head of stream `k` issues in this cycle, and what holds it if it does not. -/
def State.holdOf (s : State) (st k : Nat) (i : Instr) : Hold :=
  if !s.streamLive st k then .idle
  else if !((s.getStand st).getStream k).filled then .window
  else match issueNeeds i with
    | some (h, rcomb, eng) => (s.conds st k i h rcomb eng (s.takes st k)).hold
    | none => .idle

/-- WAIT of STAND_CL_STATUS: what holds the head of a stream. -/
def State.waitOf (s : State) (st k : Nat) : Hold :=
  match s.head st k with
  | some i => s.holdOf st k i
  | none => .idle

/-- Whether a command is the instruction at the head of stream `k`, with what the environment adds to it. -/
def State.isHead (s : State) (st k : Nat) (i : Instr) : Bool :=
  match s.head st k with
  | some j => instrWithEnv j (instrEnv i) == i
  | none => false

/-- R43: an instruction that its stream issues: it is the head, and nothing holds it. Any other command of the kind changes
nothing: a stream issues its own instructions, in order. -/
def State.issue (s : State) (st k : Nat) (i : Instr) (f : State → State) : Host.Outcome State Fault Refusal :=
  if s.isHead st k i ∧ s.holdOf st k i = .go then .next (f s) else .next s

/-- An operation that the sequencer carries out without an issue cycle, at the head of its stream (R208). -/
def State.sequence (s : State) (st k : Nat) (i : Instr) (f : State → State) : Host.Outcome State Fault Refusal :=
  if s.isHead st k i ∧ s.streamLive st k then .next (f s) else .next s

/-- R48: SLIP_LIMIT, once for a ring, when a unit's slip count passes the limit. -/
def State.noteSlip (s : State) (d unit late cyc : Nat) : State :=
  let c := s.getCtx d
  let limit := if c.slipLimit = 0 then c.slack else c.slipLimit
  let s := s.updCtx d fun c => if late > c.slip then { c with slip := late, slipUnit := unit } else c
  let s := s.updAcc d fun a => if late > a.slip then { a with slip := late, slipUnit := unit } else a
  if late > limit ∧ !c.slipWarned then
    (s.raiseAt 0x0102 d unit cyc late 0).updCtx d fun c => { c with slipWarned := true }
  else s

/-- R195: tokens and credits consumed at issue. -/
def State.consume (s : State) (st : Nat) (h : Hdr) (rcomb : Option Nat) : State :=
  s.updStand st fun t =>
    { t with
      tok := if h.wt = 0 then t.tok else tput t.tok h.wt ((t.getTok h.wt).take (tokNeed h rcomb))
      cred := if h.wc = 0 then t.cred else tput t.cred h.wc ((t.getCred h.wc).take (credNeed h)) }

/-- R201: whether the token counter consumed from carries SUSPECT. -/
def State.tokTaint (s : State) (st : Nat) (h : Hdr) (rcomb : Option Nat) : Bool :=
  h.wt ≠ 0 && tokNeed h rcomb ≠ 0 && ((s.getStand st).getTok h.wt).suspect

/-- The stream's own part of an issue: the next slot, the slip count (R47), and no further issue before `next`,
and the engine held until `free` (0: not used). -/
def Stream.issued (q : Stream) (late next free : Nat) : Stream :=
  { q with pc := q.pc + 1, slip := max q.slip (satAt 16 late), next := next, free := if free = 0 then q.free else free }

/-- An instruction of stream `k` issues (R43, R47, R195): counters consumed, slip noted, STAND_CL_ISSUED advanced, the
engine occupied for `occ` cycles (0: the instruction uses no engine). -/
def State.beginIssue (s : State) (st k : Nat) (h : Hdr) (rcomb : Option Nat) (occ : Nat) : State :=
  let now := s.standNow st
  let s := match h.parity with | some store => s.parityFault st k store | none => s
  let late := now - effStamp h ((s.getStand st).getStream k).loops
  let s := s.consume st h rcomb
  let s := s.updStand st fun t => { t.updStream k (·.issued late (s.after st now 1) (if occ = 0 then 0 else s.after st now occ)) with issued := t.issued.add 1 }
  match s.running st with
  | some d => s.noteSlip d (standUnit st k) (satAt 16 late) now
  | none => s

/-- R218: at the end of a cycle, the streams that only tokens, or only credits, have held, and an HR_MUL that waited on its
weight buffer (STAND_HR_WWAIT). -/
def State.countHeld (s : State) (st : Nat) : State :=
  let held := (List.range 4).filterMap fun k =>
    if !s.streamLive st k || !((s.getStand st).getStream k).filled then none
    else match s.head st k with
      | some i => (issueNeeds i).map fun n => (i, s.conds st k i n.1 n.2.1 n.2.2 (s.takes st k))
      | none => none
  let tok := (held.filter fun p => p.2.stamp && !p.2.tok && p.2.cred && p.2.path).length
  let crd := (held.filter fun p => p.2.stamp && p.2.tok && !p.2.cred && p.2.path).length
  let now := s.standNow st
  let ww := (held.filter fun p => p.2.stamp && p.2.tok && p.2.cred && match p.1 with
    | .hrMul _ _ _ buf .. => decide (((s.getStand st).getBuf buf).lastRead > now)
    | _ => false).length
  if tok + crd + ww = 0 then s
  else s.updStand st fun t => { t with tokWait := t.tokWait.add tok, crdWait := t.crdWait.add crd, wwait := t.wwait.add ww }

/-- R201, R202: a tainted instruction counts, and in a step with no cause recorded it fails the step; the event is raised
once for a stand in a step. `ctr` is the counter named, 0 where the taint came from elsewhere. -/
def State.noteTaint (s : State) (st k ctr : Nat) (tainted : Bool) : State :=
  if !tainted then s
  else
    let s := s.updStand st fun t => { t with taint := t.taint.add 1 }
    match s.running st with
    | none => s
    | some d =>
      let a := (s.getTally d).acc
      if a.cause ≠ 0 then s
      else
        let s := s.failStep d 0x020B (standUnit st k)
        if a.suspectStands.contains st then s
        else (s.raiseAt 0x020B d (standUnit st k) (s.standNow st) ctr 0).updAcc d fun a =>
          { a with suspectStands := st :: a.suspectStands }

/-- An operation in flight of stream `k`, completing at local count `due` (R203). -/
def State.addOp (s : State) (st k : Nat) (h : Hdr) (due : Nat) (sus : Bool) (kind : OpKind) : State :=
  s.updStand st fun t =>
    { t with ops := t.ops ++ [{ id := t.nextOp, stream := k, due := due, pt := h.pt, pc := h.pc, suspect := sus, kind := kind }]
             nextOp := t.nextOp + 1 }

/-- Changes to one operation in flight. -/
def Stand.updOp (t : Stand) (id : Nat) (f : Op → Op) : Stand :=
  { t with ops := t.ops.map fun o => if o.id = id then f o else o }

/-- R203: whether an operation completes at local count `now`. -/
def Op.done (o : Op) (now : Nat) : Bool :=
  match o.kind with
  | .await n => n == 0 && decide (o.due ≤ now)
  | .packet _ => false
  | _ => decide (o.due ≤ now)

/-- R105, R106: the finished-tile queue entry of a pushing drain: it can be taken from local count `next` on. -/
def Stand.pushFtq (t : Stand) (id next : Nat) (sus : Bool) : Stand :=
  match t.drains.find? (·.opId == id) with
  | none => t
  | some d =>
    let e : Ftq := { tag := d.tag, handle := d.handle, aoff := d.aoff, r0 := d.r0, rows := d.rows, fmt := d.fmt,
                     suspect := sus, cycle := next }
    let t := { t with drains := t.drains.filter (·.opId != id), tiles := t.tiles.add 1 }
    if d.push then { t with ftq := t.ftq ++ [e], ftqReserved := t.ftqReserved - 1 } else t

/-- R203: an operation completes: PT and PC are posted (R196), marked SUSPECT where the operation is; a drain pushes its
queue entry; an Edger instruction counts. -/
def State.completeOp (s : State) (st : Nat) (o : Op) : State :=
  let next := s.after st (s.standNow st) 1
  let s := s.updStand st fun t =>
    let t := { t with ops := t.ops.filter (·.id != o.id) }
    match o.kind with
    | .drain => t.pushFtq o.id next o.suspect
    | .edger => { t with edOps := t.edOps.add 1 }
    | _ => t
  (s.postTok st o.pt 1 o.suspect).postCred st o.pc 1

/-- The operation of stream `k` that completes next at the present local count, the earliest due first. -/
def State.nextDone (s : State) (st k : Nat) : Option Op :=
  let now := s.standNow st
  ((s.getStand st).ops.filter fun o => o.stream == k && o.done now).foldl
    (fun b o => match b with | some x => if o.due < x.due then some o else b | none => some o) none

/-- INSTRUCTION_COMPLETE. -/
def instructionComplete (st k : Nat) (s : State) : State :=
  match s.nextDone st k with
  | some o => s.completeOp st o
  | none => s

end Sys2Proof.Machine
end

