-- ==== Sys2Proof/Machine/Jobs.lean ====
section
/-! DEFINITION. Instructions at work (R91, R118, R124 to R126, R134, R148): the accesses that an issued instruction makes to its
stand's Deck, one line of a port in a local cycle, and what its stand carries out in later cycles. -/

namespace Sys2Proof.Machine

def Stand.getJob (t : Stand) (id : Nat) : Option Job := t.jobs.find? (·.id == id)
def Stand.updJob (t : Stand) (id : Nat) (f : Job → Job) : Stand :=
  { t with jobs := t.jobs.map fun j => if j.id = id then f j else j }

/-- An instruction in flight, by its operation's number, marked SUSPECT: its job and its operation (R107, R201). -/
def Stand.markJob (t : Stand) (id : Nat) (sus : Bool) : Stand :=
  (t.updJob id fun j => { j with suspect := j.suspect || sus }).updOp id fun o => { o with suspect := o.suspect || sus }

/-- R130, R149: what an access of an instruction met: each event once for the instruction, its outputs marked SUSPECT. -/
def State.jobMet (s : State) (st id : Nat) (m : Met) : State :=
  match (s.getStand st).getJob id with
  | none => s
  | some j =>
    let (r, a, w, x) := j.raised
    let s := s.updStand st fun t => (t.updJob id fun j =>
      { j with raised := (r || m.refused.isSome, a || m.uncA.isSome, w || m.uncW.isSome, x) }).markJob id m.bad
    s.raiseMet st (standUnit st j.stream)
      { m with refused := if r then none else m.refused, uncA := if a then none else m.uncA, uncW := if w then none else m.uncW }

/-- A line read for an instruction: kept by its line number. -/
def State.jobRead (s : State) (st id port : Nat) (l : Int) : State :=
  let (s, v, m) := s.readLine st port (l * 512) (s.standNow st)
  (s.updStand st fun t => t.updJob id fun j => if l < 0 then j else { j with got := tput j.got l.toNat v }).jobMet st id m

/-- A line written for an instruction. -/
def State.jobWrite (s : State) (st id port : Nat) (l : Int) (img be : Nat) : State :=
  let (s, m) := s.writeLine st port (l * 512) (s.standNow st) false img be
  s.jobMet st id m

/-- What becomes of an act whose cycle has come: it runs, it waits for a later cycle alone, or it and all that follow it in its job
move one cycle on. -/
inductive Turn where
  | run | wait | shift
  deriving DecidableEq, Repr

/-- R134, R140: whether a line's bank holds its owning port's next access in this cycle. -/
def Stand.held (t : Stand) (port : Nat) (l : Int) (now : Nat) : Bool :=
  (t.refusal port (l * 512) now false false).isNone && t.isBusy (bankOf (l * 512).toNat) now

/-- Whether the port has moved a line for a job in this cycle already. -/
def Stand.moved_ (t : Stand) (port now : Nat) : Bool := tget 0 t.lineAt port == now + 1

/-- R89, R124, R126, R134: whether an access of a job enters its port now. HA reads in even cycles and writes in odd ones; SK is
the Skidder's in cycles that are not Flume cycles; a bank in the second cycle of a merge or an atomic holds its port. -/
def State.turn (s : State) (st : Nat) (j : Job) (now : Nat) : Act → Turn
  | .stage _ => .run
  | .atomic i =>
    let at_ := match j.kind with
      | .atom _ tgt _ _ _ _ els _ => some (tgt, (els.getD i (none, none, none)).1)
      | _ => none
    match at_ with
    | some (tgt, a) =>
      let d := (s.getStand st).getDesc tgt
      if d.tier ≠ 0 then (if s.packetSlot st then .run else .shift)
      else if s.flumeCycle st now || a.any (fun a => (s.getStand st).held portSK (a / 512) now) then .shift else .run
    | none =>
      let l := match j.kind with
        | .scrub next _ ((c, l, _) :: _) => if c ≤ now then l else next
        | .scrub next _ [] => next
        | _ => -1
      if s.flumeCycle st now || (s.getStand st).held portSK l now then .shift else .run
  | .read port l =>
    let t := s.getStand st
    if port = portSK then (if s.flumeCycle st now || t.held port l now then .shift else .run)
    else if t.held port l now then .wait
    else if port = portHA then (if now % 2 = 0 then .run else .wait)
    else if port = portEC && t.moved_ port now then .wait
    else .run
  | .write port l _ _ =>
    let t := s.getStand st
    if port = portSK then (if s.flumeCycle st now || t.held port l now then .shift else .run)
    else if t.held port l now then .wait
    else if t.moved_ port now || (port == portHA && now % 2 == 0) then .wait
    else .run

/-- The port that an act uses. -/
def Act.port : Act → Option Nat
  | .read p _ => some p | .write p _ _ _ => some p | .atomic _ => some portSK | .stage _ => none

/-- A step of an instruction of its own kind: stage or atomic `i` of the job. -/
abbrev Stage := Nat → Job → Act → State → State

/-- One act of a job carried out. -/
def State.runAct (s : State) (stage : Stage) (st : Nat) (j : Job) (a : Act) : State :=
  let now := s.standNow st
  let s := s.updStand st fun t => { t with lineAt := match a.port with | some p => tput t.lineAt p (now + 1) | none => t.lineAt }
  match a with
  | .read port l => s.jobRead st j.id port l
  | .write port l img be => s.jobWrite st j.id port l img be
  | a => stage st j a s

/-- Whether a job has more to come although it has no act now: a drain with rows still to check. -/
def Stand.jobOpen (t : Stand) (j : Job) : Bool :=
  match j.kind with
  | .drain => t.drains.any fun d => d.opId == j.id && decide (d.next < d.rows)
  | _ => false

/-- Whether the operation's completion follows from its last act; that of an Edger operation follows from its occupancy (R118), and
that of a transfer from what it has sent. -/
def JobKind.follows : JobKind → Bool
  | .compute .. => false
  | .move _ own _ _ => own
  | .atom _ _ _ ret _ _ _ _ => ret != 0
  | _ => true

/-- One of an operation's awaited parts has come. -/
def Op.step (o : Op) (due : Nat) : Op :=
  match o.kind with
  | .await (n + 1) => { o with kind := .await n, due := due }
  | .packet _ => { o with kind := .plain, due := due }
  | _ => o

/-- A job without acts leaves: its operation completes no earlier than 4 cycles after its last act (R91, R148, R203). The Skidder's
operations await the end of their jobs, and the Skidder is free from the next cycle on, after an SK_SCRUB from its completion. -/
def State.endJob (s : State) (st : Nat) (j : Job) : State :=
  let now := s.standNow st
  let fin := s.after st now 4
  let next := s.after st now 1
  s.updStand st fun t =>
    let t := { t with jobs := t.jobs.filter (·.id != j.id) }
    let t := t.updOp j.id fun o =>
      let due := if j.kind.follows then max o.due fin else o.due
      if j.stream = 2 then o.step due else { o with due := due }
    if j.stream = 2 then
      t.updStream 2 fun q => { q with free := max q.free (match j.kind with | .scrub .. => fin | _ => next) }
    else t

/-- R203: a Skidder access that is held lengthens its instruction's occupancy by one cycle: all that follows comes one cycle later. -/
def State.shiftJob (s : State) (st : Nat) (j : Job) (now : Nat) : State :=
  let t' := fun t => s.after st t 1
  let s := s.updStand st fun t => t.updJob j.id fun j => { j with acts := j.acts.map fun e => (t' (max e.1 now), e.2) }
  match j.kind with
  | .bin .. => s.updStand st fun t =>
      (t.updOp j.id fun o => { o with due := t' o.due }).updStream 2 fun q => { q with free := t' q.free }
  | _ => s

/-- The acts of a job that come in this cycle, at most `n`. -/
def State.runJob (stage : Stage) (st id : Nat) : Nat → State → State
  | 0, s => s
  | n + 1, s =>
    match (s.getStand st).getJob id with
    | none => s
    | some j =>
      let now := s.standNow st
      match j.acts with
      | [] => if (s.getStand st).jobOpen j then s else s.endJob st j
      | (c, a) :: rest =>
        if now < c then s
        else match s.turn st j now a with
          | .wait => s
          | .shift => s.shiftJob st j now
          | .run =>
            State.runJob stage st id n ((s.updStand st fun t => t.updJob id fun j => { j with acts := rest }).runAct stage st j a)

/-- The acts of a job that one cycle can hold, and more. -/
def jobFuel : Nat := 1024

/-- Acts into a job's acts, each after those of its cycle and before those of later ones. -/
def insAct (a : Nat × Act) : List (Nat × Act) → List (Nat × Act)
  | [] => [a]
  | b :: bs => if a.1 < b.1 then a :: b :: bs else b :: insAct a bs

def planActs (as : List (Nat × Act)) (l : List (Nat × Act)) : List (Nat × Act) := as.foldl (fun l a => insAct a l) l
def Job.plan (j : Job) (as : List (Nat × Act)) : Job := { j with acts := planActs as j.acts }

/-- An instruction starts to work: its job, under the number of the operation that is added next, with the acts of its issue
cycle carried out. -/
def State.startJob (s : State) (stage : Stage) (st id stream : Nat) (kind : JobKind) (sus : Bool) (acts : List (Nat × Act)) : State :=
  let j : Job := { id := id, stream := stream, kind := kind, acts := acts, suspect := sus, at_ := s.standNow st }
  State.runJob stage st id jobFuel (s.updStand st fun t => { t with jobs := t.jobs ++ [j] })

/-- Cycles from local count `t` on, one after the other. -/
def State.cyclesFrom (s : State) (st t n : Nat) : List Nat := (List.range n).map fun i => s.after st t i

/-- Lines read through a port in consecutive cycles from `t` on. -/
def State.readsFrom (s : State) (st port t : Nat) (ls : List Int) : List (Nat × Act) :=
  (s.cyclesFrom st t ls.length).zip (ls.map fun l => Act.read port l)

/-- One thing that takes effect now: a line becomes visible, a handover or a transition begins, a DTOK posts. -/
def State.takeLater (s : State) (st : Nat) (power : Nat → Nat → Nat → Stand → Stand) (release : Nat → State → State) :
    Later → State
  | .land _ a img be ms => s.updStand st fun t => t.land a img be ms
  | .own owner mask => s.updStand st fun t =>
      { t with own := (List.range 32).foldl (fun o b => if bit mask b then tput o b owner else o) t.own
               quiet := t.quiet.filter fun e => !bit mask e.1 }
  | .power state mask => s.updStand st (power (s.standNow st) state mask)
  | .dtok tok sus track => release track (s.postTok st tok 1 sus)

/-- What takes effect in the cycle that begins, oldest first. -/
def State.takeLaters (s : State) (st : Nat) (power : Nat → Nat → Nat → Stand → Stand) (release : Nat → State → State) : State :=
  let now := s.standNow st
  let due := (s.getStand st).later.filter fun e => decide (e.1 ≤ now)
  let s := s.updStand st fun t => { t with later := t.later.filter fun e => !decide (e.1 ≤ now) }
  due.foldl (fun s e => s.takeLater st power release e.2) s

/-- The jobs of a stand in a cycle, oldest first. -/
def State.runJobs (stage : Stage) (s : State) (st : Nat) : State :=
  (s.getStand st).jobs.foldl (fun s j => State.runJob stage st j.id jobFuel s) s

end Sys2Proof.Machine
end

