-- ==== Sys2Proof/Machine/Flume.lean ====
section
/-! DEFINITION. The Flume (chapter 08): slot tables, circuit flits and packets on their way, delivery, checks and resends. -/

namespace Sys2Proof.Machine

/-! The ways of the fabric. -/

/-- The port of a place through which its own units inject: L at a stand, a hub unit's or controller's port elsewhere. -/
def injects (l : Loc) (inp : Nat) : Bool :=
  match l with
  | .node _ => inp == 4
  | .bridge => decide (32 ≤ inp)
  | .edge _ => decide (16 ≤ inp)
  | _ => false

/-- Edge switch of a stand's column on the north or south side (R319). -/
def edgeOf (st : Nat) (south : Bool) : Nat := (if st % 32 ≥ 16 then 2 else 0) + (if south then 1 else 0)

/-- Whether flits at an input were injected there, and so take the CKT of the entry that takes them (R228). -/
def freshAt (l : Loc) (inp : Nat) : Bool :=
  match l with
  | .bridge => decide (44 ≤ inp)
  | l => injects l inp

/-- Where an output leads (R219, R222, R247, R320, R321): the next place, its input port, the latency and whether the
link is a crossing (R221). `t` is the local count of the entry. -/
def nextHop (l : Loc) (out t : Nat) : Option (Loc × Nat × Nat × Bool) :=
  match l with
  | .node st =>
    let r := st / 32
    let c := st % 32
    match out with
    | 0 => if r = 0 then some (.edge (edgeOf st false), c % 16, 3, true)
           else some (.node (st - 32), 2, 1, standCmp st != standCmp (st - 32))
    | 1 => if c = 31 then none else if c = 15 then some (.bridge, r, 3, true) else some (.node (st + 1), 3, 1, false)
    | 2 => if r = 15 then some (.edge (edgeOf st true), c % 16, 3, true)
           else some (.node (st + 32), 0, 1, standCmp st != standCmp (st + 32))
    | 3 => if c = 0 then none else if c = 16 then some (.bridge, 16 + r, 3, true) else some (.node (st - 1), 1, 1, false)
    | 4 => some (.stand st, 4, 0, false)
    | _ => none
  | .bridge =>
    if out < 16 then some (.node (32 * out + 15), 1, 2, true)
    else if out < 32 then some (.node (32 * (out - 16) + 16), 3, 2, true)
    else if out < 44 then some (.aelel (out - 32), 0, 2, false)
    else if out < 49 then some (.unit out, 0, 2, true)
    else if out < 53 then some (.ctrl (24 + 4 * (out - 49) + t % 4), 0, 2, true)
    else none
  | .edge k =>
    if out < 16 then
      some (.node ((if k % 2 = 1 then 480 else 0) + out + (if k ≥ 2 then 16 else 0)), if k % 2 = 1 then 2 else 0, 3, true)
    else if out < 22 then some (.ctrl (2 * (3 * k + (out - 16) / 2) + (out - 16) % 2), 0, 1, false)
    else none
  | _ => none

/-! Circuit flits. -/

/-- Whether a flit has come to where it waits: through a crossing in root time, else by the local count (R222). -/
def State.come (s : State) (f : Flit) : Bool := if f.fifo then decide (f.ready ≤ s.time) else decide (f.due ≤ s.locNow f.loc)

/-- Whether an entry can take a flit that waits at its input (R222, R232). Injected flits take the entry's CKT,
but those of a hub unit that names its circuit. -/
def Flit.fits (f : Flit) (s : State) (l : Loc) (c : Conn) : Bool :=
  f.loc == l && f.inPort == c.inp && ((freshAt l c.inp && f.ckt == 0) || f.ckt == c.ckt) &&
  s.come f &&
  (match l, f.srcEnd with
    | .bridge, .ctrl p => decide (s.locNow l % 4 = (p - 24) % 4 ∨ f.inPort < 49)
    | _, _ => true)

/-- Whether two places lie behind the same crossing link: the LPDDR5X controllers of one bridge port share theirs (R321). -/
def sameLink (l l' : Loc) : Bool :=
  match l, l' with
  | .ctrl p, .ctrl q => if p ≥ 24 then decide (q ≥ 24 ∧ (p - 24) / 4 = (q - 24) / 4) else p == q
  | l, l' => l == l'

/-- Flits in the crossing FIFO before an input of a place, those still on the link included (R46, R221, R234). -/
def State.fifoCount (s : State) (l : Loc) (inp : Nat) : Nat :=
  (s.net.flits.filter fun f => f.fifo && sameLink f.loc l && f.inPort == inp).length

/-- The input port an item carries on: at a stand's L, the port of the node at which it came in (PORT of STAND_FL_E2E0). -/
def arrivePort (l : Loc) (before after : Nat) : Nat := match l with | .stand _ => before | _ => after

/-- The flit as it stands after leaving through an output in the entry of local count `t`; where it is injected, it carries the
check value of what it then holds (R242). The leg to an Aelel port counts as a crossing (R262). -/
def Flit.hop (f : Flit) (s : State) (l : Loc) (c : Conn) (t : Nat) : Option Flit :=
  match nextHop l c.out t with
  | none => none
  | some (l', inp', lat, x) =>
    let x := x || (match l' with | .aelel _ => true | _ => false)
    let g := { f with loc := l', inPort := arrivePort l' f.inPort inp', ready := s.time + lat, due := t + lat, fifo := x, ckt := c.ckt
                      pcyc := if x then t else f.pcyc, kept := false }
    some (if injects l f.inPort && !f.bad then { g with crc := g.check } else g)

/-- STAND_FL_LATE, or AEL_BR_LATE at the bridge (R232, R234). -/
def State.noteLate (s : State) (l : Loc) (d : Nat) : State :=
  match l with
  | .bridge => s.updBridge d fun b => { b with late := b.late.add 1 }
  | l => s.updNode l fun n => { n with late := n.late.add 1 }

/-- An operation of a stand that one of its awaited parts has completed, which ends it `delay` cycles on at the earliest (R203). -/
def State.opStepAt (s : State) (delay : Nat) (o : Option (Nat × Nat)) (sus : Bool) : State :=
  match o with
  | none => s
  | some (st, id) =>
    let due := s.after st (s.standNow st) delay
    s.updStand st fun t => t.updOp id fun o => { o.step (max o.due due) with suspect := o.suspect || sus }

def State.opStep (s : State) (o : Option (Nat × Nat)) (sus : Bool) : State := s.opStepAt 0 o sus

/-- R203, R228: a flit of an operation has left its stand; with the last one the operation is over, and the Skidder is free from
the next cycle on. -/
def State.flitLeft (s : State) (f : Flit) : State :=
  let s := s.opStep f.op f.suspect
  match f.srcEnd with
  | .node st =>
    if s.net.flits.any fun g => g.loc == .node st && g.inPort == 4 && !g.resent then s
    else s.updStand st fun t => t.updStream 2 fun q => { q with free := max q.free (s.after st (s.standNow st) 1) }
  | _ => s

/-- R244: what an end point sends is kept in its log for W cycles. -/
def State.logSent (s : State) (l : Loc) (it : Sent) : State :=
  let first := match it with | .flit f => f.seq == 0 && !f.resent | .pkt _ => false
  s.updNode l fun n =>
    let k := if first then n.xfers + 1 else n.xfers
    { n with xfers := k, log := n.log.filter (fun e => decide (s.time ≤ e.time + 1024)) ++ [{ time := s.time, item := it, xfer := k }] }

/-- Flits without the first that satisfies `p`. -/
def dropFirst {α : Type} (p : α → Bool) : List α → List α
  | [] => []
  | x :: xs => if p x then xs else x :: dropFirst p xs

/-- R231, R446: in a debug plan, a second flit of a channel to one destination line within W is a finding. -/
def State.scoutLine (s : State) (f : Flit) (t : Nat) : State :=
  let c := s.getCtx f.dom
  if f.resent || f.name.isNone || !c.debugging then s
  else if (s.getNode f.srcEnd).log.any fun e => decide (s.time ≤ e.time + c.resendW) && (match e.item with
      | .flit g => g.ckt == f.ckt && g.name == f.name
      | .pkt _ => false) then
    s.scoutFind f.dom 1 (match f.srcEnd with | .node st => standUnit st 3 | _ => noUnit) (at_ (t % 256) 12 + f.ckt) t
  else s

/-! Frames of an Aelel port (R255 to R266). -/

/-- A frame that is not IDLE sent on a port that is UP, with the next LSEQ; the replay buffer keeps the last 1,024. A port
that is not UP sends nothing and the frame is lost (R254). `slot`: the link slot in which it starts on the wire. -/
def State.sendFrame (s : State) (p slot : Nat) (f : Frame) : State :=
  let a := s.getAel p
  if a.state ≠ 2 then s
  else
    let f := { f with lseq := a.lseqTx }
    let f := { f with fchk := f.check }
    (s.emit (.frame p slot f)).updAel p fun a =>
      { a with lseqTx := (a.lseqTx + 1) % 2 ^ 16, framesTx := a.framesTx.add 1
               replay := let r := a.replay ++ [f]; r.drop (r.length - 1024) }

/-- R255, R261, R281: the link slot that starts 24 cycles after the present root cycle, or the next one; a slot is 2 root cycles, 4
in compatibility mode. -/
def AelPort.slotWidth (a : AelPort) : Nat := if a.mode = 2 then 4 else 2
def State.slotAt (s : State) (p : Nat) : Nat :=
  let w := (s.getAel p).slotWidth
  cdiv (s.ring.cycle + 24) w % (s.L / w)

/-- One frame of a flit (R256, R257): half 0 or 1; a flit that is known to be damaged travels as a VOID (R263). -/
def flitFrame (tag : Nat) (f : Flit) (half : Nat) : Frame :=
  { tag := tag, ftype := if f.bad then 3 else 1, half := half, ckt := f.ckt, seq := f.seq, last := f.last, resent := f.resent
    suspect := f.suspect, doff := f.doff, dtok := f.dtok, be := fld f.be (32 * half + 31) (32 * half), dstDev := f.dstDev
    dstStand := f.dstStand, payload := if f.bad then zeros 256 else slice f.payload (256 * half) 256 }

/-- A flit sent on a port as two frames in consecutive slots. -/
def State.sendLink (s : State) (p : Nat) (f : Flit) : State :=
  let tag := (s.getCtx f.dom).jobTag
  let s := if f.bad ∧ (s.getAel p).state = 2 then s.updAel p fun a => { a with void := a.void.add 1 } else s
  (s.sendFrame p (s.slotAt p) (flitFrame tag f 0)).sendFrame p (s.slotAt p + 1) (flitFrame tag f 1)

/-- Copies of a flit placed where their outputs lead. -/
def State.placeFlits (s : State) (fs : List Flit) : State := { s with net := { s.net with flits := s.net.flits ++ fs } }

/-- An Aelel port of the bridge (R247). -/
def isAel (q : Nat) : Bool := decide (32 ≤ q ∧ q < 44)

/-- The connections that act now at a place for an output, with their entry: a relay runs on root cycles, everything else on
the local count of kept edges (R262). -/
def State.entryNow (s : State) (l : Loc) (out : Nat) : List Conn × Nat :=
  let t := s.locNow l
  let here := if (s.getCmp l.cmp).keptNow then s.conns l t else []
  if l = .bridge then
    let relays := (s.conns l s.ring.cycle).filter fun c => isAel c.inp && isAel c.out
    if isAel out && relays.any (·.out == out) then (relays, s.ring.cycle)
    else (here.filter fun c => !(isAel c.inp && isAel c.out), t)
  else (here, t)

/-- R234: a flit that its entry cannot send into a full crossing FIFO is kept, and counts once as late. -/
def State.keepFlit (s : State) (l : Loc) (f : Flit) : State :=
  ({ s with net := { s.net with flits := s.net.flits.map fun g => if g == f then { g with kept := true } else g } }).noteLate l f.dom

/-! Packets. -/

/-- What a packet's next selector asks for (R236): an output port, with how many selectors it consumes; delivery keeps
PTR where it is. -/
def Packet.next (p : Packet) : Option (Nat × Nat) :=
  let sel := fun i => p.route[p.ptr + i]?
  match p.loc with
  | .node st =>
    match sel 0 with
    | some 0 => if st / 32 = 0 then none else some (0, 1)
    | some 1 => if st % 32 = 31 then none else some (1, 1)
    | some 2 => if st / 32 = 15 then none else some (2, 1)
    | some 3 => if st % 32 = 0 then none else some (3, 1)
    | some 4 => some (4, 0)
    | _ => none
  | .bridge =>
    match sel 0, sel 1, sel 2 with
    | some 0, _, _ => some (32 + p.rail, 1)
    | some 1, _, _ => some (35 + p.rail, 1)
    | some 2, _, _ => some (38 + p.rail, 1)
    | some 3, _, _ => some (41 + p.rail, 1)
    | some 4, some a, some b => if a ≤ 1 then some (8 * a + b, 3) else none
    | some 5, some a, some b => if a ≤ 1 then some (16 + 8 * a + b, 3) else none
    | some 6, _, _ => some (44, 0)
    | some 7, some u, _ => if u ≤ 2 then some (45 + u, 0) else none
    | _, _, _ => none
  | _ => none

/-- R237: the selectors that lead back over the link a packet arrived on. -/
def backSel (l : Loc) (inp : Nat) : List Nat :=
  match l with
  | .node _ => [inp]
  | .bridge =>
    if inp < 16 then [4, inp / 8, inp % 8] else if inp < 32 then [5, (inp - 16) / 8, (inp - 16) % 8]
    else if inp < 44 then [(inp - 32) / 3] else if inp = 44 then [6] else [7, inp - 45]
  | _ => []

/-- The packet as it stands after passing its place: PTR advanced, RETURN longer (R237). -/
def Packet.passed (p : Packet) (k : Nat) : Packet := { p with ptr := p.ptr + k, ret := p.ret ++ [backSel p.loc p.inPort] }

/-- UNIT of an end point, for events. -/
def Loc.unitCode : Loc → Nat
  | .node st => standUnit st 3 | .stand st => standUnit st 3
  | .unit 45 => hubUnit 0 | .unit 46 => hubUnit 1 | .unit 47 => hubUnit 2
  | _ => noUnit

/-- A packet taken out of its buffer; upstream sees the free place one cycle later (R238). -/
def State.dropPacket (s : State) (p : Packet) : State :=
  { s with net := { s.net with
      pkts := dropFirst (· == p) s.net.pkts
      gone := s.net.gone.filter (fun g => g.2.2.2 == s.time) ++ [(p.loc, p.inPort, p.reply, s.time)] } }

/-- R238: whether the buffer for a class at an input port has space, as the sender before it sees it. -/
def State.pktRoom (s : State) (l : Loc) (inp : Nat) (reply : Bool) : Bool :=
  let left := (s.net.gone.filter fun g => g.1 == l && g.2.1 == inp && g.2.2.1 == reply && g.2.2.2 == s.time).length
  match l with
  | .node _ | .bridge => decide (s.pktCount l inp reply + left < 8)
  | _ => true

/-- R236: a packet that cannot go on is dropped, with ROUTE_FAULT. -/
def State.routeFault (s : State) (p : Packet) : State :=
  let s := s.dropPacket p
  let s := match p.loc with
    | .bridge => s.updBridge p.dom fun b => { b with routef := b.routef.add 1 }
    | _ => s
  s.raiseFail 0x0305 p.dom p.loc.unitCode (s.locNow p.loc) p.srcEnd.srcCode 0

/-- Packets that an input port of a place holds for a class: eight at most. What an end point sends beyond them waits before its own
port (R238). -/
def State.buffered (s : State) (l : Loc) (inp : Nat) (reply : Bool) : List Packet :=
  (s.net.pkts.filter fun p => p.loc == l && p.inPort == inp && p.reply == reply).take 8

/-- The packet an entry sends: the oldest that asks for the output, requests before replies (R238). -/
def State.pickPacket (s : State) (l : Loc) (c : Conn) : Option Packet :=
  let ok := fun (p : Packet) => decide (p.ready ≤ s.time) && (p.next.map (·.1)) == some c.out
  ((s.buffered l c.inp false).find? ok).or ((s.buffered l c.inp true).find? ok)

/-- A packet that leaves its source is logged, and its operation goes on (R203, R244). -/
def State.packetLeft (s : State) (l : Loc) (p : Packet) : State :=
  if freshAt l p.inPort then (s.logSent p.srcEnd (.pkt p)).opStep p.op false else s

/-- AEL_BR_PKTS. -/
def State.countPkt (s : State) (l : Loc) (d : Nat) : State :=
  match l with
  | .bridge => s.updBridge d fun b => { b with pkts := b.pkts.add 1 }
  | _ => s

/-- A packet sent through an output, with its route updated (R237), where the next buffer has space. -/
def State.sendPacket (s : State) (l : Loc) (p : Packet) (c : Conn) (t : Nat) : State :=
  match nextHop l c.out t, p.next with
  | some (l', inp', lat, _), some (_, k) =>
    if !s.pktRoom l' inp' p.reply then s
    else
      let s := s.dropPacket p
      let q := { p.passed k with loc := l', inPort := arrivePort l' p.inPort inp', ready := s.time + lat }
      ((({ s with net := { s.net with pkts := s.net.pkts ++ [q] } } : State)).countPkt l p.dom).packetLeft l p
  | _, _ => s

/-- R256: a packet entry that gives a flit slot to an Aelel port takes the oldest packets buffered for it, requests before
replies, up to eight, four to a frame. `taken` are those taken so far. -/
def State.gather (s : State) (l : Loc) (c : Conn) : Nat → List Packet → State × List Packet
  | 0, taken => (s, taken)
  | n + 1, taken =>
    match s.pickPacket l c with
    | none => (s, taken)
    | some p =>
      match p.next with
      | none => (s, taken)
      | some (_, k) =>
        let s := ((s.dropPacket p).countPkt l p.dom).packetLeft l p
        State.gather s l c n (taken ++ [p.passed k])

/-- The packets taken sent on a port, under the job tag of their context (R257, R269). -/
def State.linkPackets (s : State) (p : Nat) (ps : List Packet) : State :=
  match ps with
  | [] => s
  | q :: _ =>
    let tag := (s.getCtx q.dom).jobTag
    let s := s.sendFrame p (s.slotAt p) { tag := tag, ftype := 2, pkts := ps.take 4 }
    if ps.length > 4 then s.sendFrame p (s.slotAt p + 1) { tag := tag, ftype := 2, half := 1, pkts := ps.drop 4 } else s

/-- The packets at a node or at the bridge that cannot go on are dropped (R236). -/
def State.dropFaulty (s : State) (l : Loc) : State :=
  match l with
  | .node _ | .bridge =>
    (s.net.pkts.filter fun p => p.loc == l && decide (p.ready ≤ s.time) && p.next.isNone).foldl (fun s p => s.routeFault p) s
  | _ => s

/-- PACKET_FORWARD (R236 to R238): the packet entry of the present local count for an output. -/
def packetForward (l : Loc) (out : Nat) (s : State) : State :=
  let s := s.dropFaulty l
  let t := s.locNow l
  match (s.conns l t).find? (fun c => c.out == out && c.kind == 2) with
  | none => s
  | some c =>
    if !(s.getCmp l.cmp).keptNow then s
    else if l = .bridge ∧ isAel out then
      let r := State.gather s l c 8 []
      r.1.linkPackets (out - 32) r.2
    else match s.pickPacket l c with
      | none => s
      | some p => s.sendPacket l p c t

/-- ROUTE, length and RAIL of a route-table entry (R235). -/
def routeEntry (e : Nat) : List Nat × Nat :=
  ((List.range (fld e 101 96)).map fun i => fld e (3 * i + 2) (3 * i), fld e 103 102)

/-- The place and input port at which an end point injects. -/
def Loc.injectAt : Loc → Loc × Nat
  | .node st => (.node st, 4) | .stand st => (.node st, 4)
  | .unit q => (.bridge, q)
  | .ctrl p => if p ≥ 24 then (.bridge, 49 + (p - 24) / 4) else (.edge (p / 2 / 3), 16 + p % 6)
  | .aelel p => (.bridge, 32 + p)
  | l => (l, 0)

/-- A packet injected by an end point, with the next SEQ of its channel (R231, R235) and its check value (R242); it can leave `lat`
cycles from now. -/
def State.newPacket (s : State) (lat : Nat) (src : Loc) (route : List Nat) (rail : Nat) (reply : Bool) (dom : Nat) (pl : Payload)
    (op : Option (Nat × Nat)) : State :=
  let n := s.getNode src
  let seq := ((n.chans.find? fun c => c.1 == route && c.2.1 == rail).map (·.2.2)).getD 0
  let (l, inp) := src.injectAt
  let p : Packet := { loc := l, inPort := inp, ready := s.time + lat, srcDev := s.logicalId dom, srcEnd := src, seq := seq, reply := reply
                      rail := rail, route := route, payload := pl, dom := dom, op := op }
  let s := s.updNode src fun n =>
    { n with chans := (route, rail, (seq + 1) % 256) :: n.chans.filter fun c => !(c.1 == route && c.2.1 == rail) }
  { s with net := { s.net with pkts := s.net.pkts ++ [{ p with crc := p.check }] } }

/-- R273: Aelel selectors for one dimension of extent `n`, the shorter way round; ties go to the positive direction. -/
def torusHops (n own target plus minus : Nat) : List Nat :=
  let d := (target + n - own) % n
  if 2 * d ≤ n then List.replicate d plus else List.replicate (n - d) minus

/-- R273: the Aelel selectors to a physical ID, X first and then Y. -/
def State.hopsTo (s : State) (phys : Nat) : List Nat :=
  torusHops (s.ael.nx + 1) (s.ael.id % 256) (phys % 256) 0 1 ++ torusHops (s.ael.ny + 1) (s.ael.id / 256) (phys / 256) 2 3

/-- R273: a route composed around the hops to a logical device, or the event where none can be sent. -/
def State.compose (s : State) (lead tail : List Nat) (lid : Nat) : List Nat ⊕ Nat :=
  let m := tget (false, 0) s.ael.map lid
  if !m.1 then .inr 0x0306
  else
    let r := lead ++ s.hopsTo m.2 ++ tail
    if r.length > 32 then .inr 0x0305 else .inl r

/-- R235, R273: the route that an entry of a route table gives, or the event where none can be sent. -/
def State.sentRoute (s : State) (e : Nat) : List Nat ⊕ Nat :=
  let r := (routeEntry e).1
  if bit e 127 then let m := fld e 125 120; s.compose (r.take m) (r.drop m) (fld e 119 104) else .inl r

/-- A request packet by an entry of a route table. Where R273 lets none be sent, the operation that waits for it goes on
without it (DESIGN CHOICE, notes/assumptions/24.md). -/
def State.sendBy (s : State) (lat : Nat) (src : Loc) (e : Nat) (dom : Nat) (pl : Payload) (op waits : Option (Nat × Nat)) : State :=
  match s.sentRoute e with
  | .inl r => s.newPacket lat src r (routeEntry e).2 false dom pl op
  | .inr code => (s.raiseFail code dom src.unitCode (s.locNow src) src.srcCode (fld e 119 104)).opStep (op.or waits) true

/-- R237: a reply goes back along the recorded RETURN, from the last hop to the first. -/
def Packet.back (p : Packet) : List Nat := p.ret.reverse.flatten

def State.replyTo (s : State) (lat : Nat) (src : Loc) (p : Packet) (pl : Payload) : State :=
  s.newPacket lat src p.back p.rail true p.dom pl none

/-! Failed checks and resends (R242 to R245). -/

/-- STAND_FL_E2E0 as latched (R250). -/
def e2eFields (dir pkt : Bool) (port ckt seq cyc : Nat) : Nat :=
  flag dir 61 + flag pkt 60 + at_ port 54 + at_ ckt 40 + at_ (seq % 2 ^ 16) 20 + cyc % 2 ^ 20

/-- A failure noted at a destination, or a NACK at a source. -/
def State.noteE2e (s : State) (l : Loc) (dir pkt : Bool) (port ckt seq : Nat) : State :=
  s.updNode l fun n =>
    { n with rec_ := n.rec_.latch (e2eFields dir pkt port ckt seq (s.locNow l)) s.ring.count 0
             crcFail := if dir then n.crcFail else n.crcFail.add 1 }

/-- A channel as E2E_RESEND_EXHAUSTED names it: its CKT, or a packet channel by RAIL and the first nine selectors of its route
(DESIGN CHOICE, notes/assumptions/48.md). -/
def chanItem (packet : Bool) (ckt : Nat) (route : List Nat) (rail : Nat) : Nat :=
  if packet then 2 ^ 31 + at_ (rail % 4) 29 + selectors (route.take 9) else ckt

/-- R245, R51: E2E_RESEND_EXHAUSTED, which halts the plan at the ring boundary. -/
def State.resendExhausted (s : State) (l : Loc) (d chan seq : Nat) : State :=
  let s := s.raiseAt 0x0301 d l.unitCode (s.locNow l) chan seq
  s.updCtx d fun c => { c with resendOut := c.resendOut.or (some l.unitCode) }

/-- The route by which an end point sends its NACKs for a channel: the plan's route table gives it, by an entry that the spec does
not name; an end point other than a stand has no table in the image, and its entry is free too (R243). -/
def State.nackEntry (s : State) (l : Loc) : Nat × State :=
  let (seed, s) := s.takeFree
  (match l with
    | .node _ | .stand _ => tget 0 (s.getNode l).routes (Config.freeNackRoute seed).toNat
    | _ => (Config.freeNackEntry seed).toNat, s)

/-- R243: the NACK of a circuit flit or of a packet, sent one cycle after the failure. -/
def State.nack (s : State) (l : Loc) (d : Nat) (pl : Payload) : State :=
  let (e, s) := s.nackEntry l
  s.sendBy 1 l e d pl none none

def State.nackFlit (s : State) (l : Loc) (f : Flit) : State := s.nack l f.dom (.nack false f.ckt [] 0 f.seq)

/-! Circuit flits on their way. -/

/-- R274: copies of a flit from an Aelel port that would be delivered here though it names another device are dropped. -/
def State.checkDst (s : State) (f : Flit) (outs : List Conn) : State × List Conn :=
  match f.srcEnd with
  | .aelel p =>
    if outs.all (fun c => isAel c.out) || f.dstDev == s.logicalId f.dom then (s, outs)
    else (s.raiseFail 0x0306 f.dom noUnit s.ring.cycle p 0, outs.filter fun c => isAel c.out)
  | _ => (s, outs)

/-- AEL_BR_FLITS. -/
def State.countFlit (s : State) (l : Loc) (d : Nat) : State :=
  match l with
  | .bridge => s.updBridge d fun b => { b with flits := b.flits.add 1 }
  | _ => s

/-- A flit taken by an entry: its copies sent on (R241), the source's operation stepped and its log kept at the source. -/
def State.sendFlit (s : State) (l : Loc) (f : Flit) (copies : List Flit) (t : Nat) (late : Bool) : State :=
  let copies := match f.srcEnd with
    | .node _ => copies.map fun g => if injects l f.inPort then { g with op := none } else g
    | _ => copies
  let s := ({ s with net := { s.net with flits := dropFirst (· == f) s.net.flits } } : State).placeFlits copies
  let s := if late then s.noteLate l f.dom else s
  let s := s.countFlit l f.dom
  if injects l f.inPort then
    let g := copies.headD f
    ((s.scoutLine g t).logSent f.srcEnd (.flit g)).flitLeft f
  else s

/-- Whether an entry's copies find one of their crossing FIFOs full (R234, R262). -/
def State.noRoom (s : State) (copies : List Flit) : Bool := copies.any fun g => g.fifo && decide (s.fifoCount g.loc g.inPort ≥ 4)

/-- FLIT_FORWARD: the entry of the present count at `l` for output `out` (R229, R232, R234, R241, R262, R274). `parity`: the read of
a stand's slot table fails its parity (R525). -/
def flitForward (l : Loc) (out : Nat) (parity : Bool) (s : State) : State :=
  let s := match l with | .node st => if parity then s.parityFault st 3 2 else s | _ => s
  let (cs, t) := s.entryNow l out
  match cs.find? (fun c => c.out == out && (c.kind == 1 || (c.kind == 3 && !freshAt l c.inp))) with
  | none => s
  | some c =>
    match s.net.flits.find? (fun f => f.fits s l c && f.resent == (c.kind == 3)) with
    | none => s
    | some f =>
      let (s, outs) := s.checkDst f (cs.filter fun x => x.kind == c.kind && x.inp == c.inp && x.ckt == c.ckt)
      let copies := outs.filterMap fun x => f.hop s l x t
      if s.noRoom copies then (if f.kept then s else s.keepFlit l f)
      else s.sendFlit l f copies t (f.fifo && decide (f.due < t) && !f.kept)

/-- R46, R221: what a hub unit or an LPDDR5X controller sends enters the crossing FIFO to the bridge. -/
def State.enterFifos (s : State) : State :=
  s.net.outbox.foldl (fun s f =>
    if f.ready ≤ s.time ∧ s.fifoCount f.loc f.inPort < 4 then
      { s with net := { s.net with outbox := dropFirst (· == f) s.net.outbox, flits := s.net.flits ++ [f] } }
    else s) s

/-- A hub unit takes its flits out of the crossing FIFO before it (R221). -/
def State.unitsTake (s : State) : State :=
  { s with net := { s.net with flits := s.net.flits.map fun f => match f.loc with
      | .unit _ => if f.fifo ∧ f.ready ≤ s.time then { f with fifo := false } else f
      | _ => f } }

/-- R262: at the end of a root cycle, an Aelel port takes the oldest waiting flit of the circuit whose egress slot it is: at once where
the bridge has not been stretched, else in a later entry of the same CKT. The port is an end point and checks the flit (R243). -/
def State.egress (s : State) (p : Nat) : State :=
  let r := s.ring.cycle
  match s.net.flits.find? (fun f => f.loc == .aelel p && (s.conns .bridge r).any fun c =>
      c.out == 32 + p && c.ckt == f.ckt && c.kind == (if f.resent then 3 else 1)) with
  | none => s
  | some f =>
    let l := Loc.aelel p
    let s : State := { s with net := { s.net with flits := dropFirst (· == f) s.net.flits } }
    let s := if f.pcyc = r then s else s.noteLate .bridge f.dom
    if f.bad || f.intact then s.sendLink p f else (s.noteE2e l false false f.inPort f.ckt f.seq).nackFlit l f

def State.egressAll (s : State) : State :=
  if s.net.flits.any (fun f => match f.loc with | .aelel _ => true | _ => false) then (List.range 12).foldl State.egress s else s

/-! Transfers at their destination. -/

/-- R231: the transfers of a circuit that have wholly landed, oldest first, up to the first that has not; those that are new among
them are marked and given out. -/
def settleTracks (ckt : Nat) (src : Loc) : List Track → List Track × List Track
  | [] => ([], [])
  | t :: ts =>
    if t.ckt == ckt && t.srcEnd == src && !t.beyond then
      if t.lastSeen && t.out.isEmpty then
        let r := settleTracks ckt src ts
        ({ t with posting := true } :: r.1, if t.posting then r.2 else t :: r.2)
      else (t :: ts, [])
    else let r := settleTracks ckt src ts; (t :: r.1, r.2)

/-- A tracker leaves a stand's node. -/
def State.releaseTrack (s : State) (st id : Nat) : State :=
  s.updNode (.stand st) fun n => { n with tracks := n.tracks.filter (·.id != id) }

/-- R229, R230: a transfer that has wholly landed in this cycle: its DTOK posts when its last write becomes visible, and its tracker
is held until then; without a DTOK it leaves at once. -/
def State.endTrack (s : State) (st : Nat) (t : Track) : State :=
  let due := s.after st (s.standNow st) 4
  let s := s.opStepAt 4 t.op t.suspect
  if t.dtok = 0 then s.releaseTrack st t.id
  else s.updStand st fun x => { x with later := x.later ++ [(due, .dtok t.dtok t.suspect t.id)] }

/-- R229, R230: the first flit of a transfer opens its tracker. -/
def State.openTrack (s : State) (st : Nat) (f : Flit) : State :=
  let n := s.getNode (.stand st)
  let full := decide (16 ≤ (n.tracks.filter (!·.beyond)).length)
  let s := s.updNode (.stand st) fun n =>
    { n with nextTrack := n.nextTrack + 1
             tracks := n.tracks ++ [{ id := n.nextTrack, ckt := f.ckt, srcEnd := f.srcEnd, dtok := f.dtok, op := f.op, beyond := full
                                      suspect := full }] }
  if full then s.raiseFail 0x0304 f.dom (standUnit st 3) (s.standNow st) f.ckt 0 else s

/-- The tracker of a flit: for a resent one that which holds its SEQ outstanding, else the newest of the circuit. -/
def trackOf (ts : List Track) (f : Flit) : Option Track :=
  ts.reverse.find? fun t => t.ckt == f.ckt && t.srcEnd == f.srcEnd && (if f.resent then t.out.contains f.seq else !t.lastSeen)

/-- R229 to R231: a flit seen by its transfer's tracker at stand `st`. `failed`: it failed its check; `sus`: its landing
marks the DTOK. -/
def State.trackFlit (s : State) (st : Nat) (f : Flit) (failed sus : Bool) : State :=
  let l := Loc.stand st
  let s := if f.seq == 0 && !f.resent then s.openTrack st f else s
  match trackOf (s.getNode l).tracks f with
  | none => s
  | some t =>
    let t' := { t with out := if t.beyond then [] else if failed then (if t.out.contains f.seq then t.out else t.out ++ [f.seq]) else t.out.filter (· != f.seq)
                       lastSeen := t.lastSeen || (f.last && !f.resent), suspect := t.suspect || sus || f.suspect
                       op := t.op.or f.op }
    let s := if (t.beyond && failed) || decide (t'.out.length > 4) then s.resendExhausted l f.dom f.ckt f.seq else s
    let put := fun (s : State) (ts : List Track) => s.updNode l fun n => { n with tracks := ts }
    let ts := (s.getNode l).tracks.map fun x => if x.id = t.id then t' else x
    if t.beyond then (if t'.lastSeen then (put s ts).endTrack st t' else put s ts)
    else
      let rel := settleTracks f.ckt f.srcEnd ts
      rel.2.foldl (fun s x => s.endTrack st x) (put s rel.1)

/-- R144: an arrival from outside the stand's tenancy domain is dropped. -/
def State.fenced (s : State) (st src : Nat) : State :=
  let s := s.updStand st fun t => { t with fence := t.fence.add 1 }
  match (s.getStand st).ctx with
  | some d => s.raiseAt 0x0207 d (standUnit st 3) (s.standNow st) src 0
  | none => s

/-- An armed STAND_FL_INJECT that fires on this delivery, while a debug plan runs on the stand (R250). -/
def State.flInjects (s : State) (l : Loc) (pkt : Bool) (ckt : Nat) : Bool :=
  match l with
  | .stand st =>
    let i := (s.getNode l).inject
    i.arm && bit i.w 16 == pkt && (pkt || fld i.w 11 0 == ckt) && s.debugOn st
  | _ => false

def State.disarmFl (s : State) (l : Loc) (hit : Bool) : State :=
  if hit then s.updNode l fun n => { n with inject := { n.inject with arm := false } } else s

/-- Byte enables of a line from those of a flit, one for each 8 bytes (R227). -/
def flitBE (be : Nat) : Nat := ((List.range 64).map fun w => if be.testBit w then 255 * 2 ^ (8 * w) else 0).foldl (· + ·) 0

/-- FLIT_ARRIVAL: the oldest flit on output L of a stand (R142 to R144, R229, R243). `corrupt`: it was damaged on its
way, the environment's word. Bytes that the instruction fills by another flit are not written (R567). -/
def flitArrival (st : Nat) (corrupt : Bool) (s : State) : State :=
  match s.net.flits.find? (·.loc == .stand st) with
  | none => s
  | some f =>
    let l := Loc.stand st
    let s : State := { s with net := { s.net with flits := dropFirst (· == f) s.net.flits } }
    if (s.getStand st).ctx ≠ some f.dom then s.fenced st f.srcEnd.srcCode
    else
      let hit := s.flInjects l false f.ckt
      let s := s.disarmFl l hit
      if f.resent && (trackOf (s.getNode l).tracks f).isNone then s
      else if corrupt || hit || !f.intact then
        ((s.noteE2e l false false f.inPort f.ckt f.seq).trackFlit st f true false).nackFlit l f
      else
        let now := s.standNow st
        let s := s.updNode l fun n => { n with flits := n.flits.add 1 }
        let (s, m) := s.writeLine st portSK (f.doff * 512 : Nat) now true (ofLe f.payload) (flitBE f.be &&& ((2 ^ 512 - 1) ^^^ f.keep))
        (s.raiseMet st (standUnit st 3) m).trackFlit st f false m.bad

/-! Delivered packets (R239, R240). -/

/-- The channel of a packet as its destination tells channels apart (R231). -/
def Packet.chan (p : Packet) : Nat × Loc × List Nat × Nat := (p.srcDev, p.srcEnd, p.route, p.rail)

/-- Whether SEQ `a` of a channel comes before `b`, modulo 256 (R235). -/
def seqBefore (a b : Nat) : Bool := decide (0 < (b + 256 - a % 256) % 256 ∧ (b + 256 - a % 256) % 256 < 128)

/-- The missing SEQs of a packet's channel. -/
def Node.missing (n : Node) (p : Packet) : List Nat := ((n.heldCh.find? (·.1 == p.chan)).map (·.2)).getD []

/-- Whether a packet is held back for an earlier SEQ of its channel. -/
def Node.holds (n : Node) (p : Packet) : Bool := (n.missing p).any fun m => seqBefore m p.seq

/-- Whether a packet kept before it comes first. -/
def Node.behind (n : Node) (p : Packet) : Bool := n.kept.any fun q => q.chan == p.chan && seqBefore q.seq p.seq

/-- R240: whether the reorder store can take a packet of a held channel: it has place for eight, of two channels. -/
def Node.storeOpen (n : Node) (p : Packet) : Bool := decide (n.kept.length < 8) && (n.heldCh.take 2).any fun h => h.1 == p.chan

/-- One more SEQ missing in a channel. -/
def Node.miss (n : Node) (p : Packet) : Node :=
  if n.heldCh.any fun h => h.1 == p.chan then
    { n with heldCh := n.heldCh.map fun h => if h.1 == p.chan then (h.1, if h.2.contains p.seq then h.2 else h.2 ++ [p.seq]) else h }
  else { n with heldCh := n.heldCh ++ [(p.chan, [p.seq])] }

/-- A missing SEQ has come; a channel that misses none is held no longer. -/
def Node.found (n : Node) (p : Packet) : Node :=
  { n with heldCh := (n.heldCh.map fun h => if h.1 == p.chan then (h.1, h.2.filter (· != p.seq)) else h).filter fun h => !h.2.isEmpty }

/-- R243, R240: a packet that is not delivered because it fails its check, or is treated so: its channel waits for it, and a NACK
goes out. A NACK is dropped without reply and its channel goes on without it (R245; DEDUCED, notes/assumptions/14.md). -/
def State.failPacket (s : State) (l : Loc) (p : Packet) (check : Bool) : State :=
  let s := if check then s.noteE2e l false true p.inPort 0 p.seq else s
  match p.payload with
  | .nack .. => s
  | _ => (s.updNode l fun n => n.miss p).nack l p.dom (.nack true 0 p.route p.rail p.seq)

/-- A packet delivered: STAND_FL_PKTS, and its channel goes on. -/
def State.deliver (s : State) (l : Loc) (p : Packet) : State × Option Packet :=
  (s.updNode l fun n => { n.found p with pkts := n.pkts.add 1, kept := dropFirst (· == p) n.kept }, some p)

/-- Whether a packet is delivered at a place: it is an end point, not a node or switch on the way. -/
def Loc.delivers : Loc → Bool
  | .stand _ | .unit _ | .ctrl _ | .aelel _ => true
  | .node _ | .bridge | .edge _ => false

/-- R240: the oldest delivered packet of a kind at an end point, in the order of its channel. It is refused by its check, held for an
earlier one of its channel, dropped by the fence of a stand, or given out. -/
def State.takePacket (s : State) (l : Loc) (corrupt : Bool) (want : Payload → Bool) : State × Option Packet :=
  let n := s.getNode l
  match n.kept.find? (fun p => want p.payload && !n.holds p && !n.behind p) with
  | some p => s.deliver l p
  | none =>
    match s.net.pkts.find? (fun p => p.loc == l && l.delivers && decide (p.ready ≤ s.time) && want p.payload) with
    | none => (s, none)
    | some p =>
      if (s.net.pkts.takeWhile (· != p)).any (fun q => q.loc == l && q.chan == p.chan) then (s, none)
      else
        let hit := s.flInjects l true 0
        let drop := fun (s : State) => (s.dropPacket p).disarmFl l hit
        let fence := match l with
          | .stand st => decide ((s.getStand st).ctx ≠ some p.dom)
          | _ => false
        if fence then
          (match l with | .stand st => (s.dropPacket p).fenced st p.srcEnd.srcCode | _ => s, none)
        else if corrupt || hit || !p.intact then ((drop s).failPacket l p true, none)
        else if n.holds p then
          if n.storeOpen p then ((drop s).updNode l fun n => { n with kept := n.kept ++ [p] }, none)
          else ((drop s).failPacket l p false, none)
        else if n.behind p then (s, none)
        else (drop s).deliver l p

/-- R198, R417: a token post to counter `i` of the Grader of domain `d`. -/
def State.postGr (s : State) (d i k : Nat) (sus : Bool) : State :=
  if i = 0 ∨ i > 16 then s
  else
    let g := tget ({} : GrLd) s.hub.gr d
    { s with hub := { s.hub with gr := tput s.hub.gr d { g with tok := tput g.tok i ((tget {} g.tok i).post s.time k sus) } } }

/-- TOKEN (R196, R239), at a stand or at hub unit 1, the Grader (R417). -/
def tokenArrives (l : Loc) (corrupt : Bool) (s : State) : State :=
  let (s, p) := s.takePacket l corrupt fun | .token .. => true | _ => false
  match p with
  | some p => match p.payload, l with
    | .token credit ctr amt sus, .stand st => if credit then s.postCred st ctr amt else s.postTok st ctr amt sus
    | .token false ctr amt sus, .unit 46 => s.postGr p.dom ctr amt sus
    | _, _ => s
  | none => s

/-- ATOMIC (R139, R140): applied through SK, and the old value sent back 4 cycles later. -/
def atomicArrives (st : Nat) (corrupt : Bool) (s : State) : State :=
  let (s, p) := s.takePacket (.stand st) corrupt fun | .atomic .. => true | _ => false
  match p with
  | some p => match p.payload with
    | .atomic op off operand tag =>
      let (s, old, m) := s.atomic st op off operand (s.standNow st) true
      (s.raiseMet st (standUnit st 3) m).replyTo 4 (.stand st) p (.atomReply old m.bad tag)
    | _ => s
  | none => s

/-- ATOM_REPLY (R140, R216, R239): the old value, sign-extended from the width of its operation, to the requester's RET element. -/
def atomReplyArrives (st : Nat) (corrupt : Bool) (s : State) : State :=
  let (s, p) := s.takePacket (.stand st) corrupt fun | .atomReply .. => true | _ => false
  match p.map Packet.payload with
  | some (.atomReply old sus tag) =>
    match tag.ret with
    | none => s.opStep (some (tag.st, tag.op)) sus
    | some (off, k) =>
      let o := (off % 512).toNat
      let v := wrapInt (8 * k) (sext (8 * tag.width) old)
      let (s, m) := s.writeLine st portSK off (s.standNow st) true (v * 2 ^ (8 * o)) ((2 ^ k - 1) * 2 ^ o)
      (s.raiseMet st (standUnit st 3) m).opStepAt 4 (some (tag.st, tag.op)) (sus || m.bad)
  | _ => s

/-- Whether a connection is a resend entry for an item at its source: of the flit's CKT, or, with CKT 0, for packets (R244). -/
def resendFor (l : Loc) (inp : Nat) (it : Sent) (c : Conn) : Bool :=
  c.kind == 3 && c.inp == inp && match it with
    | .flit f => c.ckt == f.ckt
    | .pkt p => c.ckt == 0 && (({ p with loc := l, ptr := 0, ret := [] } : Packet).next.map (·.1)) == some c.out

/-- Whether an item is read again before its resend (R226). -/
def Sent.rereads : Sent → Bool
  | .flit f => f.src != []
  | .pkt _ => false

/-- Whether a resend entry for the item remains at its source in this ring (R245): a flit of a stand is first read again, 4 cycles
before it (R226). -/
def State.resendEntryLeft (s : State) (src : Loc) (it : Sent) : Bool :=
  let (l, inp) := src.injectAt
  let t := s.locNow l
  let from_ := match src with
    | .node st | .stand st => if it.rereads then s.after st t 4 else t + 1
    | _ => t + 1
  (List.range (min 4096 (s.L - from_))).any fun i => (s.conns l (from_ + i)).any (resendFor l inp it)

/-- The logged item a NACK names. -/
def LogEnt.named (e : LogEnt) (packet : Bool) (ckt : Nat) (route : List Nat) (rail seq : Nat) : Bool :=
  match e.item with
  | .flit f => !packet && f.ckt == ckt && f.seq == seq
  | .pkt p => packet && p.route == route && p.rail == rail && p.seq == seq

/-- A flit's payload read again through SK from its source lines. -/
def State.reread (s : State) (st : Nat) (f : Flit) : State × Flit :=
  let r := (distinctLines (f.src.map (·.2))).foldl (fun (r : State × LineTab) l =>
    let (s, v, m) := r.1.readLine st portSK (l * 512) (s.standNow st)
    (s.raiseMet st (standUnit st 2) m, if l < 0 then r.2 else tput r.2 l.toNat v)) (s, [])
  (r.1, { f with payload := f.src.foldl (fun (bs : List Byte) p => bs.set p.1 (BitVec.ofNat 8 (r.2.byte p.2))) f.payload })

/-- R226, R244: in the cycle reserved four before a resend entry, the flit that will take it is read again. -/
def State.rereadNow (s : State) (st : Nat) : State :=
  let n := s.getNode (.node st)
  if n.resends = [] then s
  else
    let t4 := s.after st (s.standNow st) 4
    if t4 ≥ s.L then s
    else match n.resends.find? (fun r => !r.2 && (s.conns (.node st) t4).any (resendFor (.node st) 4 r.1.item)) with
      | none => s
      | some (e, _) =>
        match e.item with
        | .flit f =>
          let (s, g) := s.reread st f
          s.updNode (.node st) fun n => { n with resends := n.resends.map fun r => if r.1 = e then ({ e with item := .flit g }, true) else r }
        | .pkt _ => s

/-- NACK at a source (R244, R245). -/
def nackArrives (l : Loc) (corrupt : Bool) (s : State) : State :=
  let (s, p) := s.takePacket l corrupt fun | .nack .. => true | _ => false
  match p with
  | none => s
  | some p => match p.payload with
    | .nack packet ckt route rail seq =>
      let s := s.noteE2e l true packet p.inPort ckt seq
      let fail := fun (s : State) => s.resendExhausted l p.dom (chanItem packet ckt route rail) seq
      match (s.getNode l).log.reverse.find? (·.named packet ckt route rail seq) with
      | none => fail s
      | some e =>
        let fifth := !packet && decide (4 ≤ ((s.getNode l).resends.filter fun r => r.1.xfer == e.xfer && !r.1.item.isPkt).length)
        if s.time > e.time + (s.getCtx p.dom).resendW || !s.resendEntryLeft l e.item || fifth then fail s
        else
          let s := s.updNode l fun n => { n with resends := n.resends ++ [(e, !e.item.rereads)] }
          match l with | .stand st | .node st => s.rereadNow st | _ => s
    | _ => s

/-- STAND_FL_RESENT, and the step's count of resends. -/
def State.countResend (s : State) (src : Loc) (d : Nat) : State :=
  (s.updNode src fun n => { n with resent := n.resent.add 1 }).updAcc d fun a => { a with resends := satAt 32 (a.resends + 1) }

/-- A pending item is sent again by a resend entry `c` of its source: a flit on every output of its circuit, where the crossings have
room (R241, R244); a packet where the next buffer has. -/
def State.resendItem (s : State) (src l : Loc) (inp t : Nat) (cs : List Conn) (c : Conn) (e : LogEnt) (b : Bool) : State :=
  let done := fun (s : State) => s.updNode src fun n => { n with resends := dropFirst (· == (e, b)) n.resends }
  match e.item with
  | .flit f =>
    let g : Flit := { f with resent := true, loc := l, inPort := inp, op := none }
    let copies := (cs.filter fun x => x.kind == 3 && x.inp == c.inp && x.ckt == c.ckt).filterMap fun x => g.hop s l x t
    if s.noRoom copies then
      (if f.kept then s
       else (s.updNode src fun n => { n with resends := n.resends.map fun r => if r = (e, b) then ({ e with item := .flit { f with kept := true } }, b) else r }).noteLate l f.dom)
    else
      ((((done s).placeFlits copies).countFlit l f.dom).countResend src f.dom).logSent src (.flit (copies.headD g))
  | .pkt p =>
    let q : Packet := { p with loc := l, inPort := inp, op := none, resent := true }
    match nextHop l c.out t with
    | some (l', inp', _, _) =>
      if !s.pktRoom l' inp' q.reply then s
      else
        let s := (done s).countResend src p.dom
        ({ s with net := { s.net with pkts := s.net.pkts ++ [q] } } : State).sendPacket l q c t
    | none => s

/-- FLUME_RESEND: the resend entry of the present local count at a source sends a NACKed item again (R244). -/
def flumeResend (src : Loc) (out : Nat) (s : State) : State :=
  let (l, inp) := src.injectAt
  let t := s.locNow l
  let cs := if (s.getCmp l.cmp).keptNow then s.conns l t else []
  match cs.find? (fun c => c.out == out && c.kind == 3 && c.inp == inp) with
  | none => s
  | some c =>
    match (s.getNode src).resends.find? (fun r => r.2 && resendFor l inp r.1.item c) with
    | none => s
    | some (e, b) => s.resendItem src l inp t cs c e b

def execFlitForward (l : Loc) (out : Nat) (parity : Bool) (s : State) : Host.Outcome State Fault Refusal :=
  .next (flitForward l out parity s)
def execFlitArrival (st : Nat) (corrupt : Bool) (s : State) : Host.Outcome State Fault Refusal := .next (flitArrival st corrupt s)
def execPacketForward (l : Loc) (out : Nat) (s : State) : Host.Outcome State Fault Refusal := .next (packetForward l out s)
def execToken (l : Loc) (corrupt : Bool) (s : State) : Host.Outcome State Fault Refusal := .next (tokenArrives l corrupt s)
def execAtomic (st : Nat) (corrupt : Bool) (s : State) : Host.Outcome State Fault Refusal := .next (atomicArrives st corrupt s)
def execAtomReply (st : Nat) (corrupt : Bool) (s : State) : Host.Outcome State Fault Refusal := .next (atomReplyArrives st corrupt s)
def execNack (l : Loc) (corrupt : Bool) (s : State) : Host.Outcome State Fault Refusal := .next (nackArrives l corrupt s)
def execFlumeResend (l : Loc) (out : Nat) (s : State) : Host.Outcome State Fault Refusal := .next (flumeResend l out s)

end Sys2Proof.Machine
end

