-- ==== Sys2Proof/Machine/CutList.lean ====
section
/-! DEFINITION. The operations every stream has (R189, R204 to R208, R213) and those of the Flume gate (R217). -/

namespace Sys2Proof.Machine

/-! Sections and loops. -/

/-- R189, R190: the stream has reached the CL_RING at its slot; the next ring continues with the same section until it has
run REPEAT rings, then with the next. -/
def Stream.reachEnd (q : Stream) (repeat_ : Nat) : Stream :=
  let again := q.sectRing + 1 < repeat_
  { q with ended := true, nextSect := if again then q.sect else q.pc + 1
           nextSectRing := if again then q.sectRing + 1 else 0 }

/-- CL_RING. -/
def execClRing (st k repeat_ : Nat) (s : State) : Host.Outcome State Fault Refusal :=
  s.sequence st k (.clRing st k repeat_) fun s => s.updStand st fun t => t.updStream k (·.reachEnd repeat_)

/-- OPCODE of the instruction held in a slot (R192). -/
def Stand.opcodeAt (t : Stand) (slot : Nat) : Nat := fld (tget 0 t.cuts slot) 107 102

/-- The slot after the LOOP_END that matches a LOOP, from `slot` on with `depth` loops open in between. -/
def Stand.skipLoop (t : Stand) : Nat → Nat → Nat → Nat
  | 0, _, slot => slot
  | n + 1, depth, slot =>
    if t.opcodeAt slot = 0x33 then (if depth = 0 then slot + 1 else t.skipLoop n (depth - 1) (slot + 1))
    else t.skipLoop n (if t.opcodeAt slot = 0x32 then depth + 1 else depth) (slot + 1)

/-- R208: the trip count of a LOOP; C is the plan's stands in use in each row (R67). -/
def tripCount (src : Bool) (sh count c : Nat) : Nat := if src then c * count / 2 ^ sh else count

def Stand.openLoop (t : Stand) (k trips stampStep : Nat) : Stand :=
  let q := t.getStream k
  if trips = 0 then t.updStream k fun q => { q with pc := t.skipLoop q.len 0 (q.pc + 1) }
  else t.updStream k fun _ => { q with pc := q.pc + 1, loops := ⟨q.pc + 1, trips, 0, stampStep⟩ :: q.loops }

/-- LOOP (R208). -/
def execLoop (st k : Nat) (src : Bool) (sh count stampStep : Nat) (s : State) : Host.Outcome State Fault Refusal :=
  let c := match (s.getStand st).ctx with | some d => (s.getCtx d).stands | none => 0
  s.sequence st k (.loop st k src sh count stampStep) fun s => s.updStand st fun t => t.openLoop k (tripCount src sh count c) stampStep

/-- R208: the end of a body: the next trip, or the slot after. -/
def Stream.endTrip (q : Stream) : Stream :=
  match q.loops with
  | [] => { q with pc := q.pc + 1 }
  | f :: fs =>
    if f.trip + 1 < f.trips then { q with pc := f.body, loops := { f with trip := f.trip + 1 } :: fs }
    else { q with pc := q.pc + 1, loops := fs }

/-- LOOP_END (R208). -/
def execLoopEnd (st k : Nat) (s : State) : Host.Outcome State Fault Refusal :=
  s.sequence st k (.loopEnd st k) fun s => s.updStand st fun t => t.updStream k (·.endTrip)

/-! NOP and the address operations. -/

def nopEffect (st k : Nat) (h : Hdr) (s : State) : State :=
  let tokT := s.tokTaint st h none
  let now := s.standNow st
  ((s.beginIssue st k h none 0).addOp st k h (s.after st now 1) tokT .plain).noteTaint st k (if tokT then h.wt else 0) tokT

/-- NOP (R213): waits and posts only. -/
def execNop (st k : Nat) (h : Hdr) (s : State) : Host.Outcome State Fault Refusal :=
  s.issue st k (.nop st k h) (nopEffect st k h)

def Stand.getAr (t : Stand) (r : Nat) : Nat := tget 0 t.ar r

/-- R205: an address operation writes its register in its issue cycle. -/
def arEffect (st k stamp rd : Nat) (v : Stand → Nat) (s : State) : State :=
  (s.beginIssue st k { stamp := stamp } none 0).updStand st fun t => { t with ar := tput t.ar rd (v t % 2 ^ 64) }

/-- A `w`-bit immediate sign-extended to 64 bits. -/
def immSext (w imm : Nat) : Nat := wrapInt 64 (sext w imm)

def execArSet (st k stamp rd imm : Nat) (s : State) : Host.Outcome State Fault Refusal :=
  s.issue st k (.arSet st k stamp rd imm) (arEffect st k stamp rd (fun _ => immSext 48 imm))
def execArAddi (st k stamp rd ra imm : Nat) (s : State) : Host.Outcome State Fault Refusal :=
  s.issue st k (.arAddi st k stamp rd ra imm) (arEffect st k stamp rd (fun t => t.getAr ra + immSext 48 imm))
def execArAdd (st k stamp rd ra rb : Nat) (s : State) : Host.Outcome State Fault Refusal :=
  s.issue st k (.arAdd st k stamp rd ra rb) (arEffect st k stamp rd (fun t => t.getAr ra + t.getAr rb))
def execArShl (st k stamp rd ra sh : Nat) (s : State) : Host.Outcome State Fault Refusal :=
  s.issue st k (.arShl st k stamp rd ra sh) (arEffect st k stamp rd (fun t => t.getAr ra * 2 ^ sh))
def execArShr (st k stamp rd ra sh : Nat) (s : State) : Host.Outcome State Fault Refusal :=
  s.issue st k (.arShr st k stamp rd ra sh) (arEffect st k stamp rd (fun t => wrapInt 64 (sext 64 (t.getAr ra) / (2 ^ sh : Nat))))
def execArMuli (st k stamp rd ra imm : Nat) (s : State) : Host.Outcome State Fault Refusal :=
  s.issue st k (.arMuli st k stamp rd ra imm) (arEffect st k stamp rd (fun t => t.getAr ra * immSext 32 imm))

/-- AR_BND: MODE 0 wraps, MODE 1 clamps, compared unsigned. -/
def bound (clamp : Bool) (a b : Nat) : Nat := if clamp then min a b else if b ≤ a then a - b else a

def execArBnd (st k stamp rd ra : Nat) (clamp : Bool) (b : Nat) (s : State) : Host.Outcome State Fault Refusal :=
  s.issue st k (.arBnd st k stamp rd ra clamp b) (arEffect st k stamp rd (fun t => bound clamp (t.getAr ra) b))

/-- R206: the plan constants. -/
def State.planConst (s : State) (st sel : Nat) : Nat :=
  let c : PlanCtx := match (s.getStand st).ctx with | some d => s.getCtx d | none => {}
  let col := st % 32
  match sel with
  | 0 => c.stands
  | 1 => st
  | 2 => st / 32
  | 3 => col
  | 4 => if col < 16 then col else col - 16 + c.stands / 2
  | 5 => c.ringInStep
  | 6 => c.step
  | _ => s.logicalId (((s.getStand st).ctx).getD 0)

/-- AR_CONST; SEL 8 to 255 are reserved (R206), and LOAD refuses a plan that names one (R193). -/
def execArConst (st k stamp rd sel : Nat) (s : State) : Host.Outcome State Fault Refusal :=
  if sel ≥ 8 then .refused (.reserved "AR_CONST SEL") else s.issue st k (.arConst st k stamp rd sel) (arEffect st k stamp rd fun _ => s.planConst st sel)

/-! The Flume gate. -/

/-- ROUTE of an instruction: an entry of the stand's route table (R235). -/
def State.routeOf (s : State) (st i : Nat) : Nat := tget 0 (s.getNode (.node st)).routes i

def fgPostEffect (st : Nat) (h : Hdr) (credit : Bool) (ctr amt route : Nat) (s : State) : State :=
  let tokT := s.tokTaint st h none
  let id := (s.getStand st).nextOp
  let e := s.routeOf st route
  let dom := ((s.getStand st).ctx).getD 0
  let s := (s.beginIssue st 3 h none 1).addOp st 3 h 0 tokT (.packet id)
  (s.sendBy 0 (.node st) e dom (.token credit ctr amt tokT) (some (st, id)) none).noteTaint st 3 (if tokT then h.wt else 0) tokT

/-- FG_POST (R196, R203, R217). `amt` is 1 to 4,096. -/
def execFgPost (st : Nat) (h : Hdr) (credit : Bool) (ctr amt route : Nat) (s : State) : Host.Outcome State Fault Refusal :=
  s.issue st 3 (.fgPost st h credit ctr amt route) (fgPostEffect st h credit ctr amt route)

def fgNotchEffect (st : Nat) (h : Hdr) (op notch ret route value : Nat) (s : State) : State :=
  let tokT := s.tokTaint st h none
  let t := s.getStand st
  let id := t.nextOp
  let e := s.routeOf st route
  let dom := (t.ctx).getD 0
  let rd := t.getDesc ret
  let tag : Tag := { st := st, op := id, ret := if op = 2 then some (rd.elemBit 0 [0, 0, 0, 0, 0] 0 / 8, rd.bits / 8) else none }
  let s := (s.beginIssue st 3 h none 1).addOp st 3 h 0 tokT (.await 1)
  let s := s.updStand st fun t => { t with waits := t.waits + (if op = 3 then 1 else 0) }
  (s.sendBy 0 (.node st) e dom (.notch op notch value tag) none (some (st, id))).noteTaint st 3 (if tokT then h.wt else 0) tokT

/-- FG_NOTCH (R203, R217): at most 16 WAIT_GE of a stand are outstanding. -/
def execFgNotch (st : Nat) (h : Hdr) (op notch ret route value : Nat) (s : State) : Host.Outcome State Fault Refusal :=
  s.issue st 3 (.fgNotch st h op notch ret route value) (fgNotchEffect st h op notch ret route value)

end Sys2Proof.Machine
end

