-- ==== Sys2Proof/Machine/EdFun.lean ====
section
/-! DEFINITION. What the Edger's operations compute (R97 to R99, R108 to R114): functions of source values alone. -/

namespace Sys2Proof.Machine

/-- Lane modes (R565). -/
inductive LaneMode where
  | int32 | half | fp32
  deriving DecidableEq, Repr

/-- Operations that may run in INT32 and in 16-bit mode. -/
def EdKind.intOk : EdKind → Bool
  | .add | .mul | .min | .max | .cmp | .csel | .cvt => true | _ => false
def EdKind.halfOk : EdKind → Bool
  | .fma | .qmx => true | k => k.intOk

/-- The table functions, with ED_EXPD, which ends in one (R116, R121). -/
def EdKind.isTable : EdKind → Bool
  | .exp2 | .log2 | .rcp | .rsq | .tanh | .expd => true | _ => false

def EdKind.isReduction : EdKind → Bool
  | .rsum | .rssq | .rmax | .rmin | .rcomb => true | _ => false

/-- R565: the lane mode, from the formats of the source streams named, whether each is scaled, and the destination's. -/
def laneMode (k : EdKind) (srcs : List (Nat × Bool)) (dst : Nat) : LaneMode :=
  if k.intOk && srcs.all (fun p => p.1 == 9 || (p.1 == 5 && !p.2)) then .int32
  else if k.halfOk && (dst :: srcs.map (·.1)).all (fun f => decide (fmtBits f ≤ 16)) then .half
  else .fp32

def LaneMode.lanes : LaneMode → Nat
  | .half => 128 | _ => 64

/-- R104, R565: the immediate as a value in the lane format. -/
def immFV (m : LaneMode) (bf16 : Bool) (imm : Nat) : FV :=
  match m with
  | .int32 => intFV (sext 32 imm)
  | .fp32 => fmtFP32.decode imm
  | .half => let f := if bf16 then fmtBF16 else fmtFP16; f.decode (f.round false (fmtFP32.decode imm)).code

/-- R108: order of ED_MIN and ED_MAX: −0 below +0. -/
def FV.below (a b : FV) : Bool := a.lt b || (a.isZero && b.isZero && a.isNeg && !b.isNeg)
def FV.min2 (a b : FV) : FV := if a.isNan || b.isNan then .nan else if b.below a then b else a
def FV.max2 (a b : FV) : FV := if a.isNan || b.isNan then .nan else if a.below b then b else a

/-- R108: ED_CMP with cond 0 EQ, 1 NE, 2 LT, 3 LE. -/
def edCmp (cond : Nat) (a b : FV) : Bool :=
  match cond with
  | 0 => a.eq b
  | 1 => !(a.eq b)
  | 2 => a.lt b
  | _ => a.lt b || a.eq b

/-- A value rounded to FP32 and read back. -/
def toF32 (v : FV) : FV := fmtFP32.decode (fmtFP32.round false v).code

/-- R108: ED_EXPD. An argument that overflows to +Inf from finite sources makes a finite overflow, as A ≥ 128 does (R99: a
result is non-finite where a source is, or where the mathematical value is infinite). -/
def edExpd (a b imm : FV) : TF :=
  let arg := toF32 ((toF32 (a.add b.neg)).mul imm)
  if arg = .inf false ∧ a.isFinite ∧ b.isFinite ∧ imm.isFinite then .big else tfExp2 arg

/-- R108: the result of an elementwise operation on its sources; `fn` is FN, `imm` the instruction's immediate as FP32. -/
def edResult (k : EdKind) (fn : Nat) (imm : FV) (a b c : FV) : TF :=
  match k with
  | .fma => .val ((a.mul b).add c)
  | .add => .val (a.add b)
  | .mul => .val (a.mul b)
  | .min => .val (a.min2 b)
  | .max => .val (a.max2 b)
  | .cmp => .val (if edCmp fn a b then .num 1 0 else .zero false)
  | .csel => .val (if a.isZero then c else b)
  | .exp2 => tfExp2 a
  | .log2 => tfLog2 a
  | .rcp => tfRcp a
  | .rsq => tfRsq a
  | .tanh => tfTanh a
  | .expd => edExpd a b imm
  | _ => .val a

/-- R565: an INT32-mode result saturated to INT32, and whether it was. -/
def satInt32 : FV → FV × Bool
  | v => let r := roundIntW 32 v; (intFV (sext 32 r.code), r.ovf)

/-- One result as written: its code, whether it was a finite overflow, and whether its exact value is non-finite (R99). -/
structure EdElem where
  code : Nat
  ovf : Bool := false
  nonfin : Bool := false
  deriving DecidableEq, Repr

/-- R99: a result is non-finite where a source is, or where the mathematical value is infinite or undefined. -/
def TF.nonfinite (r : TF) (srcs : List FV) : Bool :=
  srcs.any (fun v => !v.isFinite) || (match r with | .val v => !v.isFinite | _ => false)

/-- The code of a result in an unscaled destination, and whether it overflowed (R99). A table function is formed in FP32 first. -/
def edCode (k : EdKind) (m : LaneMode) (dst : Nat) (sat : Bool) (r : TF) : Nat × Bool :=
  if k.isTable then
    let r1 := r.round fmtFP32 sat
    if dst = 0 then (r1.code, r1.ovf)
    else let r2 := roundElem dst sat (fmtFP32.decode r1.code); (r2.code, r1.ovf || r2.ovf)
  else
    let v := match r with | .val v => v | r => fmtFP32.decode (r.round fmtFP32 sat).code
    if m = .int32 then
      let q := satInt32 v
      let r2 := roundElem dst sat q.1
      (r2.code, q.2 || r2.ovf)
    else let r2 := roundElem dst sat v; (r2.code, r2.ovf)

/-- R99: one result in an unscaled destination. -/
def edRound (k : EdKind) (m : LaneMode) (dst : Nat) (sat : Bool) (r : TF) (srcs : List FV) : EdElem :=
  let c := edCode k m dst sat r
  let n := r.nonfinite srcs
  { code := c.1, ovf := c.2 && !n, nonfin := n }

/-- The value of a result for an MX destination (R113): exact, or as formed in FP32 for a table function. -/
def edMxValue (m : LaneMode) (r : TF) : FV :=
  match r with
  | .val v => if m = .int32 then (satInt32 v).1 else v
  | r => fmtFP32.decode (r.round fmtFP32 false).code

/-- R109, R116: whether a source makes a table function's result one of its special values, which have no interval check. -/
def EdKind.special (k : EdKind) (a b imm : FV) : Bool :=
  let neg := fun (v : FV) => v.isNeg && !v.isZero
  match k with
  | .exp2 => a.isNan || !a.isFinite || !(a.lt (.num 1 7))
  | .expd => let x := toF32 ((toF32 (a.add b.neg)).mul imm); x.isNan || !x.isFinite || !(x.lt (.num 1 7))
  | .log2 => a.isNan || a.isZero || neg a || !a.isFinite || a.eq (.num 1 0)
  | .rcp | .tanh => a.isNan || a.isZero || !a.isFinite
  | .rsq => a.isNan || a.isZero || neg a || !a.isFinite
  | _ => false

/-! Reductions (R111, R112). -/

/-- One sum of the tree, rounded to FP32. -/
def f32Add (a b : FV) : FV := toF32 (a.add b)

/-- Elements 2i and 2i + 1 added for every i. -/
def pairSums : List FV → List FV
  | a :: b :: r => f32Add a b :: pairSums r
  | r => r

/-- `n` levels of the tree. -/
def treeSum : Nat → List FV → List FV
  | 0, l => l
  | n + 1, l => treeSum n (pairSums l)

/-- R111: the fixed tree over `xs` padded with +0 to 2^k elements. A level of padding alone adds +0 to +0, so only the
elements up to the next even length are carried. -/
def padTree (k : Nat) (xs : List FV) : FV :=
  (treeSum k (xs ++ List.replicate (2 ^ k - xs.length) (.zero false))).headD (.zero false)

/-- R111: ED_RSUM of one group. P is the larger of 1,024 and the least power of two at least G. -/
def rsumGroup (xs : List FV) : FV := padTree (max 10 (clog2 xs.length)) xs
def rssqGroup (xs : List FV) : FV := rsumGroup (xs.map fun x => toF32 (x.mul x))
def rmaxGroup : List FV → FV
  | [] => .zero false
  | x :: xs => xs.foldl FV.max2 x
def rminGroup : List FV → FV
  | [] => .zero false
  | x :: xs => xs.foldl FV.min2 x

/-- R112: TREE over index with P the least power of two at least n; SEQ in ascending index. -/
def rcomb (seq : Bool) : List FV → FV
  | [] => .zero false
  | x :: xs => if seq then xs.foldl f32Add x else padTree (clog2 (xs.length + 1)) (x :: xs)

/-! Top-k (R114). -/

/-- R114: whether (value, index) `a` ranks before `b`: larger value first, NaN below −Inf, then the lower index. -/
def ranksBefore (a b : FV × Nat) : Bool :=
  if a.1.isNan then b.1.isNan && decide (a.2 < b.2)
  else if b.1.isNan then true
  else if b.1.lt a.1 then true else if a.1.lt b.1 then false else decide (a.2 < b.2)

/-- Insertion of an entry into a list kept in rank order. -/
def rankInsert (x : FV × Nat) : List (FV × Nat) → List (FV × Nat)
  | [] => [x]
  | y :: ys => if ranksBefore x y then x :: y :: ys else y :: rankInsert x ys

/-- The `k` best of a group, best first. -/
def topK (k : Nat) (xs : List FV) : List (FV × Nat) :=
  (xs.zip (List.range xs.length)).foldl (fun acc x => (rankInsert x acc).take k) []

/-- Groups of `g` elements. -/
def groupsOf (g : Nat) : Nat → List FV → List (List FV)
  | 0, _ => []
  | n + 1, xs => if xs = [] then [] else xs.take g :: groupsOf g n (xs.drop g)

/-- R119: Lop. `p` is P of R111 or R112, `k` that of ED_TOPKF. -/
def edLop (kind : EdKind) (p k : Nat) : Nat :=
  match kind with
  | .exp2 | .log2 | .rcp | .rsq => 12
  | .tanh => 16
  | .expd => 18
  | .qmx => 10
  | .rsum | .rssq | .rmax | .rmin => 10 + 4 * clog2 (p / 64)
  | .rcomb => 10 + 4 * clog2 p
  | .topkf => 24 + cdiv k 64
  | _ => 6

end Sys2Proof.Machine
end

