-- ==== Sys2Proof/Machine/Headrig.lean ====
section
/-! DEFINITION. The Headrig (chapter 03): tile loads, passes, exact adds, drains and the check lane. -/

namespace Sys2Proof.Machine

/-! Weight buffers (R90, R171). -/

/-- A bit field of a tile image. -/
def imageBits (img : List Byte) (bitAddr w : Nat) : Nat :=
  num img (bitAddr / 8) ((bitAddr % 8 + w + 7) / 8) / 2 ^ (bitAddr % 8) % 2 ^ w

/-- Weight of row `k`, column `n` of a buffer, scale applied (R73, R171); an empty buffer holds zeros (R78). -/
def WBuf.weight (b : WBuf) (k n : Nat) : FV :=
  let w := fmtBits b.fmt
  let v := decodeElem b.fmt (imageBits b.bytes ((k * 64 + n) * w) w)
  if b.scaled then v.mul (e8m0FV (num b.bytes (512 * tileElemLines b.fmt + 64 * (k / 32) + n) 1)) else v

/-- A check entry (R84): C(k) = sig × 2^exp, and its flags. -/
structure ChkEntry where
  sig : Int
  exp : Int
  flags : Nat
  deriving DecidableEq, Repr

/-- The check entry of row `k`; that of an all-zero row in an empty buffer (R78). -/
def WBuf.check (b : WBuf) (k : Nat) : ChkEntry :=
  if b.bytes = [] then ⟨0, 0, 8⟩
  else
    let base := 512 * (tileElemLines b.fmt + tileScaleLines b.scaled)
    if b.chkForm = 2 then
      let v := num b.bytes (base + 40 * k) 40
      ⟨sext 296 (v / 2 ^ 24), sext 16 (v / 2 ^ 8), v % 64⟩
    else
      let v := num b.bytes (base + 16 * k) 16
      ⟨sext 104 (v / 2 ^ 24), sext 16 (v / 2 ^ 8), v % 64⟩

/-- R85: the flags of a check product of activation `a` with an entry of the given flags. -/
def chkFlags (a : FV) (f : Nat) : Nat :=
  let nan := bit f 0; let pinf := bit f 1; let ninf := bit f 2
  let zero := bit f 3; let pos := bit f 4; let neg := bit f 5
  match a with
  | .nan => 1
  | .inf s =>
    flag (nan || zero) 0 + flag (if s then neg || ninf else pos || pinf) 1 + flag (if s then pos || pinf else neg || ninf) 2
  | .zero _ => flag (nan || pinf || ninf) 0
  | .num m _ => flag nan 0 + flag (if m < 0 then ninf else pinf) 1 + flag (if m < 0 then pinf else ninf) 2

/-- R85: the check product on the accumulator grid: bits below 2^-300 discarded, toward −∞. -/
def chkProduct (a : FV) (c : ChkEntry) : Int :=
  match a with
  | .num m e => toFixed (mkNum (m * c.sig) (e + c.exp))
  | _ => 0

/-! Accumulator rows. -/

/-- A row whose contents are undefined (R78): free values named by the stand's seed. -/
def freeRow (seed row : Nat) : AccRow :=
  { cols := (List.range 64).map fun c => (Config.freeAcc seed row c).toInt
    flags := (List.range 64).map fun c => (Config.freeAccFlags seed row c).toNat
    chk := (Config.freeAcc seed row 64).toInt
    chkFlags := (Config.freeAccFlags seed row 64).toNat }

/-- Versions of a row, newest first. -/
def Stand.rowVersions (t : Stand) (r : Nat) : List AccRow :=
  match tfind? t.acc r with
  | some vs => vs
  | none => [freeRow t.accSeed r]

/-- The row as its latest write left it. -/
def Stand.row (t : Stand) (r : Nat) : AccRow := (t.rowVersions r).headD (freeRow t.accSeed r)

/-- The row as a read in local cycle `c` finds it: writes of earlier cycles only (R91). -/
def Stand.rowAt (t : Stand) (r c : Nat) : AccRow :=
  ((t.rowVersions r).find? fun v => decide (v.lastWrite < c)).getD (t.row r)

def Stand.putRow (t : Stand) (r : Nat) (v : AccRow) : Stand := { t with acc := tput t.acc r (v :: t.rowVersions r) }

def zeroRow : AccRow := { cols := List.replicate 64 0, flags := List.replicate 64 0, chk := 0, chkFlags := 0 }

/-- R78, R201: a contribution written into a row in local cycle `cyc`: in place of the old value with INIT, added
otherwise; the SUSPECT bit is set by a marking write, cleared by INIT of one that does not mark. -/
def AccRow.write (old contrib : AccRow) (init sus : Bool) (cyc : Nat) : AccRow :=
  let b := if init then zeroRow else old
  { cols := b.cols.zipWith (fun x y => wrap640 (x + y)) contrib.cols
    flags := b.flags.zipWith (fun x y => x ||| y) contrib.flags
    chk := wrap640 (b.chk + contrib.chk)
    chkFlags := b.chkFlags ||| contrib.chkFlags
    suspect := sus || (b.suspect && !init)
    lastWrite := cyc }

/-- R70, R73, R77, R85: the contribution of one activation row against a buffer. -/
def passRow (b : WBuf) (acts : List FV) : AccRow :=
  let ks := (List.range acts.length).zip acts
  let col := fun n => ks.map fun p => p.2.mul (b.weight p.1 n)
  let chks := ks.map fun p => (p.2, b.check p.1)
  { cols := (List.range 64).map fun n => ((col n).map toFixed).foldl (· + ·) 0
    flags := (List.range 64).map fun n => ((col n).map nfFlags).foldl (· ||| ·) 0
    chk := (chks.map fun p => chkProduct p.1 p.2).foldl (· + ·) 0
    chkFlags := (chks.map fun p => chkFlags p.1 p.2.flags).foldl (· ||| ·) 0 }

/-- An activation row with its scales applied (R73), from the lines read. -/
def actRow (d : Desc) (aoff r : Nat) (tab : LineTab) : List FV :=
  let bits := d.rowBits aoff r
  let scales := d.rowScales aoff r
  ((List.range bits.length).zip bits).map fun p =>
    let v := decodeElem d.fmt (tab.elem p.2 d.bits)
    if d.scaled then v.mul (e8m0FV (tab.byte (scales.getD (p.1 / 32) 0))) else v

/-- Lines that row `r` of an activation tensor touches. -/
def actLines (d : Desc) (aoff r : Nat) : List Int :=
  distinctLines (((d.rowBits aoff r).map fun a => elemBytes a d.bits).flatten ++ d.rowScales aoff r)

/-- The rows whose lines one strided read of R137 brings: a group of eight. -/
def gatherRows (r : Nat) : List Nat := (List.range 8).map fun i => r / 8 * 8 + i

/-- The lines that row `r` of a pass of `rows` rows reads on HA: what no earlier row has read; with GATHER, the lines of its group of
eight rows, at the group's first row (R137, R173). -/
def passLines (d : Desc) (aoff : Nat) : Nat → List (Nat × List Int)
  | 0 => []
  | r + 1 =>
    let before := passLines d aoff r
    let ls :=
      if d.layout = 4 then (if r % 8 = 0 then distinctLines (((gatherRows r).map fun i => (actLines d aoff i).map (· * 512)).flatten) else [])
      else (actLines d aoff r).filter fun l => !before.any fun p => p.2.contains l
    before ++ [(r, ls)]

/-- The activation reads of a pass (R89): a line in each even kept cycle, the first at or after `p`, and none later than the entry of
the row that needs it (DESIGN CHOICE, notes/assumptions/41.md). Also the cycle after the last. -/
def haReads (op now : Nat) : List (Nat × Int) → Nat → List (Nat × Act) × Nat
  | [], p => ([], p)
  | (r, l) :: ls, p =>
    let c := min (evenKept op p) (max (evenKept op now) (evenBefore op (keptAfter op now (5 + r))))
    let rest := haReads op now ls (max p (c + 1))
    ((c, .read portHA l) :: rest.1, rest.2)

/-! X640 rows and broadcast rows. -/

/-- An X640 row (R82), reserved bits ignored. -/
def x640Row (bs : List Byte) : AccRow :=
  { cols := (List.range 64).map fun n => sext 640 (num bs (80 * n) 80)
    flags := (List.range 64).map fun n => num bs (5200 + n) 1 % 8
    chk := sext 640 (num bs 5120 80)
    chkFlags := num bs 5264 1 % 8 }

/-- The X640 image of a row (R82). -/
def x640Image (r : AccRow) : List Byte :=
  (r.cols.map fun c => leBytes 80 (wrapInt 640 c)).flatten ++ leBytes 80 (wrapInt 640 r.chk) ++
  (r.flags.map fun f => BitVec.ofNat 8 f) ++ [BitVec.ofNat 8 r.chkFlags] ++ zeros 367

/-- R83: one FP32 row as a contribution: each value exact, the check accumulator taking the exact sum of all 64. -/
def fp32Row (vs : List FV) : AccRow :=
  { cols := vs.map toFixed, flags := vs.map nfFlags
    chk := (vs.map toFixed).foldl (· + ·) 0, chkFlags := (vs.map nfFlags).foldl (· ||| ·) 0 }

/-! Drained rows. -/

/-- Cycles between the reads of consecutive rows of a drain (R91). -/
def drainGap (fmt : Nat) : Nat := if fmt = 11 then 22 else 1

/-- R91: Ds, the least kept cycle after D such that each row's read is later than its last write. -/
def Stand.drainStart (t : Stand) (op now rows r0 gap : Nat) : Nat :=
  keptAt op (((List.range rows).map fun r => keptIdx op (tget 0 t.rowDue (r0 + r)) + 1 - gap * r).foldl max (keptIdx op now + 1))

/-- The bytes a drained row writes (R80 to R82), with its finite overflows and non-finite results. Columns beyond
EXTENT_0 are dropped (DEDUCED, notes/assumptions/11.md). -/
def drainBytes (d : Desc) (dr : Drain) (i : Nat) (row : AccRow) : List (Int × List Byte) × Nat × Nat :=
  let vs := row.cols.zipWith (fun v f => accFV v f dr.adj) row.flags
  if dr.fmt = 11 then
    ([(d.x640Addr dr.aoff i, x640Image row)], 0, (row.flags.filter (· ≠ 0)).length)
  else
    let c := intCoords (d.rowCoords i)
    let n := min 64 (d.e 0)
    if d.scaled then
      let blocks := (List.range (n / 32)).map fun b => (b, mxBlock dr.fmt none (slice2 vs (32 * b)))
      let bytes := blocks.map fun p =>
        let code := ((List.range 32).zip p.2.2.1).foldl (fun a q => a + q.2 * 2 ^ (q.1 * fmtBits dr.fmt)) 0
        [(d.elemBit dr.aoff c (32 * p.1) / 8, leBytes (4 * fmtBits dr.fmt) code),
         (d.scaleAddr dr.aoff c (32 * p.1), [BitVec.ofNat 8 p.2.1])]
      (bytes.flatten, (blocks.map fun p => p.2.2.2.1).foldl (· + ·) 0, (blocks.filter fun p => p.2.2.2.2).length)
    else
      let rs := (vs.take n).map (roundElem dr.fmt dr.sat)
      let k := fmtBits dr.fmt / 8
      (((List.range n).zip rs).map fun p => (d.elemBit dr.aoff c p.1 / 8, leBytes k p.2.code),
       (rs.filter (·.ovf)).length, (rs.filter (·.nonfin)).length)
where
  /-- 32 elements from position `o`. -/
  slice2 (vs : List FV) (o : Nat) : List FV := (vs.drop o).take 32

/-- Position of the lowest set bit of a nonzero number. -/
def lowBit (n : Nat) : Nat := ((List.range (n.log2 + 1)).find? fun i => n.testBit i).getD 0

/-- R86: the comparison of a row: the difference of the full column sum and the check accumulator, and of the flags. -/
def rowDiff (row : AccRow) (chk : Int) : Int × Bool :=
  (row.cols.foldl (· + ·) 0 - chk, row.flags.foldl (· ||| ·) 0 != row.chkFlags)

/-- The fields of STAND_HR_CHK0 for a mismatching row (R94). -/
def chk0Fields (diff : Int) (nonfin : Bool) (bufRow : Nat) : Nat :=
  let mag := diff.natAbs
  flag nonfin 61 + (if diff = 0 then 0 else flag (decide (diff < 0)) 60 + at_ mag.log2 50 + at_ (lowBit mag) 40) + 2 ^ bufRow

/-- The bytes that row `i` of a drain writes, as spans of address and length. -/
def drainSpans (d : Desc) (dr : Drain) (i : Nat) : List (Int × Nat) :=
  if dr.fmt = 11 then [(d.x640Addr dr.aoff i, 5632)]
  else
    let c := intCoords (d.rowCoords i)
    let n := min 64 (d.e 0)
    if d.scaled then
      ((List.range (n / 32)).map fun b =>
        [(d.elemBit dr.aoff c (32 * b) / 8, 4 * fmtBits dr.fmt), (d.scaleAddr dr.aoff c (32 * b), 1)]).flatten
    else (List.range n).map fun j => (d.elemBit dr.aoff c j / 8, fmtBits dr.fmt / 8)

/-- The Deck lines of some spans, in ascending order without repeats. -/
def spanLines (sp : List (Int × Nat)) : List Int :=
  (sp.map fun p => (List.range ((p.2 + (p.1 % 512).toNat + 511) / 512)).map fun (k : Nat) => p.1 / 512 + (k : Int)).flatten.foldl insertLine []
where
  /-- Ordered insertion. -/
  insertLine : List Int → Int → List Int
    | [], l => [l]
    | x :: xs, l => if l < x then l :: x :: xs else if l = x then x :: xs else x :: insertLine xs l

/-- R91: the lines that are ready when row `i` has been emitted: those it writes to and no later row does. -/
def readyLines (d : Desc) (dr : Drain) (i : Nat) : List Int :=
  let later := ((List.range (dr.rows - 1 - i)).map fun k => spanLines (drainSpans d dr (i + 1 + k))).flatten
  (spanLines (drainSpans d dr i)).filter fun l => !later.contains l

/-- The check accumulator as a drain reads it, with an injection that a debug plan has armed for the row (R96). -/
def State.readChk (s : State) (st bufRow : Nat) (row : AccRow) : Int × Bool :=
  let i := (s.getStand st).hrInject
  if i.arm ∧ fld i.w 4 0 = bufRow ∧ s.debugOn st then (sext 640 (wrapInt 640 row.chk ^^^ 2 ^ fld i.w 41 32), true)
  else (row.chk, false)

/-- The byte writes of a drain's rows so far that fall into the given lines. -/
def Drain.writes (dr : Drain) (ls : List Int) : Writes :=
  ((dr.out.map fun p => ((List.range p.2.length).zip p.2).map fun q => (p.1 + (q.1 : Int), q.2)).flatten).filter fun w => ls.contains (w.1 / 512)

/-! Stages of the Headrig's instructions. -/

/-- The last line of a tile has been read (R90): the buffer holds the image. -/
def State.loadStage (s : State) (st : Nat) (j : Job) (handle buf : Nat) (base : Int) : State :=
  s.updStand st fun t =>
    let d := t.getDesc handle
    let l := tileLines d.fmt d.scaled d.chkForm
    let img := ((List.range l).map fun i => leBytes 512 (if base < 0 then 0 else tget 0 j.got (base.toNat / 512 + i))).flatten
    t.updBuf buf fun b => { b with full := true, bytes := img, fmt := d.fmt, scaled := d.scaled, chkForm := d.chkForm, suspect := j.suspect }

/-- R78: a contribution enters the array: it is written 4 cycles later. An instruction that marks its rows marks all that it has
written (R201). -/
def State.rowStage (s : State) (st : Nat) (j : Job) (r0 i : Nat) (init : Bool) (c : AccRow) : State :=
  let w := s.after st (s.standNow st) 4
  s.updStand st fun t =>
    let t := t.putRow (r0 + i) ((t.row (r0 + i)).write c init j.suspect w)
    if !j.suspect then t
    else { t with acc := (List.range i).foldl (fun a k => tput a (r0 + k) (match tfind? a (r0 + k) with
        | some (v :: vs) => { v with suspect := true } :: vs
        | o => o.getD [])) t.acc }

/-- An activation row enters the array (R70, R85, R91). -/
def State.mulStage (s : State) (st : Nat) (j : Job) (handle aoff buf r0 i : Nat) (init : Bool) : State :=
  let t := s.getStand st
  let s := s.rowStage st j r0 i init (passRow (t.getBuf buf) (actRow (t.getDesc handle) aoff i j.got))
  s.updStand st fun t => { t with entries := t.entries.add 1 }

/-- A row of exact data enters the adder (R83, R91). -/
def State.addxStage (s : State) (st : Nat) (j : Job) (handle aoff : Nat) (fp32 : Bool) (r0 i : Nat) (init : Bool) : State :=
  let d := (s.getStand st).getDesc handle
  s.rowStage st j r0 i init (if fp32 then
      fp32Row ((d.rowBits aoff 0).take 64 |>.map fun a => decodeElem 0 (LineTab.elem j.got a 32))
    else x640Row ((List.range 5632).map fun (k : Nat) => BitVec.ofNat 8 (LineTab.byte j.got (d.x640Addr aoff i + (k : Int)))))

/-- A drain reads row `i` (R91, R96). A row that carries SUSPECT taints the drain, where it was not tainted before (R201). -/
def State.drainStage (s : State) (st : Nat) (j : Job) (i : Nat) : State :=
  match (s.getStand st).drains.find? (·.opId == j.id) with
  | none => s
  | some dr =>
    let b := dr.r0 + i
    let row := (s.getStand st).rowAt b (s.standNow st)
    let (chk, fired) := s.readChk st b row
    let s := s.updStand st fun t =>
      { t.markJob j.id row.suspect with
        drains := t.drains.map fun x => if x.opId = j.id then { x with reads := x.reads ++ [(row, chk)], suspect := x.suspect || row.suspect } else x
        hrInject := if fired then { t.hrInject with arm := false } else t.hrInject }
    s.noteTaint st 0 0 (row.suspect && !j.suspect)

/-- Stages of Headrig jobs. -/
def hrStage : Stage := fun st j a s =>
  match a, j.kind with
  | .stage _, .load h b base => s.loadStage st j h b base
  | .stage i, .mul h aoff b r0 init => s.mulStage st j h aoff b r0 i init
  | .stage i, .addx h aoff fp32 r0 init => s.addxStage st j h aoff fp32 r0 i init
  | .stage i, .drain => s.drainStage st j i
  | _, _ => s

/-! HR_LOAD. -/

/-- R88, R90, R91: the lines of a tile are read on HW one a cycle from the issue cycle on. -/
def hrLoadEffect (st : Nat) (h : Hdr) (handle tile buf : Nat) (arEn : Bool) (areg : Nat) (s : State) : State :=
  let t := s.getStand st
  let now := s.standNow st
  let d := t.getDesc handle
  let l := tileLines d.fmt d.scaled d.chkForm
  let tokT := s.tokTaint st h none
  let base := d.tileAddr (t.aoff arEn areg) tile
  let last := s.after st now (l - 1)
  let s := s.beginIssue st 0 h none 1
  let s := s.updStand st fun t =>
    { t.updBuf buf fun b => { b with lastRead := last, landed := s.after st last 4 } with hwFree := s.after st now l }
  let s := (s.addOp st 0 h (s.after st last 4) tokT .plain).noteTaint st 0 (if tokT then h.wt else 0) tokT
  s.startJob hrStage st t.nextOp 0 (.load handle buf base) tokT
    (s.readsFrom st portHW now ((List.range l).map fun (j : Nat) => base / 512 + (j : Int)) ++ [(last, .stage 0)])

/-- HR_LOAD (R88, R90, R91). -/
def execHrLoad (st : Nat) (h : Hdr) (handle tile buf : Nat) (arEn : Bool) (areg : Nat) (s : State) :
    Host.Outcome State Fault Refusal :=
  s.issue st 0 (.hrLoad st h handle tile buf arEn areg) (hrLoadEffect st h handle tile buf arEn areg)

/-! HR_MUL. -/

/-- R77, R78, R85, R88, R91: row i enters the array 5 + i cycles after the issue, and is written 4 later. -/
def hrMulEffect (st : Nat) (h : Hdr) (handle buf rows r0 : Nat) (init arEn : Bool) (areg : Nat) (s : State) : State :=
  let t := s.getStand st
  let now := s.standNow st
  let op := s.standOp st
  let d := t.getDesc handle
  let aoff := t.aoff arEn areg
  let tokT := s.tokTaint st h none
  let tainted := tokT || (t.getBuf buf).suspect
  let lines := ((passLines d aoff rows).map fun p => p.2.map fun l => (p.1, l)).flatten
  let (reads, p) := haReads op now lines (max now t.haRead)
  let entry := fun i => s.after st now (5 + i)
  let s := s.beginIssue st 0 h none 1
  let s := s.updStand st fun t =>
    { t.updBuf buf fun b => { b with lastEntry := max b.lastEntry (entry (rows - 1)) } with
      passFree := s.after st now rows, passClass := fmtClass d.fmt, activeBuf := buf, haRead := p
      rowDue := (List.range rows).foldl (fun a i => tput a (r0 + i) (s.after st (entry i) 4)) t.rowDue }
  let s := (s.addOp st 0 h (s.after st now (rows + 8)) tainted .plain).noteTaint st 0 (if tokT then h.wt else 0) tainted
  let acts := planActs ((List.range rows).map fun i => (entry i, .stage i)) reads
  s.startJob hrStage st t.nextOp 0 (.mul handle aoff buf r0 init) tainted acts

/-- HR_MUL (R77, R78, R85, R88). `rows` is R, 1 to 32. -/
def execHrMul (st : Nat) (h : Hdr) (handle buf rows r0 : Nat) (init arEn : Bool) (areg : Nat) (s : State) :
    Host.Outcome State Fault Refusal :=
  s.issue st 0 (.hrMul st h handle buf rows r0 init arEn areg) (hrMulEffect st h handle buf rows r0 init arEn areg)

/-! HR_ADDX. -/

/-- The lines that an HR_ADDX reads on HW: eleven for each X640 row, or those of the one FP32 row (R83, R91). -/
def addxLines (d : Desc) (aoff rows : Nat) (fp32 : Bool) : List Int :=
  if fp32 then distinctLines ((d.rowBits aoff 0).map (· / 8))
  else ((List.range rows).map fun i => (List.range 11).map fun (j : Nat) => d.x640Addr aoff i / 512 + (j : Int)).flatten

def hrAddxEffect (st : Nat) (h : Hdr) (handle : Nat) (fp32 : Bool) (rows r0 : Nat) (init arEn : Bool) (areg : Nat) (s : State) :
    State :=
  let t := s.getStand st
  let now := s.standNow st
  let d := t.getDesc handle
  let aoff := t.aoff arEn areg
  let tokT := s.tokTaint st h none
  let ls := addxLines d aoff rows fp32
  let gap := if fp32 then 1 else 11
  let entry := fun i => s.after st now (if fp32 then 5 + i else 11 * i + 15)
  let reads := s.readsFrom st portHW now ls
  let s := s.beginIssue st 0 h none 1
  let s := s.updStand st fun t =>
    { t with passFree := s.after st now (gap * rows), hwFree := s.after st now ls.length, passClass := 3
             rowDue := (List.range rows).foldl (fun a i => tput a (r0 + i) (s.after st (entry i) 4)) t.rowDue }
  let s := (s.addOp st 0 h (s.after st now (gap * rows + 8)) tokT .plain).noteTaint st 0 (if tokT then h.wt else 0) tokT
  let acts := planActs ((List.range rows).map fun i => (entry i, .stage i)) reads
  s.startJob hrStage st t.nextOp 0 (.addx handle aoff fp32 r0 init) tokT acts

/-- HR_ADDX (R83, R91). -/
def execHrAddx (st : Nat) (h : Hdr) (handle : Nat) (fp32 : Bool) (rows r0 : Nat) (init arEn : Bool) (areg : Nat) (s : State) :
    Host.Outcome State Fault Refusal :=
  s.issue st 0 (.hrAddx st h handle fp32 rows r0 init arEn areg) (hrAddxEffect st h handle fp32 rows r0 init arEn areg)

/-! HR_DRAIN. -/

def hrDrainEffect (st : Nat) (h : Hdr) (handle rows r0 fmt : Nat) (sat : Bool) (adj : Int) (push : Bool) (tag : Nat)
    (arEn : Bool) (areg : Nat) (s : State) : State :=
  let t := s.getStand st
  let now := s.standNow st
  let gap := drainGap fmt
  let ds := t.drainStart (s.standOp st) now rows r0 gap
  let tokT := s.tokTaint st h none
  let tainted := tokT || (List.range rows).any fun r => (t.rowAt (r0 + r) (s.after st ds (gap * r))).suspect
  let s := s.beginIssue st 0 h none 1
  let d : Drain := { opId := t.nextOp, handle := handle, aoff := t.aoff arEn areg, rows := rows, r0 := r0, fmt := fmt,
                     sat := sat, adj := adj, push := push, tag := tag, ds := ds, suspect := tainted }
  let s := s.updStand st fun t =>
    { t with drains := t.drains ++ [d], drainFree := s.after st ds (gap * (rows - 1) + 1),
             ftqReserved := t.ftqReserved + (if push then 1 else 0) }
  let s := (s.addOp st 0 h 0 tainted (.await rows)).noteTaint st 0 (if tokT then h.wt else 0) tainted
  s.startJob hrStage st t.nextOp 0 .drain tainted ((List.range rows).map fun i => (s.after st ds (gap * i), .stage i))

/-- HR_DRAIN (R79, R88, R91, R92). Its rows are rounded and checked one by one by DRAIN_ROW_CHECK. -/
def execHrDrain (st : Nat) (h : Hdr) (handle rows r0 fmt : Nat) (sat : Bool) (adj : Int) (push : Bool) (tag : Nat)
    (arEn : Bool) (areg : Nat) (s : State) : Host.Outcome State Fault Refusal :=
  s.issue st 0 (.hrDrain st h handle rows r0 fmt sat adj push tag arEn areg)
    (hrDrainEffect st h handle rows r0 fmt sat adj push tag arEn areg)

/-- The writes of a drain's ready lines on HA, each in the first odd kept cycle at or after `ready` that no earlier line has
taken (R91); with the cycle of the last and the next free one. -/
def drainActs (op ready : Nat) (ws : Writes) : List Int → Nat → List (Nat × Act) × Nat × Nat
  | [], free => ([], ready, free)
  | l :: ls, free =>
    let c := oddKept op (max ready free)
    let r := lineImage ws l
    let rest := drainActs op ready ws ls (c + 1)
    ((c, .write portHA l r.1 r.2) :: rest.1, max c rest.2.1, rest.2.2)

/-- The lines of a drain that its row `i` makes ready are written, and with the last row its completion is set (R91):
4 cycles after its last line's write. -/
def State.drainWrite (s : State) (st : Nat) (dr : Drain) (i : Nat) : State :=
  let ready := s.after st dr.ds (drainGap dr.fmt * i + 6)
  let ls := readyLines ((s.getStand st).getDesc dr.handle) dr i
  let (acts, cyc, free) := drainActs (s.standOp st) ready (dr.writes ls) ls (s.getStand st).haFree
  let due := s.after st cyc 4
  let s := s.updStand st fun t =>
    { (t.updJob dr.opId fun j => j.plan acts).updOp dr.opId fun o =>
        if i + 1 = dr.rows then { o with due := due, kind := .drain } else { o with kind := .await (dr.rows - i - 1) } with haFree := free }
  State.runJob hrStage st dr.opId jobFuel s

/-- R86, R87: row `dr.next` of a drain, as it was read, is resolved, rounded and compared. ROW_MASK takes the drain's first
mismatching row when the record latches and each later one while that record stands (DESIGN CHOICE, notes/assumptions/42.md);
an X640 image takes the check accumulator without an injection (DESIGN CHOICE, notes/assumptions/43.md). -/
def State.drainRow (s : State) (st : Nat) (dr : Drain) (row : AccRow) (chk : Int) : State :=
  let t := s.getStand st
  let i := dr.next
  let b := dr.r0 + i
  let (diff, nonfin) := rowDiff row chk
  let bad := diff ≠ 0 || nonfin
  let (ws, sat, nf) := drainBytes (t.getDesc dr.handle) dr i row
  let first := bad && dr.mask == 0
  let dr' := { dr with next := i + 1, mask := if bad then dr.mask + 2 ^ b else dr.mask
                       holds := (first && !t.hrRec.valid) || (dr.holds && t.hrRec.valid)
                       suspect := dr.suspect || bad, out := dr.out ++ ws }
  let s := s.updStand st fun t =>
    { t.markJob dr.opId bad with
      drains := t.drains.map fun x => if x.opId = dr.opId then dr' else x
      hrSat := t.hrSat.add sat, hrNonfin := t.hrNonfin.add nf
      mismatch := if bad then t.mismatch.add 1 else t.mismatch
      hrRec := if !bad then t.hrRec
        else if first then t.hrRec.latch (chk0Fields diff nonfin b) s.ring.count (at_ (dr.ds % 2 ^ 20) 16 + dr.tag)
        else if dr'.holds then { t.hrRec with w0 := t.hrRec.w0 ||| 2 ^ b } else t.hrRec }
  let s := match t.ctx with
    | none => s
    | some d =>
      if !bad then s
      else
        let s := s.updAcc d fun a => { a with checks := satAt 32 (a.checks + 1) }
        if first then s.raiseFail 0x0201 d (standUnit st 0) (s.after st dr.ds (drainGap dr.fmt * i + 6)) dr.tag 0 else s
  s.drainWrite st dr' i

/-- The drain whose row is checked next, if that row has been read and has reached its comparison (R91). -/
def State.drainDue (s : State) (st : Nat) : Option (Drain × AccRow × Int) :=
  match (s.getStand st).drains.find? (fun d => decide (d.next < d.rows)) with
  | some d =>
    match d.reads[d.next]? with
    | some r => if s.after st d.ds (drainGap d.fmt * d.next + 6) ≤ s.standNow st then some (d, r) else none
    | none => none
  | none => none

/-- The drain row that is due is checked, if one is. -/
def drainRowCheck (st : Nat) (s : State) : State :=
  match s.drainDue st with
  | some (d, row, chk) => s.drainRow st d row chk
  | none => s

/-- DRAIN_ROW_CHECK (R86, R87). -/
def execDrainRowCheck (st : Nat) (s : State) : Host.Outcome State Fault Refusal := .next (drainRowCheck st s)

/-- INSTRUCTION_COMPLETE (R196, R203). -/
def execInstructionComplete (st stream : Nat) (s : State) : Host.Outcome State Fault Refusal :=
  .next (instructionComplete st stream s)

end Sys2Proof.Machine
end

