-- ==== Sys2Proof/Machine/Memory.lean ====
section
/-! DEFINITION. Device memory (chapter 11): units and windows, codes, request entries, the controllers' slot entries, the
KV page map, self-refresh. -/

namespace Sys2Proof.Machine

/-! Address space (R314, R315). -/

def apertureBytes : Nat := 2 ^ 37
/-- Unit of a device address: stack s as s, package p as 16 + p; others are none (R314). -/
def unitOf (a : Nat) : Nat := a / apertureBytes
def isUnit (u : Nat) : Bool := decide (u < 12) || (decide (16 ≤ u) && decide (u < 32))

/-- Populated 64 KiB pages of a unit of `gb` GB that is present (R315). -/
def pagesOf (u gb : Nat) : Nat := if u < 12 then 1464843 else gb * 10 ^ 9 * 7 / 8 / 65536

/-- Populated pages of a unit; one that did not train has none (R481). -/
def State.unitPages (s : State) (u : Nat) : Nat :=
  if (tget ({} : MemUnit) s.mem.unit u).present then pagesOf u s.mem.lpGb else 0

def State.populated (s : State) (a : Nat) : Bool :=
  isUnit (unitOf a) && decide (a % apertureBytes < s.unitPages (unitOf a) * 65536)

/-- A window as (frame, pages, class, wset), when VALID (R318). -/
def winOf (w : Nat × Nat) : Option (Nat × Nat × Nat × Bool) :=
  if bit w.1 63 then some (fld w.1 31 0, fld w.2 31 0, fld w.1 62 62, bit w.1 61) else none

/-- Windows of a domain in table order (R318, R425). -/
def Dom.windows (d : Dom) : List (Nat × Nat × Nat × Bool) := d.win.filterMap fun p => winOf p.2

/-- The window of a domain that holds a page frame. -/
def Dom.window (d : Dom) (frame : Nat) : Option (Nat × Nat × Nat × Bool) :=
  d.windows.find? fun w => decide (w.1 ≤ frame ∧ frame < w.1 + w.2.1)

/-- Whether a byte range lies wholly within one of a domain's windows. -/
def Dom.inWindow (d : Dom) (a n : Nat) : Bool :=
  d.windows.any fun w => decide (w.1 * 65536 ≤ a ∧ a + n ≤ (w.1 + w.2.1) * 65536)

/-- Every page of a byte range lies in a window of the domain. -/
def Dom.covers (g : Dom) (a n : Nat) : Bool := (List.range (cdiv n 65536 + 1)).all fun k =>
  let p := a / 65536 + k
  decide (a + n ≤ p * 65536) || (g.window p).isSome

/-- R317, R332, R340: why a controller refuses an access to a line, if it does: 0 range, 1 window, 2 class, 3 WSET,
4 PARTIAL. -/
def State.memRefusal (s : State) (dom : Nat) (a : Int) (cls : Nat) (write bucker : Bool) (be : Nat) : Option Nat :=
  if a < 0 ∨ a ≥ 2 ^ 48 ∨ !s.populated a.toNat then some 0
  else match (s.getDom dom).window (a.toNat / 65536) with
  | none => some 1
  | some (_, _, c, w) =>
    if c ≠ cls then some 2
    else if write && w && !bucker then some 3
    else if write && c == 1 && (List.range 8).any (fun k => fld be (8 * k + 7) (8 * k) != 0 && fld be (8 * k + 7) (8 * k) != 255) then some 4
    else none

/-! Codes (R328 to R330). -/

/-- Outcome of decoding one protection unit of DRAM: an 8-byte word corrects 1 bit and detects 2; a 64-byte segment corrects 3
symbols and detects 5. Beyond that the outcome follows from what is stored, by a code the spec leaves free (R145, R328). -/
def decodeMem (cls u : Nat) (data flips : List Byte) : Nat × List Byte :=
  let n := unitErrors cls flips
  let stored := data.zipWith (fun a b => a ^^^ b) flips
  let fixes := if cls = 1 then 3 else 1
  let sees := if cls = 1 then 5 else 2
  let code := if cls = 0 then 0 else if u < 16 then 2 else 3
  if n = 0 then (0, data)
  else if n ≤ fixes then (1, data)
  else if n ≤ sees then (2, stored)
  else match (Config.freeDecode code (ofLe data) (ofLe flips)).toNat with
    | 0 => (0, stored)
    | 1 => (1, leBytes (unitBytes cls) (Config.freeUnit code (ofLe data) (ofLe flips)).toNat)
    | _ => (2, stored)

/-- A line of DRAM decoded, its first unit last: data, corrected units, uncorrectable units, and the errors of the first bad unit. -/
def decodeMemLine (cls u : Nat) : Nat → List Byte → List Byte → List Byte × Nat × Nat × Nat
  | 0, _, _ => ([], 0, 0, 0)
  | n + 1, data, flips =>
    let k := unitBytes cls
    let r := decodeMem cls u (data.take k) (flips.take k)
    let (ds, c, x, e) := decodeMemLine cls u n (data.drop k) (flips.drop k)
    (r.2 ++ ds, c + (if r.1 = 1 then 1 else 0), x + (if r.1 = 2 then 1 else 0),
     if r.1 = 0 then e else unitErrors cls (flips.take k))

def State.getMemDom (s : State) (d : Nat) : MemDom := tget {} s.mem.dom d
def State.updMemDom (s : State) (d : Nat) (f : MemDom → MemDom) : State :=
  { s with mem := { s.mem with dom := tupd {} s.mem.dom d f } }
def State.getUnit (s : State) (u : Nat) : MemUnit := tget {} s.mem.unit u
def State.updUnit (s : State) (u : Nat) (f : MemUnit → MemUnit) : State :=
  { s with mem := { s.mem with unit := tupd {} s.mem.unit u f } }
def State.getPort (s : State) (p : Nat) : CtrlPort := tget {} s.mem.port p
def State.updPort (s : State) (p : Nat) (f : CtrlPort → CtrlPort) : State :=
  { s with mem := { s.mem with port := tupd {} s.mem.port p f } }

/-- MEM_ERR0 as latched (R340). -/
def memErr0 (kind cls a cause count stand cyc : Nat) : Nat :=
  let u := unitOf a
  at_ kind 60 + at_ cls 59 + (if u ≥ 16 then 2 ^ 58 else 0) + at_ (u % 16) 48 + at_ cause 44 + at_ (min count 15) 40 +
  at_ stand 20 + cyc % 2 ^ 20

/-- The record of a memory access that failed or was corrected, in its domain's copy. -/
def State.noteMem (s : State) (dom kind cls a cause count stand item : Nat) : State :=
  s.updMemDom dom fun m =>
    { m with rec_ := m.rec_.latch (memErr0 kind cls a cause count stand (s.getCmp 18).loc) s.ring.count item
             refused := if kind = 2 then m.refused.add 1 else m.refused }

/-- The bytes of a device memory range as stored and decoded without counting: for hub units that read whole structures. -/
def State.devBytes (s : State) (a n : Nat) : List Byte := memRead s.mem.mem a n

/-- One line read from DRAM for a domain (R329, R330): data, and whether a unit was uncorrectable. -/
def State.readDram (s : State) (dom stand cls a : Nat) : State × List Byte × Bool :=
  let data := memRead s.mem.mem a 512
  if s.mem.flip = [] then (s, data, false)
  else
    let (ds, c, x, e) := decodeMemLine cls (unitOf a) (512 / unitBytes cls) data (memRead s.mem.flip a 512)
    let s := if c + x = 0 then s else s.noteMem dom (if x > 0 then 1 else 0) cls a 0 (if x > 0 then 0 else e) stand a
    let s := s.updMemDom dom fun m => { m with corr := m.corr.add c, uncorr := m.uncorr.add x }
    let s := s.updAcc dom fun q => { q with eccCorr := satAt 32 (q.eccCorr + c), eccUncorr := satAt 32 (q.eccUncorr + x) }
    (s, ds, decide (x > 0))

/-- R329, R330: `n` bytes at device address `a` that a hub unit reads for a domain, of class `cls`: one access, which raises each event
once; whether a line of it was refused or uncorrectable. -/
def State.hubRead (s : State) (d unit cls a n cyc : Nat) : State × List Byte × Bool :=
  let lo := a / 512
  let step := fun (x : State × List Byte × Bool) (l : Nat) =>
    let s := x.1
    let la := (lo + l) * 512
    match s.memRefusal d la cls false false 0 with
    | some cause =>
      let s := s.noteMem d 2 cls la cause 0 0 la
      let s := if x.2.2 then s else s.raiseFail 0x020C d unit cyc cause la
      (s, x.2.1 ++ zeros 512, true)
    | none =>
      let (s, bs, bad) := s.readDram d 0 cls la
      let s := if bad && !x.2.2 then s.raiseFail (if cls = 1 then 0x0203 else 0x0202) d unit cyc (if la / apertureBytes < 16 then 0 else 1) la
        else s
      (s, x.2.1 ++ bs, x.2.2 || bad)
  let r := (List.range (if n = 0 then 0 else cdiv (a % 512 + n) 512)).foldl step (s, [], false)
  (r.1, slice r.2.1 (a % 512) n, r.2.2)

/-- The class of the domain's window that holds a device address. -/
def Dom.classAt (g : Dom) (a : Nat) : Nat := match g.window (a / 65536) with | some v => v.2.2.1 | none => 0

/-- A range of the domain's windows read for a hub unit that has no stream of its own, in compartment `k`; none where it lies outside
them or the read fails. -/
def State.unitRead (s : State) (d k a n : Nat) : State × Option (List Byte) :=
  if !(s.getDom d).covers a n then (s, none)
  else
    let (s, bs, bad) := s.hubRead d noUnit ((s.getDom d).classAt a) a n (s.getCmp k).loc
    (s, if bad then none else some bs)

/-- R316, R331: the system window read by a hub unit for a domain: `n` bytes at device address `a`, of the weight class. An
uncorrectable error is counted in the domain's registers and raises ECC_UNCORR_WGT; the event's further items are tier 0 and
the address, as those of R330. What a decoder delivers beyond its guarantee is the data as encoded (DESIGN CHOICE,
notes/assumptions/50.md). -/
def State.readSystem (s : State) (d a n : Nat) : State × Bool :=
  if s.mem.flip = [] then (s, false)
  else
    let segs := (List.range ((a + n - 1) / 64 + 1 - a / 64)).map (a / 64 + ·)
    let errs := segs.map fun k => (k, decodeMem 1 0 (zeros 64) (memRead s.mem.flip (64 * k) 64), unitErrors 1 (memRead s.mem.flip (64 * k) 64))
    let c := (errs.filter fun e => e.2.1.1 == 1).length
    let x := (errs.filter fun e => e.2.1.1 == 2).length
    match errs.find? (fun e => e.2.1.1 != 0) with
    | none => (s, false)
    | some e =>
      let s := s.noteMem d (if x > 0 then 1 else 0) 1 (64 * e.1) 0 (if x > 0 then 0 else e.2.2) 0 (64 * e.1)
      let s := s.updMemDom d fun m => { m with corr := m.corr.add c, uncorr := m.uncorr.add x }
      (if x > 0 then s.raiseFail 0x0203 d noUnit (s.getCmp 18).loc 0 a else s, decide (x > 0))

/-- R316, R330, R331: entry `v` of the page map read by a hub unit for a domain: an uncorrectable one counts as invalid. -/
def State.readPage (s : State) (d v : Nat) : State × PageEnt :=
  let (s, bad) := s.readSystem d (8 * v) 8
  let e := tget ({} : PageEnt) s.mem.page v
  (s, if bad then { e with valid := false } else e)

/-- R316, R331: context `q` of the queue context table read for a domain. -/
def State.readContext (s : State) (d q : Nat) : State := (s.readSystem d (0x8000000 + 256 * q) 256).1

/-- A line entered for DRAM under the enables of a flit: READ entries see it 8 cycles later (R325). -/
def State.writeDram (s : State) (a : Nat) (bs : List Byte) (be : Nat) : State :=
  { s with mem := { s.mem with landing := s.mem.landing ++ [(8, a, bs, be)] } }

/-- Bytes reach the DRAM: the words take fresh codes. -/
def MemSt.land (m : MemSt) (a : Nat) (bs : List Byte) (be : Nat) : MemSt :=
  { m with
      mem := memWriteBE m.mem a bs fun i => be.testBit (i / 8)
      flip := (List.range 64).foldl (fun m w => if be.testBit w then memClear m (a + 8 * w) (a + 8 * w + 8) else m) m.flip }

/-- A kept cycle of compartment 18 begins: lines whose time has come are visible (R325). -/
def State.landDram (s : State) : State :=
  if s.mem.landing = [] then s
  else
    let l := s.mem.landing.map fun e => (e.1 - 1, e.2)
    let m := (l.filter (·.1 == 0)).foldl (fun m e => m.land e.2.1 e.2.2.1 e.2.2.2) s.mem
    { s with mem := { m with landing := l.filter (·.1 != 0) } }

/-- R426 to R428: a line of a GRAIN, by its name, enters the running step's sum; the key is that of the plan. A debug plan
reports a second write of a line of grain 1 or 2. -/
def State.addGrain (s : State) (d g n be : Nat) (line : List Byte) (cyc : Nat) (sus : Bool) : State :=
  let c := s.getCtx d
  let h := grainLine (grainKey c.planId) n be line
  let again := (s.getTally d).acc.grainLines.contains n
  let s := s.updAcc d fun a =>
    { a with
             intHash := if g = 0 then a.intHash ^^^ h else a.intHash
             inHash := if g = 1 then a.inHash ^^^ h else a.inHash
             outHash := if g = 2 then a.outHash ^^^ h else a.outHash
             suspectOut := a.suspectOut || (sus && g == 2)
             grainLines := if g = 0 ∨ !c.debugging ∨ again then a.grainLines else n :: a.grainLines }
  let s := s.updTally d fun t => { t with twinSum := t.twinSum ^^^ h }
  if g ≠ 0 ∧ c.debugging ∧ again then s.scoutFind d 2 noUnit n cyc else s

/-! Request entries (R322). -/

/-- A request entry as 32 bytes. -/
def Req.bytes (r : Req) : List Byte :=
  leBytes 32 (2 ^ 255 + flag r.write 254 + flag r.kv 253 + flag r.last 252 + at_ r.dtok 247 + at_ r.doff 233 + at_ r.stand 224 +
    at_ r.handle 212 + at_ r.dom 208 + at_ r.cls 207 + at_ r.be 128 +
    (if r.kv then at_ r.v 24 + at_ r.line 9 else r.addr % 2 ^ 48 / 512 * 512))

/-- The request entry of 32 bytes, if VALID; `part` says what its line brings (R322, R567). -/
def Req.ofBytes (bs : List Byte) (sus : Bool) (part : ReqPart) (grain : Option (Nat × Nat × Nat)) : Option Req :=
  let w := ofLe (bs.take 32)
  if !bit w 255 then none
  else some { write := bit w 254, kv := bit w 253, last := bit w 252, dtok := fld w 251 247, doff := fld w 246 233
              stand := fld w 232 224, handle := fld w 223 212, dom := fld w 211 208, cls := fld w 207 207, be := fld w 191 128
              addr := fld w 47 9 * 512, v := fld w 47 24, line := fld w 15 9, suspect := sus, op := part.op, grain := grain, part := part }

/-- The sixteen entries of a request flit. -/
def reqsOf (f : Flit) : List Req :=
  (List.range 16).filterMap fun k => Req.ofBytes (slice f.payload (32 * k) 32) f.suspect (f.parts.getD k {}) f.grain

/-- REQUEST_FLIT: the oldest flit at a controller port joins its queues: request entries in order, write data as it is
(R322, R325). One that fails its check is not taken (R243). -/
def requestFlit (p : Nat) (corrupt : Bool) (s : State) : State :=
  let l := Loc.ctrl p
  match s.net.flits.find? (fun f => f.loc == l && s.come f) with
  | none => s
  | some f =>
    let s : State := { s with net := { s.net with flits := dropFirst (· == f) s.net.flits } }
    if corrupt || !f.intact then (s.noteE2e l false false f.inPort f.ckt f.seq).nackFlit l f
    else if f.request then
      let rs := reqsOf f
      s.updPort p fun q => { q with reads := q.reads ++ rs.filter (!·.write), writes := q.writes ++ rs.filter (·.write) }
    else s.updPort p fun q => { q with data := q.data ++ [f] }

/-! Controller slot entries (R323 to R325). -/

/-- KIND and PORT of the entry of a unit's half at local count `t` (R323). -/
def State.ctrlEntry (s : State) (u half t : Nat) : Nat × Nat :=
  let e := tget 0 (s.getUnit u).slots (t % 4096)
  let b := if u < 16 then fld e (8 * half + 7) (8 * half) else fld e 7 0
  (fld b 2 0, fld b 3 3)

/-- The controller port that a unit's entry serves. -/
def ctrlPortOf (u port : Nat) : Nat := if u < 16 then 2 * u + port else 24 + (u - 16)

/-- Bank of a line within its half of a stack, with its row (R326). -/
def hbmBank (a : Nat) : Nat × Nat := (at_ (fld a 9 9) 7 + fld a 20 15, fld (a % apertureBytes) 36 21)

/-- R325: whether the bank of a line is not ready: an entry that opens another row of it lies 60 entries after the last one that
opened it. A held request waits for the port's next entry of its kind, and each entry that finds it held counts (DESIGN CHOICE,
notes/assumptions/64.md). Packages have no bank layout in the spec (notes/assumptions/17.md). -/
def State.bankWait (s : State) (u a : Nat) : Bool :=
  if u ≥ 16 then false
  else
    let (b, row) := hbmBank a
    let e := tget 0 (s.getUnit u).banks b
    e ≠ 0 && e % 2 ^ 16 != row && decide ((s.getCmp 18).loc + 64 < e / 2 ^ 16 + 60)

def State.openBank (s : State) (u a : Nat) : State :=
  let (b, row) := hbmBank a
  s.updUnit u fun m => { m with lastAcc := s.time, selfRefresh := false
                                banks := if u ≥ 16 then m.banks
                                  else if tget 0 m.banks b % 2 ^ 16 = row ∧ tget 0 m.banks b ≠ 0 then m.banks
                                  else tput m.banks b (((s.getCmp 18).loc + 64) * 2 ^ 16 + row) }

/-- The entries before a ring boundary as counted from the new ring's first edge, `n` local counts after that of the old one. -/
def MemUnit.boundary (m : MemUnit) (n : Nat) : MemUnit :=
  { m with banks := tmap (fun _ e => max 1 (e / 2 ^ 16 - n) * 2 ^ 16 + e % 2 ^ 16) m.banks }

/-- R336: the lookup of a KV request: the line address, or the fault's cause and whether it is a miss. -/
def State.kvLookup (s : State) (r : Req) (u : Nat) : Nat ⊕ (Nat × Bool) :=
  let bank := if s.ring.count % 2 = 0 then s.mem.bank0 else s.mem.bank1
  match tfind? bank r.v with
  | none => .inr (1, true)
  | some e =>
    if !e.valid then .inr (1, false)
    else
      let a := e.frame * 65536 + 512 * r.line
      let okWin := match (s.getDom r.dom).window e.frame with
        | some (_, _, c, _) => c == r.cls
        | none => false
      if unitOf a ≠ u ∨ !okWin ∨ (e.tier == 0) ≠ decide (u < 12) then .inr (2, false) else .inl a

/-- R180, R186: a faulting index entry `ent` of instruction `inst` of a stand, which issued in local cycle `cyc`: each entry counts
once and the first latches; the event once for an instruction. The instruction's output is marked, where it has not been
posted before the fault is found. -/
def State.indexFault (s : State) (st inst ent cause kind handle value cyc : Nat) : State :=
  let t := s.getStand st
  if t.ixSeen.contains (inst, ent) then s
  else
    let first := !(t.ixSeen.any (·.1 == inst))
    let s := s.updStand st fun t =>
      { t.markJob inst true with
        ixSeen := (inst, ent) :: t.ixSeen, ixFault := t.ixFault.add 1
        ixRec := if first then t.ixRec.latch (at_ cause 60 + at_ kind 58 + at_ handle 44) s.ring.count (at_ value 32 + cyc % 2 ^ 20) else t.ixRec }
    match (s.getStand st).ctx with
    | some d => if first then s.raiseFail 0x0208 d (standUnit st 2) (s.standNow st) handle kind else s
    | none => s

/-- What a controller does with one request beyond moving data: marks and events, once for a transfer (R317, R330, R336). -/
def State.markOnce (s : State) (p key : Nat) (f : State → State) : State :=
  if (s.getPort p).raised.contains key then s
  else f (s.updPort p fun q => { q with raised := key :: q.raised })

def State.refuseMem (s : State) (p : Nat) (r : Req) (a cause : Nat) : State :=
  (s.noteMem r.dom 2 r.cls a cause 0 r.stand a).markOnce p 2 fun s =>
    s.raiseFail 0x020C r.dom (standUnit r.stand 2) (s.getCmp 18).loc a cause

/-- The line address of a request, after its lookup; a failed lookup is recorded (R336). -/
def State.reqAddr (s : State) (p u : Nat) (r : Req) : State × Option Nat :=
  if !r.kv then (s, some r.addr)
  else
    let s := s.updMemDom r.dom fun m => { m with lookups := m.lookups.add 1 }
    match s.kvLookup r u with
    | .inl a => (s, some a)
    | .inr (cause, miss) =>
      let s := if miss then
          let s := s.noteMem r.dom 3 r.cls (u * apertureBytes) 0 0 r.stand r.v
          let s := s.updMemDom r.dom fun m => { m with pmMiss := m.pmMiss.add 1 }
          s.markOnce p 4 fun s => s.raiseFail 0x020D r.dom (standUnit r.stand 2) (s.getCmp 18).loc r.v 0
        else s
      (s.indexFault r.stand r.part.inst r.part.ent cause 1 r.handle r.v r.part.issued, none)

/-- Whether the entry of the present cycle must wait for its bank: MEM_BANKWAIT counts the cycle (R325). -/
def State.waitsBank (s : State) (u : Nat) (r : Req) : Bool :=
  (if r.kv then match s.kvLookup r u with | .inl a => some a | .inr _ => none else some r.addr).any (s.bankWait u)

/-- The payload that a read line brings to its destination line, its enables for each 8 bytes, and the bytes of enabled words that
other flits fill (R227, R567). -/
def ReqPart.place (q : ReqPart) (data : List Byte) : List Byte × Nat :=
  let put := fun (bs : List Byte) (o : Nat) (src : List Byte) => bs.take o ++ src ++ bs.drop (o + src.length)
  let words := fun (o n : Nat) => if n = 0 then 0 else ((List.range ((o + n - 1) / 8 + 1 - o / 8)).map fun k => 2 ^ (o / 8 + k)).foldl (· ||| ·) 0
  (q.runs.foldl (fun bs r => put bs r.1 (slice data r.2.1 r.2.2)) (zeros 512),
   (q.runs.foldl (fun m r => m ||| words r.1 r.2.2) 0) ||| q.dead.foldl (fun m r => m ||| words r.1 r.2) 0)

/-- What a READ entry of unit `u` finds for a request: the line's data, and whether the flit is marked SUSPECT (R317, R330, R336). -/
def State.fetchLine (s : State) (p u : Nat) (r : Req) (t : Nat) : State × List Byte × Bool :=
  let (s, a) := s.reqAddr p u r
  match a with
  | none => (s, zeros 512, true)
  | some a =>
    match s.memRefusal r.dom a r.cls false false 0 with
    | some cause => (s.refuseMem p r a cause, zeros 512, true)
    | none =>
      let (s, ds, x) := s.readDram r.dom r.stand r.cls a
      let s := s.openBank u a
      (if x then s.markOnce p r.cls fun s =>
          s.raiseFail (if r.cls = 1 then 0x0203 else 0x0202) r.dom (standUnit r.stand 2) t (if u < 16 then 0 else 1) a
        else s, ds, x)

/-- Cycles from a READ entry to the entry that can take its data flit (R222, R320, R325, R327). -/
def readLatency (u : Nat) (kv : Bool) : Nat := if u ≥ 16 then 150 else if kv then 77 else 65

/-- MEM_READ_ENTRY: the READ entry of the present local count for half `half` of a unit (R325, R327, R336). -/
def memReadEntry (u half : Nat) (s : State) : State :=
  let t := (s.getCmp 18).loc
  let (kind, port) := s.ctrlEntry u half t
  let p := ctrlPortOf u port
  match (s.getPort p).reads with
  | [] => s
  | r :: rest =>
    if kind ≠ 1 ∨ !(s.getCmp 18).keptNow then s
    else if s.waitsBank u r then s.updMemDom r.dom fun m => { m with bankWait := m.bankWait.add 1 }
    else
      let seq := (s.getPort p).seq
      let (s, data, sus) := s.fetchLine p u r t
      let (l, inp) := (Loc.ctrl p).injectAt
      let lat := readLatency u r.kv
      let (payload, be) := r.part.place data
      let f : Flit := { loc := l, inPort := inp, ready := s.time + lat, due := keptAfter (s.getCmp 18).op t lat, fifo := decide (u ≥ 16)
                        seq := seq, last := r.last, suspect := r.suspect || sus, doff := r.doff, be := be, keep := r.part.keep
                        dtok := r.dtok, pcyc := t, payload := payload, dom := r.dom, srcEnd := .ctrl p, op := if r.last then r.op else none
                        name := r.grain.map fun g => g.2.2 + 512 * r.doff }
      let s := match r.grain with
        | some (d, g, base) => s.addGrain d g (base + 512 * r.doff) be payload t (sus || r.suspect)
        | none => s
      let s := s.updPort p fun q => { q with reads := rest, seq := if r.last then 0 else seq + 1
                                             raised := if r.last then [] else q.raised }
      if f.fifo then { s with net := { s.net with outbox := s.net.outbox ++ [f] } } else s.placeFlits [f]

/-- R425: the name of a line of a domain's windows, and of a KV page. -/
def State.memName (s : State) (d line : Nat) : Nat := at_ 1 61 + at_ (s.logicalId d) 45 + relLine (s.getDom d).windows line
where
  /-- The line of a device address among a domain's windows in table order. -/
  relLine : List (Nat × Nat × Nat × Bool) → Nat → Nat
    | [], l => l
    | (f, p, _, _) :: ws, l => if f * 128 ≤ l ∧ l < (f + p) * 128 then l - f * 128 else p * 128 + relLine ws l

def State.kvName (s : State) (d v line : Nat) : Nat := at_ 2 61 + at_ (s.logicalId d) 45 + at_ v 7 + line

/-- MEM_WRITE_ENTRY: the WRITE entry of the present local count (R325). -/
def memWriteEntry (u half : Nat) (s : State) : State :=
  let t := (s.getCmp 18).loc
  let (kind, port) := s.ctrlEntry u half t
  let p := ctrlPortOf u port
  match (s.getPort p).writes, (s.getPort p).data with
  | r :: rest, f :: fs =>
    if kind ≠ 2 ∨ !(s.getCmp 18).keptNow then s
    else if s.waitsBank u r then s.updMemDom r.dom fun m => { m with bankWait := m.bankWait.add 1 }
    else
      let (s, a) := s.reqAddr p u r
      let s := match a with
        | none => s
        | some a =>
          match s.memRefusal r.dom a r.cls true false r.be with
          | some cause => (s.refuseMem p r a cause).updStand r.stand fun t => t.markJob r.part.inst true
          | none =>
            let s := s.scoutInput r.dom (standUnit r.stand 2) (if r.kv then s.kvName r.dom r.v r.line else s.memName r.dom (a / 512)) t
            (s.writeDram a f.payload r.be).openBank u a
      s.updPort p fun q => { q with writes := rest, data := fs, raised := if r.last then [] else q.raised }
  | _, _ => s

/-- R318: a unit is granted to some domain. -/
def State.granted (s : State) (u : Nat) : Bool :=
  (List.range 16).any fun d => (s.getDom d).valid && (if u < 16 then bit (s.getDom d).hbm u else bit (s.getDom d).lp (u - 16))

/-- Whether a plan of a domain that the unit is granted to runs (R339). -/
def State.unitBusy (s : State) (u : Nat) : Bool :=
  (List.range 16).any fun d =>
    let g := s.getDom d
    (if u < 16 then bit g.hbm u else bit g.lp (u - 16)) && ((s.getCtx d).state == .running || (s.getCtx d).state == .stopping)

/-- SELF_REFRESH_ENTRY (R339): stack 0 never enters; others do after 4,096 idle cycles outside active plans. -/
def selfRefreshEntry (u : Nat) (s : State) : State :=
  if u ≠ 0 ∧ isUnit u ∧ !s.unitBusy u ∧ s.time ≥ (s.getUnit u).lastAcc + 4096 then
    s.updUnit u fun m => { m with selfRefresh := true }
  else s

/-- R339: at ARM the units granted to a domain leave self-refresh. -/
def State.leaveSelfRefresh (s : State) (d : Nat) : State :=
  let g := s.getDom d
  { s with mem := { s.mem with unit := tmap (fun u m =>
      if (if u < 16 then bit g.hbm u else bit g.lp (u - 16)) then { m with selfRefresh := false, lastAcc := s.time } else m) s.mem.unit } }

def execRequestFlit (p : Nat) (corrupt : Bool) (s : State) : Host.Outcome State Fault Refusal := .next (requestFlit p corrupt s)
def execMemReadEntry (u half : Nat) (s : State) : Host.Outcome State Fault Refusal := .next (memReadEntry u half s)
def execMemWriteEntry (u half : Nat) (s : State) : Host.Outcome State Fault Refusal := .next (memWriteEntry u half s)
def execSelfRefreshEntry (u : Nat) (s : State) : Host.Outcome State Fault Refusal := .next (selfRefreshEntry u s)

end Sys2Proof.Machine
end

