-- ==== Sys2Proof/Machine/Skidder.lean ====
section
/-! DEFINITION. The Skidder's instructions (chapters 05, 06, 07 and R228, R322): moves, atomics, bank handover and power,
scrubbing, binning; and the end of a bank's transition. -/

namespace Sys2Proof.Machine

/-! Walking a descriptor (R165 to R180). -/

/-- A run of bytes that one row (or, transposed, one element; or one tile image) of a tensor occupies. `addr` is a Deck
offset, a device address, a set offset, or for KV the page-map index × 65,536 plus the offset within the page. -/
structure Run where
  addr : Int
  len : Nat
  /-- governed by a NULL or a faulting entry (R179, R180) -/
  dead : Bool := false
  /-- the index entry that governs it -/
  ent : Nat := 0

/-- Coordinates at which the runs of a tensor begin, in stream order (R169, R172). -/
def Desc.walkCoords (d : Desc) : List (List Nat) :=
  if d.layout = 2 ∨ d.layout = 3 then
    let n := d.tileSide
    ((List.range (d.outer / n)).map fun o => ((List.range n).map fun i0 =>
      (List.range n).map fun i1 => i0 :: i1 :: coordsOf (d.ext.drop 2) o).flatten).flatten
  else (List.range d.outer).map d.rowCoords

/-- Bytes of one run. -/
def Desc.runLen (d : Desc) : Nat :=
  if d.layout = 1 then 512 * tileLines d.fmt d.scaled d.chkForm
  else if d.layout = 2 ∨ d.layout = 3 then d.bits / 8
  else d.e 0 * d.bits / 8

/-- Coordinates of the index tensor that govern a run (R175). -/
def Desc.ixCoords (d : Desc) (c : List Nat) : List Nat := (c.drop d.idxDim).take (d.ndim - d.idxDim)

/-- Bit address of an index entry (R178). -/
def Desc.ixBit (ix : Desc) (j : List Nat) : Int := ix.elemBit 0 (intCoords j) (j.headD 0)

/-- What an index entry says: a usable value, NULL, or a fault with its cause (R176, R180, R186). -/
inductive Entry where
  | ok (v : Nat)
  | null
  | bad (cause v : Nat)
  deriving DecidableEq, Repr

def Desc.entry (d : Desc) (v : Nat) : Entry :=
  if v = 0xFFFFFFFF then .null
  else if v < (if d.idxKind = 1 then 2 ^ 24 else d.e d.idxDim) then .ok v else .bad 0 v

/-- The run at coordinates `c`, with entry value `v` for the indirect dimension (R168, R176, R177). -/
def Desc.runAt (d : Desc) (aoff : Nat) (c : List Nat) (v : Option Nat) : Run :=
  let ci := intCoords c
  match v with
  | none => { addr := d.elemBit aoff ci (c.headD 0) / 8, len := d.runLen }
  | some v =>
    let cd : Int := if d.idxKind = 1 then 0 else v
    let a := d.elemBit aoff (ci.set d.idxDim cd) (c.headD 0) / 8
    { addr := (if d.idxKind = 1 then (v : Int) * 65536 else 0) + a, len := d.runLen }

/-- Whether a KV run leaves its page (R163, R177). -/
def Desc.offPage (d : Desc) (aoff : Nat) (c : List Nat) : Bool :=
  d.tier == 5 &&
    let a := (d.runAt aoff c (some 0)).addr
    decide (a < 0 ∨ a + d.runLen > 65536)

/-- Without repeats, in the order first met. -/
def distinct {α : Type} [BEq α] (l : List α) : List α :=
  (l.foldl (fun acc x => if acc.contains x then acc else x :: acc) []).reverse

/-- Numbers of a list with its positions. -/
def enum {α : Type} (l : List α) : List (Nat × α) := (List.range l.length).zip l

/-- The positions of the index tensor that a descriptor's walk reads, each once (R178). -/
def Desc.ixKeys (d : Desc) : List (List Nat) := if d.idxHandle = 0 then [] else distinct (d.walkCoords.map d.ixCoords)

/-- The lines of the entries of a descriptor's index tensor (R178). -/
def Stand.ixLines (t : Stand) (h : Nat) : List Int :=
  let d := t.getDesc h
  distinctLines (d.ixKeys.map fun k => (t.getDesc d.idxHandle).ixBit k / 8)

/-- What a walk gives: the entries it reads, numbered, and its runs. -/
structure Walk where
  ents : List (Nat × List Nat × Entry) := []
  runs : List Run := []

/-- A descriptor walked by the Skidder, with the lines of its index tensor at hand (R175 to R180). Entries are numbered from `n0` on. -/
def Stand.walk (t : Stand) (h aoff n0 : Nat) (got : LineTab) : Walk :=
  let d := t.getDesc h
  let cs := d.walkCoords
  if d.idxHandle = 0 then { runs := cs.map fun c => d.runAt aoff c none }
  else
    let ix := t.getDesc d.idxHandle
    let ents := (enum d.ixKeys).map fun p =>
      (n0 + p.1, p.2, match d.entry (got.elem (ix.ixBit p.2) 32) with
        | .ok v => if cs.any fun c => d.ixCoords c == p.2 && d.offPage aoff c then Entry.bad 2 v else Entry.ok v
        | e => e)
    let runOf := fun c => match ents.find? (fun e => e.2.1 == d.ixCoords c) with
      | some (n, _, .ok v) => { d.runAt aoff c (some v) with ent := n }
      | some (n, _, _) => { addr := 0, len := d.runLen, dead := true, ent := n }
      | none => { addr := 0, len := d.runLen, dead := true }
    { ents := ents, runs := cs.map runOf }

/-- Marks of the entries an instruction read: NULLs, faults and page-map lookups (R179, R180, R186). -/
def State.noteEntries (s : State) (st : Nat) (j : Job) (h : Nat) (w : Walk) : State :=
  let kind := ((s.getStand st).getDesc h).idxKind
  w.ents.foldl (fun s e => match e.2.2 with
    | .null => s.updStand st fun t => { t with ixNull := t.ixNull.add 1 }
    | .ok _ => if kind = 1 then s.updStand st fun t => { t with ixLookup := t.ixLookup.add 1 } else s
    | .bad cause v => s.indexFault st j.id e.1 cause kind h v j.at_) s

/-- A byte of a move's source or destination: its address, `none` under a NULL or fault, and the entry that governs it. -/
def runBytes (rs : List Run) : List (Option Int × Nat) :=
  (rs.map fun r => (List.range r.len).map fun (i : Nat) => (if r.dead then none else some (r.addr + (i : Int)), r.ent)).flatten

/-! Places of a transfer. -/

/-- Tiers reached through a memory controller (R162). -/
def memTier (t : Nat) : Bool := t == 1 || t == 2 || t == 5 || t == 6

/-- Device address of a set offset through the stand's set map (R344); an address outside every unit where the offset or
the slot has none, so that the access is refused with cause 0. -/
def State.wsetAddr (s : State) (st gen : Nat) (x : Int) : Nat :=
  let slot := tget ({} : SetSlot) s.weight.map (2 * st + gen)
  if x < 0 then 2 ^ 48 - 512 else go x.toNat slot.ext
where
  /-- The extent that holds an offset. -/
  go (x : Nat) : List (Nat × Nat) → Nat
    | [] => 2 ^ 48 - 512
    | (f, p) :: es => if x < 65536 * p then f * 65536 + x else go (x - 65536 * p) es

/-- Device address of a byte of a memory-tier tensor other than KV. -/
def State.devAddr (s : State) (st : Nat) (d : Desc) (a : Int) : Nat :=
  if d.tier = 6 then s.wsetAddr st d.genSel a
  else if a < 0 ∨ a ≥ 2 ^ 48 then 2 ^ 48 - 512 else a.toNat

/-- Line names of R425: the name of the line that holds destination address `a`. -/
def State.lineName (s : State) (st : Nat) (d : Desc) (a : Int) : Nat :=
  let k := ((s.getStand st).ctx).getD 0
  match d.tier with
  | 0 => s.deckName k st (a / 512)
  | 3 => s.deckName k d.stand (a / 512)
  | 4 => at_ d.device 45 + at_ d.stand 23 + at_ (a.toNat / 512) 9
  | 5 => s.kvName k (a.toNat / 65536) (a.toNat % 65536 / 512)
  | _ => s.memName k (s.devAddr st d a / 512)

/-- The Deck line that a flit or a request names: beyond the last line where the offset lies outside a Deck, so that the destination
refuses it with cause RANGE (R163). -/
def doffOf (l : Int) : Nat := if 0 ≤ l ∧ l < 12288 then l.toNat else 16383

/-! Sources for which the spec gives no transport (notes/assumptions/18.md): their bytes are at hand at once, under line numbers from
`farLine` on. -/

def farLine : Nat := 2 ^ 39

/-- A byte of a tensor outside the own Deck, and whether it can be read: a KV page is looked up as a controller does (R336). -/
def State.farByte (s : State) (st : Nat) (d : Desc) (seed : Nat) (a : Int) : Byte :=
  match d.tier with
  | 3 => memGet (s.getStand d.stand).mem a.toNat
  | 4 => (Config.freeUnit 4 seed a.toNat).truncate 8
  | 5 => match s.kvLookup (kvReq st d a) (kvUnit a) with
    | .inl x => memGet s.mem.mem (x + a.toNat % 512)
    | .inr _ => 0
  | _ => memGet s.mem.mem (s.devAddr st d a)
where
  kvUnit (a : Int) : Nat := match tfind? (if s.ring.count % 2 = 0 then s.mem.bank0 else s.mem.bank1) (a.toNat / 65536) with
    | some e => unitOf (e.frame * 65536)
    | none => 0
  kvReq (st : Nat) (d : Desc) (a : Int) : Req :=
    { write := false, kv := true, last := false, dtok := 0, doff := 0, stand := st, handle := 0, dom := ((s.getStand st).ctx).getD 0
      cls := d.cls, be := 0, addr := 0, v := a.toNat / 65536, line := a.toNat % 65536 / 512, suspect := false, op := none, grain := none }

/-- Page-map faults of KV bytes read so, each entry once. -/
def State.farFaults (s : State) (st : Nat) (j : Job) (h : Nat) (bs : List (Option Int × Nat)) : State :=
  let d := (s.getStand st).getDesc h
  if d.tier ≠ 5 then s
  else (distinct (bs.filterMap fun b => b.1.map fun a => (a / 65536, b.2))).foldl (fun s p =>
    match s.kvLookup (State.farByte.kvReq s st d (p.1 * 65536)) (State.farByte.kvUnit s (p.1 * 65536)) with
    | .inl _ => s
    | .inr (cause, _) => s.indexFault st j.id p.2 cause 1 h p.1.toNat j.at_) s

/-- The lines a job has at hand, with far bytes placed under their own line numbers, and the addresses these have there. -/
def State.farLines (s : State) (st : Nat) (d : Desc) (seed : Nat) (bs : List (Option Int × Nat)) : LineTab × List (Option Int × Nat) :=
  let vs := bs.map fun b => match b.1 with | some a => s.farByte st d seed a | none => 0
  ((List.range (cdiv vs.length 512)).map fun k => (farLine + k, ofLe (slice vs (512 * k) 512)),
   (enum bs).map fun p => (p.2.1.map fun _ => ((farLine * 512 + p.1 : Nat) : Int), p.2.2))

/-! SK_MOVE. -/

/-- A byte of a move: its destination address, and its source address or `none` under a NULL or a fault. -/
abbrev MByte := Int × Option Int

/-- Line numbers ascending, without repeats (R228). -/
def insLine (l : Int) : List Int → List Int
  | [] => [l]
  | x :: xs => if l < x then l :: x :: xs else if l = x then x :: xs else x :: insLine l xs

def linesUp (as : List Int) : List Int := as.foldl (fun acc a => insLine (a / 512) acc) []

/-- The value of a byte of a move. -/
def LineTab.val (tab : LineTab) (a : Option Int) : Byte :=
  match a with
  | some a => BitVec.ofNat 8 (tab.byte a)
  | none => 0

/-- The payload of one destination line and its enables, one for each 8 bytes; bytes of an enabled word that the move
does not cover are zero (R567). -/
def linePayload (tab : LineTab) (bs : List MByte) : List Byte × Nat :=
  (bs.foldl (fun (p : List Byte) b => p.set (b.1 % 512).toNat (tab.val b.2)) (zeros 512),
   bs.foldl (fun m b => m ||| 2 ^ ((b.1 % 512).toNat / 8)) 0)

/-- The payload bytes' source Deck offsets, for the resend log (R244). -/
def lineSources (bs : List MByte) : List (Nat × Int) :=
  bs.filterMap fun b => b.2.bind fun a => if a < farLine * 512 then some ((b.1 % 512).toNat, a) else none

/-- A line of a move enters its grain sum (R427). -/
def State.grainOne (s : State) (st : Nat) (d : Desc) (g : Nat) (l : Int) (p : List Byte × Nat) (sus : Bool) : State :=
  match s.running st with
  | none => s
  | some k => s.addGrain k g (s.lineName st d (l * 512)) p.2 p.1 (s.standNow st) sus

/-- A flit of a move at its source node, which can leave in local cycle `due` (R222, R227, R228). -/
def State.moveFlit (s : State) (st id seq : Nat) (last sus : Bool) (due : Nat) (p : List Byte × Nat) : Flit :=
  { loc := .node st, inPort := 4, ready := s.time, due := due, seq := seq, last := last, suspect := sus, be := p.2
    payload := p.1, dom := ((s.getStand st).ctx).getD 0, srcEnd := .node st, op := some (st, id) }

/-- A data flit of a move for a line of its destination: a Deck of this or another device, or memory (R228, R257). -/
def State.dataFlit (s : State) (st id : Nat) (mv : Move) (seq : Nat) (last sus : Bool) (due : Nat) (l : Int) (p : List Byte × Nat)
    (src : List (Nat × Int)) : Flit :=
  let d := (s.getStand st).getDesc mv.dst
  let f := { s.moveFlit st id seq last sus due p with src := src, name := some (s.lineName st d (l * 512)) }
  if memTier d.tier then f
  else { f with doff := doffOf l, dtok := mv.dtok, dstStand := d.stand
                dstDev := if d.tier = 4 then d.device else s.logicalId (((s.getStand st).ctx).getD 0) }

/-- Request entries packed into request flits of sixteen (R322). -/
def State.packReqs (s : State) (st id due : Nat) (sus : Bool) (op : Option (Nat × Nat)) (grain : Option (Nat × Nat × Nat)) :
    Nat → Nat → List Req → List Flit
  | 0, _, _ => []
  | n + 1, seq, rs =>
    if rs = [] then []
    else
      let body := padTo 512 ((rs.take 16).map Req.bytes).flatten
      let rest := rs.drop 16
      { s.moveFlit st id seq rest.isEmpty sus due (body, 2 ^ 64 - 1) with
        request := true, op := op, grain := grain, parts := (rs.take 16).map (·.part) } ::
        s.packReqs st id due sus op grain n (seq + 1) rest

/-- A request entry for a line of a memory-tier tensor (R322). -/
def State.moveReq (s : State) (st handle : Nat) (d : Desc) (write : Bool) (a : Int) (doff dtok be : Nat) (part : ReqPart) : Req :=
  { write := write, kv := d.tier == 5, last := false, dtok := dtok, doff := doff, stand := st, handle := handle
    dom := ((s.getStand st).ctx).getD 0, cls := d.cls, be := be, addr := if d.tier = 5 then 0 else s.devAddr st d a / 512 * 512
    v := a.toNat / 65536, line := a.toNat % 65536 / 512, suspect := false, op := none, grain := none, part := part }

/-- The last entry of a transfer marked so. -/
def markLast : List Req → List Req
  | [] => []
  | [r] => [{ r with last := true }]
  | r :: rs => r :: markLast rs

/-- Consecutive bytes of a source line as runs: destination and source offsets in their lines, and length. -/
def runsOf : List (Nat × Nat) → List (Nat × Nat × Nat)
  | [] => []
  | (x, y) :: ps =>
    match runsOf ps with
    | (x', y', n) :: rs => if x' = x + 1 ∧ y' = y + 1 then (x, y, n + 1) :: rs else (x, y, 1) :: (x', y', n) :: rs
    | [] => [(x, y, 1)]

/-- What the lines read from memory bring to one destination line: the source line with its part (R322, R567). Bytes under a NULL go
with the first. -/
def lineParts (bs : List (Int × Option Int × Nat)) (inst issued : Nat) (op : Option (Nat × Nat)) : List (Int × ReqPart) :=
  let live := bs.filterMap fun b => b.2.1.map fun a => ((b.1 % 512).toNat, a, b.2.2)
  let dead := bs.filterMap fun b => if b.2.1.isNone then some (b.1 % 512).toNat else none
  let srcs := distinct (live.map (·.2.1 / 512))
  let bytes := fun (i : Nat) (l : Int) => (live.filter fun b => decide (b.2.1 / 512 = l)).map (·.1) ++ (if i = 0 then dead else [])
  (enum srcs).map fun p =>
    let mine := bytes p.1 p.2
    let words := mine.foldl (fun m b => m ||| (255 * 2 ^ (8 * (b / 8)))) 0
    let others := ((enum srcs).filter (·.1 != p.1)).map fun q => bytes q.1 q.2
    (p.2, { runs := runsOf ((live.filter fun b => decide (b.2.1 / 512 = p.2)).map fun b => (b.1, (b.2.1 % 512).toNat))
            dead := (runsOf (if p.1 = 0 then dead.map fun b => (b, b) else [])).map fun r => (r.1, r.2.2)
            keep := words &&& others.flatten.foldl (fun m b => m ||| 2 ^ b) 0
            inst := inst, ent := ((live.find? fun b => decide (b.2.1 / 512 = p.2)).map (·.2.2)).getD 0, issued := issued, op := op })

/-- The bytes of a move, each destination address with its source address and the entry that governs that; bytes that a NULL or
faulting destination entry governs go nowhere (R179, R180). -/
def movePairs (dst src : List Run) : List (Int × Option Int × Nat) :=
  ((runBytes dst).zip (runBytes src)).filterMap fun p => p.1.1.map fun a => (a, p.2.1, p.2.2)

/-- The line reads of a move's source, in stream order: each line once, for a GATHER layout once in each assembled line (R137, R173).
Bytes under a NULL take the cycles of as many lines without an access (DEDUCED, notes/assumptions/51.md). -/
def sourceReads (d : Desc) (as : List (Option Int)) : List (Option Int) :=
  let plain := fun (as : List (Option Int)) =>
    let r := as.foldl (fun (r : List (Option Int) × Nat) a => match a with
      | some a => (if r.1.contains (some (a / 512)) then r.1 else some (a / 512) :: r.1, 0)
      | none => (if r.2 % 512 = 0 then none :: r.1 else r.1, r.2 + 1)) ([], 0)
    r.1.reverse
  if d.layout = 4 then ((List.range (cdiv as.length 512)).map fun k => plain ((as.drop (512 * k)).take 512)).flatten else plain as

/-- Cycles beyond a plain read's that the delivery of stream byte `i` takes: a transposed tile delivers its line `j` that much later
(R136). -/
def lateBy (d : Desc) (i : Nat) : Nat :=
  if d.layout = 2 then i % 2048 / 512 else if d.layout = 3 then i % 4096 / 512 else 0

/-- A move's bytes by destination line, in the order given, with the lateness of the last delivered one (a transposed line's). -/
def groupLines (d : Desc) (order : List Int) (ps : List (Int × Option Int)) : List (Int × Nat × List MByte) :=
  order.map fun l =>
    let mine := (enum ps).filter fun p => decide (p.2.1 / 512 = l)
    (l, (mine.map fun p => lateBy d p.1).foldl max 0, mine.map (·.2))

/-- The position in the reads after which a destination line has all it needs. -/
def neededBy (reads : List (Option Int)) (bs : List MByte) : Nat :=
  (bs.filterMap fun b => b.2.map fun a => (reads.idxOf (some (a / 512)))).foldl max 0

/-- Acts of the reads of a move from local cycle `c0` on. -/
def State.moveReads (s : State) (st c0 : Nat) (reads : List (Option Int)) : List (Nat × Act) :=
  (enum reads).filterMap fun p => p.2.map fun l => (s.after st c0 p.1, Act.read portSK l)

/-- A job goes on with what it has resolved: its kind, the lines at hand, and further acts. -/
def State.goOnJob (s : State) (st id : Nat) (k : JobKind) (more : LineTab) (acts : List (Nat × Act)) : State :=
  s.updStand st fun t => t.updJob id fun j => { (j.plan acts) with kind := k, got := more.foldl (fun g e => tput g e.1 e.2) j.got }

/-- The operation of a move awaits its job and `n` things more. -/
def State.awaits (s : State) (st id n : Nat) : State :=
  s.updStand st fun t => t.updOp id fun o => { o with kind := .await (n + 1) }

/-- A move into the own Deck from lines at hand: reads from `c0` on, and the writes planned with the last of them (R203). -/
def State.moveOwn (s : State) (st : Nat) (j : Job) (mv : Move) (c0 : Nat) (more : LineTab) (reads : List (Option Int))
    (ps : List (Int × Option Int)) : State :=
  let sd := (s.getStand st).getDesc mv.src
  let ls := groupLines sd (distinctLines (ps.map (·.1))) ps
  let last := s.after st c0 (reads.length - 1)
  let ls := ls.map fun x => (x.1, x.2.1 + neededBy reads x.2.2, x.2.2)
  s.goOnJob st j.id (.move mv true ls reads.length) more (s.moveReads st c0 reads ++ [(last, .stage 1)])

/-- The writes of a move into the own Deck: from max(L, 4) cycles after the first read on, one a cycle, none before its data is
delivered (R124, R136, R137, R203). -/
def State.moveWrites (s : State) (st : Nat) (j : Job) (mv : Move) (lines : List (Int × Nat × List MByte)) (n : Nat) : State :=
  let op := s.standOp st
  let d := (s.getStand st).getDesc mv.dst
  -- the kept cycle of the first read, the last being now
  let k0 := keptIdx op (s.standNow st) + 1 - max n 1
  let plan := lines.foldl (fun (r : List (Nat × Act) × Nat) x =>
    let w := max r.2 (k0 + 4 + x.2.1)
    let im := lineImage (x.2.2.map fun b => (b.1, LineTab.val j.got b.2)) x.1
    (r.1 ++ [(keptAt op w, Act.write portSK x.1 im.1 im.2)], w + 1)) ([], k0 + max n 4)
  let s := lines.foldl (fun s x => s.grainOne st d mv.grain x.1 (linePayload j.got x.2.2) j.suspect) s
  s.updStand st fun t => t.updJob j.id fun j => j.plan plan.1

/-- A move whose lines leave the stand: request flits ahead of the data where the destination is memory, then a flit for each line once
its reads are made (R222, R228, R322). -/
def State.moveOut (s : State) (st : Nat) (j : Job) (mv : Move) (c0 : Nat) (more : LineTab) (reads : List (Option Int))
    (ps : List (Int × Option Int)) (ents : List (Int × Nat)) : State :=
  let now := s.standNow st
  let d := (s.getStand st).getDesc mv.dst
  let sd := (s.getStand st).getDesc mv.src
  let ls := groupLines sd (linesUp (ps.map (·.1))) ps
  let reqs := if memTier d.tier then
      let rs := markLast (ls.map fun x => s.moveReq st mv.dst d true (x.1 * 512) 0 0 (linePayload [] x.2.2).2
        { inst := j.id, ent := ((ents.find? fun e => decide (e.1 / 512 = x.1)).map (·.2)).getD 0, issued := j.at_ })
      s.packReqs st j.id (s.after st now 2) j.suspect none none rs.length 0 rs
    else []
  -- each line's flit is made with the last read that it or a line before it needs
  let at_ := (ls.foldl (fun (r : List Nat × Nat) x => let m := max r.2 (neededBy reads x.2.2); (r.1 ++ [m], m)) ([], 0)).1
  let s : State := { s with net := { s.net with flits := s.net.flits ++ reqs } }
  let acts := planActs ((enum at_).map fun p => (s.after st c0 p.2, Act.stage (p.1 + 2))) (s.moveReads st c0 reads)
  (s.goOnJob st j.id (.move mv false ls reqs.length) more acts).awaits st j.id ls.length

/-- The flit of line `k` of a move: it can leave 4 cycles after its reads (R222). -/
def State.moveLine (s : State) (st : Nat) (j : Job) (mv : Move) (lines : List (Int × Nat × List MByte)) (reqs k : Nat) : State :=
  match lines[k]? with
  | none => s
  | some x =>
    let p := linePayload j.got x.2.2
    let s := s.grainOne st ((s.getStand st).getDesc mv.dst) mv.grain x.1 p j.suspect
    let f := s.dataFlit st j.id mv (reqs + k) (k + 1 == lines.length) j.suspect (s.after st (s.standNow st) (4 + x.2.1)) x.1 p (lineSources x.2.2)
    { s with net := { s.net with flits := s.net.flits ++ [f] } }

/-- A move from memory to a Deck: read requests for its lines, in ascending order of the lines they fill (R228, R322). A line that
only NULL and faulting entries govern is written as zeros by the Skidder itself (R179). -/
def State.moveIn (s : State) (st : Nat) (j : Job) (mv : Move) (c0 : Nat) (ps : List (Int × Option Int × Nat)) : State :=
  let now := s.standNow st
  let t := s.getStand st
  let sd := t.getDesc mv.src
  let d := t.getDesc mv.dst
  let own := decide (d.tier = 0)
  let pt := ((t.ops.find? (·.id == j.id)).map (·.pt)).getD 0
  let byLine := (linesUp (ps.map (·.1))).map fun l => (l, ps.filter fun p => decide (p.1 / 512 = l))
  let feeds := (byLine.map fun x => (lineParts x.2 j.id j.at_ (if own then some (st, j.id) else none)).map fun q => (x.1, q)).flatten
  let dead := byLine.filter fun x => x.2.all fun p => p.2.1.isNone
  let rs := markLast (feeds.map fun q =>
    s.moveReq st mv.src sd false (q.2.1 * 512) (doffOf q.1) (if own then pt else mv.dtok) 0 q.2.2)
  let dstStand := if own then st else d.stand
  let dev := if d.tier = 4 then d.device else s.logicalId ((t.ctx).getD 0)
  let grain := (s.running st).map fun k => (k, mv.grain, at_ dev 45 + at_ dstStand 23)
  let reqs := s.packReqs st j.id (s.after st now 2) j.suspect (if own then none else some (st, j.id)) grain rs.length 0 rs
  let bytes := fun (x : List (Int × Option Int × Nat)) => x.map fun p => (p.1, p.2.1)
  let s := dead.foldl (fun s x => s.grainOne st d mv.grain x.1 (linePayload [] (bytes x.2)) j.suspect) s
  let zs := if own then [] else (enum dead).map fun x =>
    s.dataFlit st j.id mv x.1 (x.1 + 1 == dead.length) j.suspect (s.after st now 4) x.2.1 (linePayload [] (bytes x.2.2)) []
  let s : State := { s with net := { s.net with flits := s.net.flits ++ reqs ++ zs } }
  let acts := if !own then [] else (enum dead).map fun x =>
    let im := lineImage (x.2.2.map fun p => (p.1, (0 : Byte))) x.2.1
    (s.after st c0 x.1, Act.write portSK x.2.1 im.1 im.2)
  let s := (s.goOnJob st j.id (.move mv own [] 0) [] acts).awaits st j.id (if own then min 1 reqs.length else reqs.length + zs.length)
  -- the read's landing posts the token (R322): the operation posts it only where no line is read
  if own ∧ reqs ≠ [] then s.updStand st fun t => t.updOp j.id fun o => { o with pt := 0 } else s

/-- The index entries of a move are at hand: its bytes are known, and it goes on by the tiers of its ends (R178, R228, R322). -/
def State.moveStart (s : State) (st : Nat) (j : Job) (mv : Move) : State :=
  let t := s.getStand st
  let now := s.standNow st
  let sd := t.getDesc mv.src
  let d := t.getDesc mv.dst
  let w1 := t.walk mv.src mv.sOff 0 j.got
  let w2 := t.walk mv.dst mv.dOff w1.ents.length j.got
  let s := (s.noteEntries st j mv.src w1).noteEntries st j mv.dst w2
  let c0 := if t.ixLines mv.src ++ t.ixLines mv.dst = [] then now else s.after st now 1
  let far := sd.tier ≠ 0 && !(memTier sd.tier && !memTier d.tier)
  let s := if far then s.farFaults st j mv.src (runBytes w1.runs) else s
  let j := ((s.getStand st).getJob j.id).getD j
  let ents := ((runBytes w2.runs).filterMap fun b => b.1.map fun a => (a, b.2))
  if memTier sd.tier && !memTier d.tier then s.moveIn st j mv c0 (movePairs w2.runs w1.runs)
  else if !far then
    let ps := (movePairs w2.runs w1.runs).map fun p => (p.1, p.2.1)
    let reads := sourceReads sd (ps.map (·.2))
    if d.tier = 0 then s.moveOwn st j mv c0 [] reads ps else s.moveOut st j mv c0 [] reads ps ents
  else
    let (seed, s) := s.takeFree
    let (more, bs) := s.farLines st sd seed (runBytes w1.runs)
    let ps := ((runBytes w2.runs).zip bs).filterMap fun p => p.1.1.map fun a => (a, p.2.1)
    if d.tier = 0 then s.moveOwn st j mv c0 more [] ps else s.moveOut st j mv c0 more [] ps ents

/-- A Skidder instruction issues (R43, R203): its job begins with the reads of its index tensors. -/
def State.skIssue (stage : Stage) (s : State) (st : Nat) (h : Hdr) (kind : JobKind) (ix : List Int) : State :=
  let t := s.getStand st
  let now := s.standNow st
  let tokT := s.tokTaint st h none
  let s := s.beginIssue st 2 h none 1
  let s := (s.addOp st 2 h now tokT (.await 1)).noteTaint st 2 (if tokT then h.wt else 0) tokT
  s.startJob stage st t.nextOp 2 kind tokT (s.readsFrom st portSK now ix ++ [(s.after st now (ix.length - 1), .stage 0)])

/-! SK_ATOM. -/

/-- Elements of a walk: byte addresses of `w`-byte elements. -/
def runElems (w : Nat) (rs : List Run) : List (Option Int) :=
  (rs.map fun r => (List.range (r.len / w)).map fun (i : Nat) => if r.dead then none else some (r.addr + ((i * w : Nat) : Int))).flatten

/-- The elements of SRC as lines at hand where it lies outside the own Deck (notes/assumptions/18.md), and their addresses there. -/
def State.atomSources (s : State) (st src : Nat) (els : List (Option Int)) : State × LineTab × List (Option Int) :=
  let d := (s.getStand st).getDesc src
  if src = 0 ∨ d.tier = 0 then (s, [], els)
  else
    let k := d.bits / 8
    let (seed, s) := s.takeFree
    let bs := (els.map fun e => (List.range k).map fun (i : Nat) => (e.map fun a => a + (i : Int), 0)).flatten
    let r := s.farLines st d seed bs
    (s, r.1, (enum els).map fun p => p.2.map fun _ => ((farLine * 512 + p.1 * k : Nat) : Int))

/-- The index entries of an SK_ATOM are at hand: its operands are read, and its atomics follow, two cycles each; a remote one sends
a packet in each cycle (R140, R203, R239). -/
def State.atomStart (s : State) (st : Nat) (j : Job) (op tgt src ret aoff imm : Nat) : State :=
  let t := s.getStand st
  let now := s.standNow st
  let w1 := t.walk tgt aoff 0 j.got
  let w2 := if src = 0 then {} else t.walk src 0 w1.ents.length j.got
  let w3 := if ret = 0 then {} else t.walk ret 0 (w1.ents.length + w2.ents.length) j.got
  let s := ((s.noteEntries st j tgt w1).noteEntries st j src w2).noteEntries st j ret w3
  let td := t.getDesc tgt
  let c0 := if t.ixLines tgt ++ (if src = 0 then [] else t.ixLines src) ++ (if ret = 0 then [] else t.ixLines ret) = [] then now
    else s.after st now 1
  let (s, more, sEls) := s.atomSources st src (runElems ((t.getDesc src).bits / 8) w2.runs)
  let rEls := runElems ((t.getDesc ret).bits / 8) w3.runs
  let els := (enum (runElems (atomicBytes op) w1.runs)).map fun p =>
    -- the tiers that no packet and no port reaches are refused with cause RANGE (DESIGN CHOICE, notes/assumptions/53.md)
    (if td.tier = 0 ∨ td.tier = 3 ∨ td.tier = 4 then p.2 else p.2.map fun _ => (deckSize : Int), sEls.getD p.1 none, rEls.getD p.1 none)
  let reads := if more = [] then (distinctLines (sEls.filterMap fun a => a)).map some else []
  let remote := td.tier = 3 ∨ td.tier = 4
  let a0 := s.after st c0 reads.length
  let step := if remote then 1 else 2
  let atoms := (enum els).filterMap fun p => p.2.1.map fun _ => (s.after st a0 (step * p.1), Act.atomic p.1)
  let fin := if remote then [] else [(s.after st a0 (2 * els.length - 1), Act.stage 1)]
  let s := s.goOnJob st j.id (.atom op tgt src ret aoff imm els []) more (planActs fin (s.moveReads st c0 reads ++ atoms))
  s.awaits st j.id (if remote then atoms.length else 0)

/-- The operand of an element of an SK_ATOM (R216). -/
def atomOperand (d : Desc) (got : LineTab) (src imm : Nat) (a : Option Int) : Nat :=
  if src = 0 then wrapInt 64 (sext 32 imm)
  else match a with
    | some a => wrapInt 64 (sext d.bits (got.elem (8 * a) d.bits))
    | none => 0

/-- Atomic `i` of an SK_ATOM enters SK, or its packet the node's buffer (R139, R140, R239). -/
def State.atomOne (s : State) (st : Nat) (j : Job) (op tgt src ret aoff imm : Nat) (els : List (Option Int × Option Int × Option Int))
    (olds : List (Nat × Nat × Nat)) (i : Nat) : State :=
  let t := s.getStand st
  let td := t.getDesc tgt
  let e := els.getD i (none, none, none)
  let x := atomOperand (t.getDesc src) j.got src imm e.2.1
  match e.1 with
  | none => s
  | some a =>
    if td.tier = 3 ∨ td.tier = 4 then
      let (seed, s) := s.takeFree
      let r := tget 0 (s.getNode (.node st)).routes (Config.freeAtomRoute seed).toNat
      let tag : Tag := { st := st, op := j.id, ret := e.2.2.map fun o => (o, (t.getDesc ret).bits / 8), width := atomicBytes op }
      s.sendBy 0 (.node st) r ((t.ctx).getD 0) (.atomic op a x tag) none (some (st, j.id))
    else
      let now := s.standNow st
      let (s, old, m) := s.atomic st op a x now false
      (s.goOnJob st j.id (.atom op tgt src ret aoff imm els (olds ++ [(i, old, s.after st now 4)])) [] []).jobMet st j.id m

/-- The bytes of RET: each old value in its element, extended or cut (R216); nothing where the target was under a NULL and the value is
zero (R179). -/
def atomRets (k w : Nat) (els : List (Option Int × Option Int × Option Int)) (olds : List (Nat × Nat × Nat)) : List (Nat × Int × List Byte) :=
  (enum els).filterMap fun p => p.2.2.2.map fun a =>
    (p.1, a, leBytes k (wrapInt (8 * k) (sext (8 * w) (((olds.find? (·.1 == p.1)).map (·.2.1)).getD 0))))

/-- Bytes written to a tensor outside the own Deck at once (notes/assumptions/18.md). -/
def State.farWrite (s : State) (st : Nat) (d : Desc) (a : Int) (bs : List Byte) : State :=
  match d.tier with
  | 3 => s.updStand d.stand fun t => { t with mem := memWrite t.mem a.toNat bs }
  | 4 => s
  | 5 => match s.kvLookup (State.farByte.kvReq s st d a) (State.farByte.kvUnit s a) with
    | .inl x => { s with mem := { s.mem with mem := memWrite s.mem.mem (x + a.toNat % 512) bs } }
    | .inr _ => s
  | _ => { s with mem := { s.mem with mem := memWrite s.mem.mem (s.devAddr st d a) bs } }

/-- The last atomic of a local SK_ATOM is in its second cycle: the RET lines follow, each once its old values have reached the Skidder
(R140); without RET the instruction completes 2 cycles per atomic and 3 more after its issue, or once the last new value is visible,
where that is later (R203; DEDUCED, notes/assumptions/54.md). -/
def State.atomEnd (s : State) (st : Nat) (j : Job) (op src ret : Nat) (els : List (Option Int × Option Int × Option Int))
    (olds : List (Nat × Nat × Nat)) : State :=
  let t := s.getStand st
  let d := t.getDesc ret
  let o := s.standOp st
  let k := keptIdx o (s.standNow st)
  if ret = 0 then
    let reads := if src = 0 ∨ (t.getDesc src).tier ≠ 0 then 0 else (distinctLines (els.filterMap (·.2.1))).length
    s.updStand st fun t => t.updOp j.id fun x => { x with due := keptAt o (k - 1 + max (5 - reads) 2) }
  else
    let outs := atomRets (d.bits / 8) (atomicBytes op) els olds
    if d.tier ≠ 0 then outs.foldl (fun s e => s.farWrite st d e.2.1 e.2.2) s
    else
      let ws : Writes := (outs.map fun e => (enum e.2.2).map fun q => (e.2.1 + (q.1 : Int), q.2)).flatten
      let plan := (distinctLines (ws.map (·.1))).foldl (fun (r : List (Nat × Act) × Nat) l =>
        let ready := (olds.filter fun x => outs.any fun e => e.1 == x.1 && decide (e.2.1 / 512 = l)).map (·.2.2)
        let w := max r.2 (keptIdx o (ready.foldl max 0))
        let im := lineImage ws l
        (r.1 ++ [(keptAt o w, Act.write portSK l im.1 im.2)], w + 1)) ([], k + 1)
      s.updStand st fun t => t.updJob j.id fun j => j.plan plan.1

/-! SK_SCRUB. -/

/-- The corrected units of a line as a read decodes them: the image and the enables of a rewrite (R148). -/
def Stand.corrections (t : Stand) (cls a : Nat) (inj : Option (Nat × List Byte)) : Nat × Nat :=
  let k := unitBytes cls
  ((List.range (512 / k)).filterMap fun u =>
    let r := t.readUnit cls a u inj
    if r.1 = 1 then some (ofLe r.2 * 2 ^ (8 * u * k), (2 ^ k - 1) * 2 ^ (u * k)) else none).foldl (fun p q => (p.1 + q.1, p.2 + q.2)) (0, 0)

/-- One cycle of an SK_SCRUB (R148): the first rewrite that is due, or else the next line read. -/
def State.scrubOne (s : State) (st : Nat) (j : Job) (next : Int) (left : Nat) (wb : List (Nat × Int × Nat × Nat)) : State :=
  let now := s.standNow st
  let turn := s.after st now 1
  let goOn := fun (s : State) (next : Int) (left : Nat) (wb : List (Nat × Int × Nat × Nat)) =>
    let acts := if left > 0 then [(turn, Act.atomic 0)] else match wb with | (c, _) :: _ => [(max c turn, Act.atomic 0)] | [] => []
    s.goOnJob st j.id (.scrub next left wb) [] acts
  let read := fun (s : State) =>
    if left = 0 then s
    else
      let t := s.getStand st
      let a := (next * 512).toNat
      let b := bankOf a
      let inj := s.injection st b (lineOf a)
      let (img, be) := if (t.refusal portSK (next * 512) now false false).isSome ∨ (t.intact ∧ inj = none) then (0, 0)
        else t.corrections (t.cls_ b) a inj
      let s := s.jobRead st j.id portSK next
      goOn s (next + 1) (left - 1) (if be = 0 then wb else wb ++ [(s.after st now 4, next, img, be)])
  match wb with
  | (c, l, img, be) :: rest => if c ≤ now then goOn (s.jobWrite st j.id portSK l img be) next left rest else read s
  | [] => read s

/-! SK_BIN. -/

/-- What SK_BIN gathers while it visits the keys (R183): demands, lists, positions, faults by key number, and overflows. -/
structure Bins where
  counts : Tab Nat := []
  lists : Tab Nat := []
  pos : List Nat := []
  faults : List (Nat × Nat) := []
  excess : List Nat := []

def nullEntry : Nat := 0xFFFFFFFF

/-- Key `n` (R183). `row` is its row number, `e` the key count, `q` the capacity. -/
def Bins.visit (e q b row n : Nat) (x : Bins) (v : Nat) : Bins :=
  if v = nullEntry then { x with pos := nullEntry :: x.pos }
  else if v ≥ e then { x with pos := nullEntry :: x.pos, faults := (n, v) :: x.faults }
  else
    let k := tget 0 x.counts v
    let x := { x with counts := tput x.counts v (k + 1) }
    if k < q then { x with lists := tput x.lists (v * q + k) ((b + row) % 2 ^ 32), pos := k :: x.pos }
    else { x with pos := nullEntry :: x.pos, excess := v :: x.excess }

/-- The keys in turn, `f` to a row. -/
def binKeys (e q b f : Nat) (keys : List Nat) : Bins :=
  let x := (enum keys).foldl (fun x p => Bins.visit e q b (p.1 / max f 1) p.1 x p.2) {}
  { x with pos := x.pos.reverse, faults := x.faults.reverse, excess := x.excess.reverse }

/-- Word writes at the elements of an INT32 tensor, in stream order. -/
def int32Writes (d : Desc) (vs : List Nat) : Writes :=
  ((enum vs).map fun p =>
    let c := d.coords p.1
    let a := d.elemBit 0 (intCoords c) (c.headD 0) / 8
    (enum (leBytes 4 p.2)).map fun q => (a + (q.1 : Int), q.2)).flatten

/-- Bit addresses of the elements of an INT32 tensor, in stream order. -/
def Desc.elemBits (d : Desc) : List Int := (List.range d.count).map fun p => let c := d.coords p; d.elemBit 0 (intCoords c) (c.headD 0)

/-- The lists, counts and positions of an SK_BIN (R183). -/
def Stand.binWrites (t : Stand) (list pos : Nat) (x : Bins) : Writes :=
  let ld := t.getDesc list
  let q := ld.e 0
  let e := ld.e 1
  int32Writes ld ((List.range (e * q)).map fun i => tget nullEntry x.lists i) ++
  int32Writes (t.getDesc (list + 1)) ((List.range e).map fun v => tget 0 x.counts v) ++
  (if pos = 0 then [] else int32Writes (t.getDesc pos) x.pos)

/-- The faulting keys and the overflow of an SK_BIN are recorded (R180, R184, R186). -/
def State.noteBins (s : State) (st : Nat) (j : Job) (key : Nat) (x : Bins) : State :=
  let s := x.faults.foldl (fun s p => s.indexFault st j.id p.1 0 0 key p.2 j.at_) s
  match x.excess with
  | [] => s
  | v :: _ =>
    let s := s.updStand st fun t =>
      { t.markJob j.id true with
        ixOver := t.ixOver.add x.excess.length
        ixRec := if x.faults = [] then t.ixRec.latch (at_ 3 60 + at_ key 44) s.ring.count (at_ v 32 + j.at_ % 2 ^ 20) else t.ixRec }
    match (s.getStand st).ctx with
    | some d => s.raiseFail 0x0209 d (standUnit st 2) (s.standNow st) key x.excess.length
    | none => s

/-- Cycles that an SK_BIN occupies the Skidder (R185). -/
def Stand.binTime (t : Stand) (key list : Nat) : Nat :=
  let ld := t.getDesc list
  (t.getDesc key).count + cdiv (4 * ld.e 1 * ld.e 0) 512 + cdiv (4 * ld.e 1) 512 + 16

/-- The keys of an SK_BIN are at hand: its lines are written in the last cycles of its occupancy (DESIGN CHOICE,
notes/assumptions/52.md). -/
def State.binStage (s : State) (st : Nat) (j : Job) (key list pos b : Nat) : State :=
  let t := s.getStand st
  let kd := t.getDesc key
  let ld := t.getDesc list
  let x := binKeys (ld.e 1) (ld.e 0) b (kd.e 0) (kd.elemBits.map fun a => LineTab.elem j.got a 32)
  let s := s.noteBins st j key x
  let ws := t.binWrites list pos x
  let ls := distinctLines (ws.map (·.1))
  let o := s.standOp st
  -- the kept cycle in which the instruction would have issued had no access been held
  let i := keptIdx o (s.standNow st) + 1 - (distinctLines (kd.elemBits.map (· / 8))).length
  let w0 := max (keptIdx o (s.standNow st) + 1) (i + t.binTime key list - ls.length)
  s.updStand st fun t => t.updJob j.id fun j => j.plan ((enum ls).map fun p =>
    let im := lineImage ws p.2
    (keptAt o (w0 + p.1), Act.write portSK p.2 im.1 im.2))

/-! Stages of the Skidder's instructions. -/

def skStage : Stage := fun st j a s =>
  match a, j.kind with
  | .stage 0, .move mv _ _ _ => s.moveStart st j mv
  | .stage 1, .move mv _ ls n => s.moveWrites st j mv ls n
  | .stage k, .move mv _ ls n => s.moveLine st j mv ls n (k - 2)
  | .stage 0, .atom op tgt src ret aoff imm _ _ => s.atomStart st j op tgt src ret aoff imm
  | .stage _, .atom op _ src ret _ _ els olds => s.atomEnd st j op src ret els olds
  | .atomic i, .atom op tgt src ret aoff imm els olds => s.atomOne st j op tgt src ret aoff imm els olds i
  | .atomic _, .scrub next left wb => s.scrubOne st j next left wb
  | .stage _, .bin key list pos b => s.binStage st j key list pos b
  | _, _ => s

/-! The instructions. -/

def skMoveEffect (st : Nat) (h : Hdr) (src dst : Nat) (sEn : Bool) (sReg : Nat) (dEn : Bool) (dReg dtok grain : Nat) (s : State) :
    State :=
  let t := s.getStand st
  let mv : Move := { src := src, dst := dst, sOff := t.aoff sEn sReg, dOff := t.aoff dEn dReg, dtok := dtok, grain := grain }
  State.skIssue skStage s st h (.move mv (decide ((t.getDesc dst).tier = 0)) [] 0) (t.ixLines src ++ t.ixLines dst)

/-- SK_MOVE (R203, R216, R228, R322). -/
def execSkMove (st : Nat) (h : Hdr) (src dst : Nat) (sEn : Bool) (sReg : Nat) (dEn : Bool) (dReg dtok grain : Nat) (s : State) :
    Host.Outcome State Fault Refusal :=
  s.issue st 2 (.skMove st h src dst sEn sReg dEn dReg dtok grain) (skMoveEffect st h src dst sEn sReg dEn dReg dtok grain)

def skAtomEffect (st : Nat) (h : Hdr) (op tgt src ret : Nat) (arEn : Bool) (areg imm : Nat) (s : State) : State :=
  let t := s.getStand st
  let ix := fun (x : Nat) => if x = 0 then [] else t.ixLines x
  State.skIssue skStage s st h (.atom op tgt src ret (t.aoff arEn areg) imm [] []) (t.ixLines tgt ++ ix src ++ ix ret)

/-- SK_ATOM (R138 to R141, R203, R216). -/
def execSkAtom (st : Nat) (h : Hdr) (op tgt src ret : Nat) (arEn : Bool) (areg imm : Nat) (s : State) :
    Host.Outcome State Fault Refusal :=
  s.issue st 2 (.skAtom st h op tgt src ret arEn areg imm) (skAtomEffect st h op tgt src ret arEn areg imm)

/-- A bank instruction issues: what it does takes effect in the next cycle (R128, R151), and it completes `k` cycles after its issue. -/
def State.bankIssue (s : State) (st : Nat) (h : Hdr) (x : Later) (k : Nat) : State :=
  let now := s.standNow st
  let tokT := s.tokTaint st h none
  let next := s.after st now 1
  let s := s.beginIssue st 2 h none 1
  let s := s.updStand st fun t => { t with later := t.later ++ [(next, x)] }
  (s.addOp st 2 h (s.after st now k) tokT .plain).noteTaint st 2 (if tokT then h.wt else 0) tokT

/-- SK_OWN (R128). -/
def execSkOwn (st : Nat) (h : Hdr) (owner mask : Nat) (s : State) : Host.Outcome State Fault Refusal :=
  s.issue st 2 (.skOwn st h owner mask) fun s => s.bankIssue st h (.own owner mask) 1

/-- R151: cycles of a transition. -/
def pwrTime (src dst : Nat) : Nat :=
  match src, dst with
  | 2, 1 => 16 | 1, 2 => 64 | 2, 0 => 16 | 1, 0 => 16 | 0, 2 => 2500 | 0, 1 => 2516
  | _, _ => 0

/-- A bank whose transition to `dst` ends at local count `fin` (R151): nothing where it is in that state already. -/
def Stand.startPwr (t : Stand) (dst fin b : Nat) : Stand :=
  if t.power b = dst then t else { t with pwr := tput t.pwr b 3, pwrTo := tput t.pwrTo b (dst, fin) }

/-- R150: a bank that goes OFF loses its contents: they return as zero with valid codes. -/
def Stand.loseBank (t : Stand) (b : Nat) : Stand :=
  let lo := b * bankBytes
  let hi := lo + bankBytes
  { t with mem := memClear t.mem lo hi, flip := memClear t.flip lo hi, bad := t.bad.filter fun o => !decide (lo ≤ o ∧ o < hi) }

/-- The transitions of the banks of a mask begin (R151). -/
def Stand.setPwr (mask dst : Nat) (fin : Nat → Nat) : Nat → Stand → Stand
  | 0, t => t
  | n + 1, t =>
    let t := Stand.setPwr mask dst fin n t
    if bit mask n then t.startPwr dst (fin (pwrTime (t.power n) dst)) n else t

/-- SK_PWR (R150 to R152). -/
def execSkPwr (st : Nat) (h : Hdr) (state mask : Nat) (s : State) : Host.Outcome State Fault Refusal :=
  s.issue st 2 (.skPwr st h state mask) fun s =>
    let t := s.getStand st
    let slow := ((List.range 32).map fun b => if bit mask b then pwrTime (t.power b) state else 0).foldl max 0
    s.bankIssue st h (.power state mask) (1 + slow)

/-- A bank's transition ends, where its time has come (R151). -/
def Stand.endPwr (t : Stand) (b now : Nat) : Stand :=
  match tfind? t.pwrTo b with
  | some (dst, fin) =>
    if t.power b = 3 ∧ fin ≤ now then
      let t := { t with pwr := tput t.pwr b dst, pwrTo := tdel t.pwrTo b }
      if dst = 0 then t.loseBank b else t
    else t
  | none => t

/-- BANK_TRANSITION_DONE (R151). -/
def execBankTransitionDone (st bank : Nat) (s : State) : Host.Outcome State Fault Refusal :=
  .next (s.updStand st fun t => t.endPwr bank (s.standNow st))

/-- SK_SCRUB (R148): in every Skidder cycle from its issue on. -/
def skScrubEffect (st : Nat) (h : Hdr) (first lines : Nat) (s : State) : State :=
  let t := s.getStand st
  let now := s.standNow st
  let tokT := s.tokTaint st h none
  let s := s.beginIssue st 2 h none 1
  let s := (s.addOp st 2 h now tokT (.await 1)).noteTaint st 2 (if tokT then h.wt else 0) tokT
  s.startJob skStage st t.nextOp 2 (.scrub ((first / 512 : Nat) : Int) lines []) tokT [(now, .atomic 0)]

/-- SK_SCRUB (R148). -/
def execSkScrub (st : Nat) (h : Hdr) (first lines : Nat) (s : State) : Host.Outcome State Fault Refusal :=
  s.issue st 2 (.skScrub st h first lines) (skScrubEffect st h first lines)

/-- SK_BIN (R182 to R185): its key lines are read from its issue on, its occupancy and its completion are fixed. -/
def skBinEffect (st : Nat) (h : Hdr) (key list pos b : Nat) (s : State) : State :=
  let t := s.getStand st
  let now := s.standNow st
  let tokT := s.tokTaint st h none
  let occ := t.binTime key list
  let ls := distinctLines ((t.getDesc key).elemBits.map (· / 8))
  let s := s.beginIssue st 2 h none occ
  let s := (s.addOp st 2 h (s.after st now (occ + 8)) tokT (.await 1)).noteTaint st 2 (if tokT then h.wt else 0) tokT
  s.startJob skStage st t.nextOp 2 (.bin key list pos b) tokT
    (s.readsFrom st portSK now ls ++ [(s.after st now (ls.length - 1), .stage 0)])

/-- SK_BIN (R182 to R185). -/
def execSkBin (st : Nat) (h : Hdr) (key list pos b : Nat) (s : State) : Host.Outcome State Fault Refusal :=
  s.issue st 2 (.skBin st h key list pos b) (skBinEffect st h key list pos b)

/-! Injection registers of a stand (R96, R121, R155, R250). -/

/-- A write to an injection register, its reserved bits masked off; ignored without a debug plan, or where a field is out
of its range (R558). -/
def injectOf (v mask : Nat) : Inject := { arm := bit v 63, w := v &&& mask }

def standHrInject (st v : Nat) (s : State) : State :=
  if !s.debugOn st ∨ fld v 41 32 ≥ 640 then s
  else s.updStand st fun t => { t with hrInject := injectOf v 0x3FF0000001F }
def standEdInject (st v : Nat) (s : State) : State :=
  if !s.debugOn st then s else s.updStand st fun t => { t with edInject := injectOf v 0xFF }
def standDkInject (st v : Nat) (s : State) : State :=
  if !s.debugOn st ∨ fld v 40 32 > 383 then s
  else s.updStand st fun t => { t with dkInject := let i := injectOf v 0x1F01FF00003F03; { i with arm := i.arm && fld v 1 0 ≠ 0 } }
def standFlInject (st v : Nat) (s : State) : State :=
  if !s.debugOn st then s else s.updNode (.node st) fun n => { n with inject := injectOf v 0x10FFF }

def execStandHrInject (st v : Nat) (s : State) : Host.Outcome State Fault Refusal := .next (standHrInject st v s)
def execStandEdInject (st v : Nat) (s : State) : Host.Outcome State Fault Refusal := .next (standEdInject st v s)
def execStandDkInject (st v : Nat) (s : State) : Host.Outcome State Fault Refusal := .next (standDkInject st v s)
def execStandFlInject (st v : Nat) (s : State) : Host.Outcome State Fault Refusal := .next (standFlInject st v s)

end Sys2Proof.Machine
end

