-- ==== Sys2Proof/Machine/Tally.lean ====
section
/-! DEFINITION. The tally and journal unit (chapter 15): tallies, their chain and signatures, journal tickets, twin mode, and
the registers of R452 that have a row of their own. -/

namespace Sys2Proof.Machine

/-! Rings in host memory (R389, R395). -/

/-- An accepted write of a ring's base or SIZE that changes it restarts the indices. -/
def HostRing.setBase (r : HostRing) (b : Nat) : HostRing := if r.base = b then r else { r with base := b, cons := 0, prod := 0 }
def HostRing.setSize (r : HostRing) (n : Nat) : HostRing := if r.size = n then r else { r with size := n, cons := 0, prod := 0 }

/-- CONS as written by the owner: ignored where it is no index of the ring or would pass PROD (R300, R395). -/
def HostRing.setCons (r : HostRing) (c : Nat) : HostRing :=
  if c < r.size ∧ (c + r.size - r.cons) % r.size ≤ r.used then { r with cons := c } else r

/-- PROD as written by the owner, where a rule gives it to the owner (R300, R440). -/
def HostRing.setProd (r : HostRing) (p : Nat) : HostRing := if p < r.size then { r with prod := p } else r

/-! Tally units (R429 to R435). -/

/-- SEQ and KIND of a unit. -/
def unitSeq (u : List Byte) : Nat := num u 8 8
def unitKind (u : List Byte) : Nat := num u 0 1

/-- R435: units of the backlog written to the tally ring while it has room and the host link is up. A chained tally does
not pass a SIGNATURE still owed for an earlier chain head (R433, R436: a verifier finds it directly behind that head). -/
def State.flushUnits (s : State) (d : Nat) : Nat → State
  | 0 => s
  | n + 1 =>
    let t := s.getTally d
    match t.backlog with
    | [] => s
    | u :: us =>
      let waits : Bool := match t.owed with
        | (q, _) :: _ => unitKind u != 4 && decide (unitSeq u > q)
        | [] => false
      if t.ring.free = 0 ∨ !s.host.up ∨ waits then s
      else
        let s := (s.hostWrite d (t.ring.addr 256 t.ring.prod) u).updTally d fun t =>
          { t with backlog := us, ring := t.ring.push }
        State.flushUnits s d n

def State.flushTally (s : State) (d : Nat) : State := s.flushUnits d (s.getTally d).backlog.length

/-- Free units of a context's backlog, with the room its owed SIGNATURE units take (R435). -/
def TallyCtx.room (t : TallyCtx) : Nat := 64 - (t.backlog.length + t.owed.length)

/-- R434: a SIGNATURE unit is owed for the present chain head, once for each head. -/
def State.oweSignature (s : State) (d : Nat) : State :=
  s.updTally d fun t =>
    if t.seq = 0 ∨ t.signedHead = some (t.seq - 1) then t
    else { t with owed := t.owed ++ [(t.seq - 1, t.head)], signedHead := some (t.seq - 1), sinceSign := 0, signAsked := false }

/-- R512: the management block's tally log of a context takes a chained unit. -/
def State.logUnit (s : State) (d : Nat) (u : List Byte) : State :=
  { s with mgmt := { s.mgmt with units := tupd [] s.mgmt.units d fun us => (u :: us).take 16 } }

/-- R433: a unit is chained: SEQ is set, D(n) formed, and the unit enters the backlog. -/
def State.chain (s : State) (d : Nat) (unit : Nat → List Byte) : State :=
  ((s.logUnit d (unit (s.getTally d).seq)).updTally d fun t =>
    let u := unit t.seq
    { t with head := sha512 ((if t.head = [] then zeros 64 else t.head) ++ u), seq := t.seq + 1, count := t.count.add 1
             backlog := t.backlog ++ [u] }).flushTally d

/-- R430. -/
def tallyFlags (c : PlanCtx) (t : TallyCtx) (a : StepAcc) : Nat :=
  flag c.canonSplit 0 + flag c.debug 1 + flag a.repeatFlag 2 + flag t.jrnReplay 3 + flag t.twinEn 4 + flag a.held 5 +
  flag a.epochMoved 6 + flag a.suspectOut 7 + flag (a.model == 0xFFFF) 8

/-- R431: the digest over the distinct sets of the step's set maps, ascending by model and generation. -/
def State.wsetDigest (s : State) (a : StepAcc) : Nat :=
  let rows := a.wsets.map fun i => let e := tget ({} : SetEnt) s.weight.sets i; (e.model, e.gen, e.adJobs)
  let sorted := rows.foldl (fun acc r => ins r acc) []
  if sorted = [] then num (sha512 []) 0 16
  else num (sha512 ((sorted.map fun r => leBytes 2 r.1 ++ leBytes 4 r.2.1 ++ zeros 2 ++ leBytes 8 r.2.2).flatten)) 0 16
where
  /-- Insertion in ascending order, without repeats. -/
  ins (r : Nat × Nat × Nat) : List (Nat × Nat × Nat) → List (Nat × Nat × Nat)
    | [] => [r]
    | x :: xs =>
      if r.1 < x.1 ∨ (r.1 = x.1 ∧ r.2.1 < x.2.1) then r :: x :: xs
      else if r.1 = x.1 ∧ r.2.1 = x.2.1 then x :: xs else x :: ins r xs

/-- The STEP tally (R429) of step `step` whose last ring run was `last`. -/
def State.stepUnit (s : State) (d : Nat) (a : StepAcc) (step last seq : Nat) : List Byte :=
  let c := s.getCtx d
  let t := s.getTally d
  layout 256 ([(0, 1, 0), (1, 1, 40), (2, 1, d), (3, 1, c.mode), (4, 2, tallyFlags c t a), (6, 1, if a.failed then 1 else 0),
    (8, 8, seq), (16, 16, ofLe c.planId), (32, 8, step), (40, 8, a.ringFirst), (48, 8, last), (56, 8, a.tseq),
    (64, 4, a.epochFirst), (68, 2, a.cause), (70, 2, a.causeUnit), (72, 2, s.logicalId d), (74, 2, s.ael.id), (76, 2, a.model),
    (80, 4, a.gen0), (84, 4, a.gen1), (88, 4, a.checks), (92, 4, a.eccCorr), (96, 4, a.eccUncorr), (100, 4, a.resends),
    (104, 2, a.slip), (106, 2, a.slipUnit), (108, 4, a.events)] ++
    ((List.range 20).map fun k => (112 + 2 * k, 2, tget 0 a.stretch k)) ++
    [(160, 16, s.wsetDigest a), (176, 16, a.inHash), (192, 16, a.outHash), (208, 16, a.tokHash)])

/-- Set entries that the set maps of a context's stands hold, slot by slot (R344, R351). -/
def State.mapSets (s : State) (d g : Nat) : List Nat :=
  (s.stand.filter fun e => e.2.ctx == some d).filterMap fun e => (tfind? s.weight.map (2 * e.1 + g)).map (·.entry)

/-- Without repeats. -/
def dedup (l : List Nat) : List Nat := (l.foldl (fun acc x => if acc.contains x then acc else x :: acc) []).reverse

/-- The fields that a new step's tally starts with (R429): its first ring, the epoch, what the build settled for it, and
what the step's set maps name. -/
def State.openStep (s : State) (d : Nat) (repeat_ : Bool) : State :=
  let s0 := s.mapSets d 0
  let s1 := s.mapSets d 1
  let all := dedup (s0 ++ s1)
  let set := fun i => tget ({} : SetEnt) s.weight.sets i
  let models := dedup (all.map fun i => (set i).model)
  s.updTally d fun t =>
    { t with
      acc := { repeatFlag := repeat_, ringFirst := s.ring.count, epochFirst := t.epoch, tseq := t.nextTseq, held := t.nextHeld
               inHash := t.nextIn, model := if models.length = 1 then models.headD 0 else 0xFFFF
               gen0 := (s0.head?.map fun i => (set i).gen).getD 0, gen1 := (s1.head?.map fun i => (set i).gen).getD 0
               wsets := all }
      nextHeld := false, nextIn := 0 }

/-- A STEP tally is chained; the signing interval counts it (R434). -/
def State.chainStep (s : State) (d : Nat) (a : StepAcc) (step last : Nat) : State :=
  let s := s.chain d (s.stepUnit d a step last)
  let seq := (s.getTally d).seq - 1
  let l := tget ({} : LndLd) s.hub.lnd d
  let recs := l.recs.map fun r => if r.step = step ∧ r.closed.isNone then { r with closed := some (seq, a.failed, a.cause) } else r
  let s : State := { s with hub := { s.hub with lnd := tput s.hub.lnd d { l with recs := recs } } }
  let s := s.updTally d fun t =>
    { t with lastStep := step, sinceSign := t.sinceSign + 1, failed := if a.failed then t.failed.add 1 else t.failed }
  if (s.getTally d).sinceSign ≥ (s.getTally d).signInterval then s.oweSignature d else s

/-- A step's tally closes (R429): at once, or in twin mode at root cycle 256 of the following ring. -/
def State.closeStep (s : State) (d step last : Nat) (now : Bool) : State :=
  let t := s.getTally d
  if t.twinEn && !now then s.updTally d fun t => { t with waiting := some { acc := t.acc, step := step, ringLast := last } }
  else s.chainStep d t.acc step last

/-- A LOAD or UNLOAD tally (R429). -/
def State.chainPlan (s : State) (d kind model : Nat) : State :=
  let c := s.getCtx d
  let t := s.getTally d
  s.chain d fun seq => layout 256 [(0, 1, kind), (1, 1, 40), (2, 1, d), (3, 1, c.mode), (4, 2, flag c.canonSplit 0 + flag c.debug 1),
    (8, 8, seq), (16, 16, ofLe c.planId), (32, 8, if kind = 3 then t.lastStep else 0), (40, 8, s.ring.count), (48, 8, s.ring.count),
    (64, 4, t.epoch), (72, 2, s.logicalId d), (74, 2, s.ael.id), (76, 2, model)]

/-- The GENESIS tally of a context (R429), and its signature. -/
def State.genesis (s : State) (d : Nat) : State :=
  let (seed, s) := s.takeFree
  let s := s.chain d fun _ => layout 256 [(0, 1, 1), (1, 1, 40), (2, 1, d), (160, 32, ofLe s.sec.pubKey),
    (192, 32, num s.sec.imageDigest 0 32), (224, 32, (Config.freeRandom seed).toNat)]
  s.oweSignature d

def State.genesisAll (s : State) : Nat → State
  | 0 => s
  | n + 1 => (s.genesisAll n).genesis n

/-- The SIGNATURE unit of a chain head (R434). -/
def State.signatureUnit (s : State) (d q : Nat) (head : List Byte) : List Byte :=
  let body := slice (layout 128 [(0, 1, 4), (1, 1, 40), (2, 1, d), (8, 8, q), (16, 2, s.ael.id), (24, 8, s.ring.count),
    (32, 64, ofLe head), (96, 32, ofLe s.sec.pubKey)]) 0 128
  padTo 256 (body ++ ed25519Sign s.sec.attSeed body)

/-- A unit placed behind the chained unit of SEQ `q`, ahead of later ones. -/
def insertUnit (q : Nat) (u : List Byte) : List (List Byte) → List (List Byte)
  | [] => [u]
  | x :: xs => if unitKind x != 4 && decide (unitSeq x > q) then u :: x :: xs else x :: insertUnit q u xs

/-- SIGNATURE: the security block signs the oldest chain head owed (R434). -/
def State.sign (s : State) (d : Nat) : State :=
  match (s.getTally d).owed with
  | [] => s
  | (q, head) :: rest =>
    let sig := s.signatureUnit d q head
    let s : State := { s with mgmt := { s.mgmt with signature := tput s.mgmt.signature d sig } }
    (s.updTally d fun t =>
      { t with owed := rest, backlog := insertUnit q sig t.backlog, signed := t.signed.add 1 }).flushTally d

/-- R435: a TALLY_SIGN_CMD takes effect once 6 units are free. -/
def State.signIfAsked (s : State) (d : Nat) : State :=
  if (s.getTally d).signAsked ∧ (s.getTally d).room ≥ 6 then
    (s.oweSignature d).updTally d fun t => { t with signAsked := false }
  else s

def execSignature (d : Nat) (s : State) : Host.Outcome State Fault Refusal := .next ((s.sign d).signIfAsked d)

/-! Journal tickets (R437 to R439). -/

/-- One 64-byte ticket with the next TSEQ. -/
def State.putTicket (s : State) (d kind replica queue aux : Nat) (body : List (Nat × Nat × Nat)) : State :=
  let t := s.getTally d
  let bytes := layout 64 ([(0, 1, kind), (1, 1, replica), (2, 2, queue), (4, 4, aux), (8, 8, t.tseq)] ++ body)
  (s.hostWrite d (t.jrn.addr 64 t.jrn.prod) bytes).updTally d fun t => { t with jrn := t.jrn.push, tseq := t.tseq + 1 }

/-! Registers with rows of their own (R452). -/

/-- R452: whether a register marked † accepts a write: the context is NONE or LOADED. -/
def State.cfgOpen (s : State) (d : Nat) : Bool := (s.getCtx d).state == .none || (s.getCtx d).state == .loaded

/-- BAR0 offsets of the tally block. -/
def tallyBase : Nat := 0x600000

/-- A write to a † register: refused while a plan is armed or runs, a configuration change otherwise (R447, R452). -/
def State.tallyCfg (s : State) (d off old new : Nat) (f : TallyCtx → TallyCtx) : State :=
  if !s.cfgOpen d then s else s.change d d (tallyBase + off) 0 old new fun s => s.updTally d f

def tallySignCmd (d v : Nat) (s : State) : State :=
  if bit v 0 then (s.updTally d fun t => { t with signAsked := true }).signIfAsked d else s

def TallyCtx.jrnCfgWord (t : TallyCtx) : Nat := flag t.jrnReplay 63 + t.jrn.size
def TallyCtx.evtCfgWord (t : TallyCtx) : Nat := flag t.evtMsi 63 + at_ t.evtVector 48 + t.evt.size
def TallyCtx.twinWord (t : TallyCtx) : Nat := flag t.twinEn 63 + flag t.twinLeader 62 + t.twinPort

/-- Sizes a ring register takes: 0, or `lo` to 2^24 (R452, R558). -/
def sizeOk (lo n : Nat) : Bool := n == 0 || (decide (lo ≤ n) && decide (n ≤ 2 ^ 24))

def tallyRingBase (d v : Nat) (s : State) : State :=
  let t := s.getTally d
  let b := fld v 63 8 * 256
  if !s.placed d b 256 t.ring.size then s.hostDrop d 1 (tallyBase + 0x00)
  else (s.tallyCfg d 0x00 t.ring.base b fun t => { t with ring := t.ring.setBase b }).flushTally d
def tallyRingCfg (d v : Nat) (s : State) : State :=
  let t := s.getTally d
  let n := fld v 24 0
  if !sizeOk 16 n then s
  else if !s.placed d t.ring.base 256 n then s.hostDrop d 1 (tallyBase + 0x08)
  else (s.tallyCfg d 0x08 t.ring.size n fun t => { t with ring := t.ring.setSize n, ringZero := n == 0 }).flushTally d
def tallyRingIdx (d v : Nat) (s : State) : State :=
  ((s.updTally d fun t => { t with ring := t.ring.setCons (fld v 63 32) }).flushTally d).signIfAsked d
def tallySignCfg (d v : Nat) (s : State) : State :=
  let n := fld v 20 0
  if n = 0 ∨ n > 2 ^ 20 then s
  else s.tallyCfg d 0x18 (s.getTally d).signInterval n fun t => { t with signInterval := n }
def tallyJrnBase (d v : Nat) (s : State) : State :=
  let t := s.getTally d
  let b := fld v 63 6 * 64
  if !s.placed d b 64 t.jrn.size then s.hostDrop d 1 (tallyBase + 0x40) else s.tallyCfg d 0x40 t.jrn.base b fun t => { t with jrn := t.jrn.setBase b }
def tallyJrnCfg (d v : Nat) (s : State) : State :=
  let t := s.getTally d
  let n := fld v 24 0
  if !sizeOk 64 n then s
  else if !s.placed d t.jrn.base 64 n then s.hostDrop d 1 (tallyBase + 0x48)
  else s.tallyCfg d 0x48 t.jrnCfgWord (flag (bit v 63) 63 + n) fun t => { t with jrn := t.jrn.setSize n, jrnReplay := bit v 63 }
def tallyJrnIdx (d v : Nat) (s : State) : State :=
  s.updTally d fun t =>
    { t with jrn := if t.jrnReplay then t.jrn.setProd (fld v 31 0) else t.jrn.setCons (fld v 63 32) }

/-- R450: the boot events that the device holds are written once a ring has a SIZE after READY. -/
def State.giveBootEvents (s : State) (d : Nat) : State :=
  if !s.ready ∨ (s.getTally d).evt.size = 0 ∨ s.ledger.bootGiven.contains d then s
  else
    let s := { s with ledger := { s.ledger with bootGiven := d :: s.ledger.bootGiven } }
    s.ledger.bootEvents.foldl (fun s r => s.putEvent d r) s

def tallyEvtBase (d v : Nat) (s : State) : State :=
  let t := s.getTally d
  let b := fld v 63 5 * 32
  if !s.placed d b 32 t.evt.size then s.hostDrop d 1 (tallyBase + 0x60) else s.tallyCfg d 0x60 t.evt.base b fun t => { t with evt := t.evt.setBase b }
def tallyEvtCfg (d v : Nat) (s : State) : State :=
  let t := s.getTally d
  let n := fld v 24 0
  if !sizeOk 16 n then s
  else if !s.placed d t.evt.base 32 n then s.hostDrop d 1 (tallyBase + 0x68)
  else
    let new := flag (bit v 63) 63 + at_ (fld v 58 48) 48 + n
    (s.tallyCfg d 0x68 t.evtCfgWord new fun t =>
      { t with evt := t.evt.setSize n, evtMsi := bit v 63, evtVector := fld v 58 48 }).giveBootEvents d
def tallyEvtIdx (d v : Nat) (s : State) : State := s.updTally d fun t => { t with evt := t.evt.setCons (fld v 63 32) }
def tallyTwinCfg (d v : Nat) (s : State) : State :=
  if fld v 3 0 > 11 then s
  else s.tallyCfg d 0x98 (s.getTally d).twinWord (flag (bit v 63) 63 + flag (bit v 62) 62 + fld v 3 0) fun t =>
    { t with twinEn := bit v 63, twinLeader := bit v 62, twinPort := fld v 3 0 }

def execTallySignCmd (d v : Nat) (s : State) : Host.Outcome State Fault Refusal := .next (s.asLd d 0x600020 (tallySignCmd d v))
def execTallyRingBase (d v : Nat) (s : State) : Host.Outcome State Fault Refusal := .next (s.asLd d 0x600000 (tallyRingBase d v))
def execTallyRingCfg (d v : Nat) (s : State) : Host.Outcome State Fault Refusal := .next (s.asLd d 0x600008 (tallyRingCfg d v))
def execTallyRingIdx (d v : Nat) (s : State) : Host.Outcome State Fault Refusal := .next (s.asLd d 0x600010 (tallyRingIdx d v))
def execTallySignCfg (d v : Nat) (s : State) : Host.Outcome State Fault Refusal := .next (s.asLd d 0x600018 (tallySignCfg d v))
def execTallyJrnBase (d v : Nat) (s : State) : Host.Outcome State Fault Refusal := .next (s.asLd d 0x600040 (tallyJrnBase d v))
def execTallyJrnCfg (d v : Nat) (s : State) : Host.Outcome State Fault Refusal := .next (s.asLd d 0x600048 (tallyJrnCfg d v))
def execTallyJrnIdx (d v : Nat) (s : State) : Host.Outcome State Fault Refusal := .next (s.asLd d 0x600050 (tallyJrnIdx d v))
def execTallyEvtBase (d v : Nat) (s : State) : Host.Outcome State Fault Refusal := .next (s.asLd d 0x600060 (tallyEvtBase d v))
def execTallyEvtCfg (d v : Nat) (s : State) : Host.Outcome State Fault Refusal := .next (s.asLd d 0x600068 (tallyEvtCfg d v))
def execTallyEvtIdx (d v : Nat) (s : State) : Host.Outcome State Fault Refusal := .next (s.asLd d 0x600070 (tallyEvtIdx d v))
def execTallyTwinCfg (d v : Nat) (s : State) : Host.Outcome State Fault Refusal := .next (s.asLd d 0x600098 (tallyTwinCfg d v))

end Sys2Proof.Machine
end

