-- ==== Sys2Proof/Machine/Notch.lean ====
section
/-! DEFINITION. The Notch bank (R287 to R299, R312). -/

namespace Sys2Proof.Machine

def State.getNotch (s : State) (n : Nat) : Notch := tget {} s.notch.n n
def State.updNotchDom (s : State) (d : Nat) (f : NotchDom → NotchDom) : State :=
  { s with notch := { s.notch with dom := tupd {} s.notch.dom d f } }

/-- R287: the valid domain whose range holds a notch, if any: ASSIGNED and DOMAIN. -/
def State.notchDomain (s : State) (n : Nat) : Option Nat :=
  firstBelow (fun d => (s.getDom d).valid && inRange (s.getDom d).notches n) 16

/-- Bits [63:32] of the read view (R299). -/
def State.notchMeta (s : State) (n : Nat) : Nat :=
  let x := s.getNotch n
  flag x.sat 31 + at_ x.wmode 26 + (match s.notchDomain n with | some d => 2 ^ 24 + at_ d 20 | none => 0)

/-- The read view of a notch (R299). -/
def State.notchView (s : State) (n : Nat) : Nat := at_ (s.notchMeta n) 32 + (s.getNotch n).value

/-- Source as the second item of an event, and as fields of NOTCH_ERR0. -/
def NSrc.code (x : NSrc) : Nat := at_ x.input 26 + at_ x.dev 10 + x.end_ % 1024

/-- NOTCH_ERR0 of the notch's domain (R312): KIND 0 saturation, 1 fence, 2 full. -/
def State.noteNotch (s : State) (n kind : Nat) (x : NSrc) : State :=
  match s.notchDomain n with
  | none => s
  | some d => s.updNotchDom d fun r => { r with err := r.err.latch (at_ kind 60 + at_ x.code 32 + n) s.ring.count 0 }

/-- R288, R291: whether a waiter with a threshold is satisfied. -/
def Notch.meets (x : Notch) (thr : Nat) : Bool := x.sat || decide (thr ≤ x.value)

/-- A reply of the bank (R297). -/
def State.notchReply (s : State) (p : Packet) (value op status n : Nat) (tag : Tag) : State :=
  s.replyTo 1 (.unit 44) p (.notchReply value (s.notchMeta n) op status n tag)

/-- R293, R296: the waiters that changes of notches satisfy are answered in the order of their registration, and freed. -/
def State.releaseWaiters (s : State) (ns : List Nat) : State :=
  let (go, stay) := s.notch.waiters.partition fun w => ns.contains w.notch && (s.getNotch w.notch).meets w.thr
  let s := { s with notch := { s.notch with waiters := stay } }
  go.foldl (fun s w => match w.pkt.payload with
    | .notch _ _ _ tag => s.notchReply w.pkt (s.getNotch w.notch).value 3 0 w.notch tag
    | _ => s) s

/-- R304: the queues whose current WAIT the change satisfies; from the first root edge of its last ring on it is too late. -/
def State.markWaits (s : State) (n : Nat) : State :=
  let x := s.getNotch n
  { s with queue := { s.queue with ctx := tmap (fun _ q =>
      if q.state = 2 ∧ q.waitNotch = n ∧ x.meets q.waitValue ∧ s.ring.count < q.waitExpiry then { q with met := true } else q) s.queue.ctx } }

def State.changedNotches (s : State) (ns : List Nat) : State := ns.foldl State.markWaits (s.releaseWaiters ns)

/-- R290: a SET and an ADD reaching one notch in one ring, in a debug plan of its domain. -/
def State.scoutNotch (s : State) (n : Nat) : State :=
  match s.notchDomain n with
  | some d => if (s.getCtx d).debugging && s.notch.sets.contains n && s.notch.adds.contains n
      then s.scoutFind d 3 noUnit n (s.getCmp 19).loc else s
  | none => s

/-- An operation reaches the bank (R289). -/
def State.reachNotch (s : State) (o : NOp) : State :=
  ({ s with notch := { s.notch with
      inbox := s.notch.inbox ++ [o]
      sets := if o.op = 1 then o.notch :: s.notch.sets else s.notch.sets
      adds := if o.op = 0 then o.notch :: s.notch.adds else s.notch.adds } } : State).scoutNotch o.notch

def State.countOp (s : State) (n : Nat) : State :=
  match s.notchDomain n with
  | some d => s.updNotchDom d fun r => { r with ops := r.ops.add 1 }
  | none => s

/-- SET (R288, R291). -/
def State.setNotch (s : State) (n v : Nat) : State :=
  let x := s.getNotch n
  ({ s with notch := { s.notch with n := tput s.notch.n n { x with value := v % 2 ^ 32, sat := false } } } : State).countOp n

/-- ADD (R288, R291): saturates; SAT going from 0 to 1 raises NOTCH_SAT once. -/
def State.addNotch (s : State) (n amt : Nat) (src : NSrc) : State :=
  let x := s.getNotch n
  let v := x.value + amt % 2 ^ 32
  let past : Bool := decide (v > 0xFFFFFFFF)
  let y := { x with value := min v 0xFFFFFFFF, sat := x.sat || past }
  let s : State := { s with notch := { s.notch with n := tput s.notch.n n y } }
  let s := s.countOp n
  let s := if y.sat then
      match s.notchDomain n with
      | some d => s.updNotchDom d fun r => { r with satCnt := r.satCnt.add 1 }
      | none => s
    else s
  if y.sat && !x.sat then
    let s := s.noteNotch n 0 src
    match s.notchDomain n with
    | some d => s.raiseAt 0x0402 d noUnit (s.getCmp 19).loc n src.code
    | none => s
  else s

/-! Packets at hub-bridge port 44 (R289, R294). -/

def packetSrc (p : Packet) : NSrc := { input := 0, dev := p.srcDev, end_ := p.srcEnd.srcCode }

/-- A hub unit's own operation (R288, R355). -/
def unitSrc (q : Nat) : NSrc := { input := 0, end_ := (Loc.unit q).srcCode }

/-- R294: an operation that is not applied: status 1 FENCE, 2 FULL. Its reply carries the notch's metadata; the spec gives it no VALUE,
which is free (notes/assumptions/62.md). -/
def State.refuseNotch (s : State) (o : NOp) (status : Nat) : State :=
  let s := s.noteNotch o.notch status o.src
  let s := match s.notchDomain o.notch with
    | some d => s.updNotchDom d fun r =>
        { r with fence := if status = 1 then r.fence.add 1 else r.fence, full := if status = 2 then r.full.add 1 else r.full }
    | none => s
  match o.pkt with
  | some (p, tag) =>
    let (seed, s) := s.takeFree
    (s.raiseAt (if status = 1 then 0x0403 else 0x0404) p.dom noUnit (s.getCmp 19).loc o.notch o.src.code).notchReply p (Config.refusedValue seed).toNat o.op status o.notch tag
  | none => s

/-- R294: the domain of a packet is the notch's, and WMODE admits a WAIT_GE. -/
def State.notchAllowed (s : State) (o : NOp) : Bool :=
  match o.pkt with
  | some (p, _) => s.notchDomain o.notch == some p.dom && (o.op != 3 || (s.getNotch o.notch).wmode ≤ 1)
  | none => true

/-- The reply to an operation that a packet brought, with the notch's value (R288). -/
def State.answerNotch (s : State) (o : NOp) : State :=
  match o.pkt with
  | some (p, tag) => s.notchReply p (s.getNotch o.notch).value o.op 0 o.notch tag
  | none => s

/-- A SET or an ADD applied (R289). -/
def State.changeNotch (s : State) (o : NOp) : State :=
  if !s.notchAllowed o then s.refuseNotch o 1
  else (if o.op = 0 then s.addNotch o.notch o.value o.src else s.setNotch o.notch o.value).answerNotch o

/-- A READ or a new waiter, against the values that the cycle's changes leave (R289, R293); a queue's WAIT is registered in its
context. -/
def State.askNotch (s : State) (o : NOp) : State :=
  if !s.notchAllowed o then s.refuseNotch o 1
  else if o.op = 2 then (s.countOp o.notch).answerNotch o
  else if o.op = 4 then s.markWaits o.notch
  else if (s.getNotch o.notch).meets o.value then (s.countOp o.notch).answerNotch o
  else if s.notch.waiters.length ≥ 16384 then s.refuseNotch o 2
  else match o.pkt with
    | some (p, _) =>
      let s := s.countOp o.notch
      { s with notch := { s.notch with waiters := s.notch.waiters ++ [{ notch := o.notch, thr := o.value, pkt := p }] } }
    | none => s

/-- The operations that the inputs deliver in a cycle, in ascending source, and those that stay (R289). -/
def NotchSt.deliver (x : NotchSt) : List NOp × List NOp :=
  [0, 1, 2].foldl (fun (r : List NOp × List NOp) i =>
    match r.2.find? (·.src.input == i) with
    | some o => (r.1 ++ [o], r.2.erase o)
    | none => r) ([], x.inbox)

/-- R289, R296: what reached the bank in a cycle is applied in the next: the SETs and ADDs, then the registered
waiters of changed notches, READs and new waiters, all against the values that the changes leave. -/
def State.notchCycle (s : State) : State :=
  if s.notch.inbox = [] then s
  else
    let (now, rest) := s.notch.deliver
    let s : State := { s with notch := { s.notch with inbox := rest } }
    let (set, ask) := now.partition fun o => decide (o.op ≤ 1)
    ask.foldl State.askNotch ((set.foldl State.changeNotch s).changedNotches (dedup (set.map (·.notch))))

/-- The packet at the head for an operation reaches the bank. -/
def notchPacket (op : Nat) (corrupt : Bool) (s : State) : State :=
  let (s, p) := s.takePacket (.unit 44) corrupt fun | .notch o _ _ _ => o == op | _ => false
  match p with
  | none => s
  | some p => match p.payload with
    | .notch _ n v tag => s.reachNotch { src := packetSrc p, op := op, notch := n, value := v, pkt := some (p, tag) }
    | _ => s

def execNotchAdd (corrupt : Bool) (s : State) : Host.Outcome State Fault Refusal := .next (notchPacket 0 corrupt s)
def execNotchSet (corrupt : Bool) (s : State) : Host.Outcome State Fault Refusal := .next (notchPacket 1 corrupt s)
def execNotchRead (corrupt : Bool) (s : State) : Host.Outcome State Fault Refusal := .next (notchPacket 2 corrupt s)
def execNotchWaitGe (corrupt : Bool) (s : State) : Host.Outcome State Fault Refusal := .next (notchPacket 3 corrupt s)

/-- The cause that a reply gives its requester's step, 0 for none (R291, R294). -/
def replyCause (op status md : Nat) : Nat :=
  if status = 1 then 0x0403 else if status = 2 then 0x0404 else if op = 0 ∧ bit md 31 then 0x0402 else 0

/-- An arrival's bytes written through SK, one line after the other, with what each met. -/
def State.arriveBytes (s : State) (st : Nat) (ws : Writes) : State × Bool :=
  (distinctLines (ws.map (·.1))).foldl (fun (r : State × Bool) l =>
    let (img, be) := lineImage ws l
    let (s, m) := r.1.writeLine st portSK (l * 512) (r.1.standNow st) true img be
    (s.raiseMet st (standUnit st 3) m, r.2 || m.bad)) (s, false)

/-- Bytes at a Deck offset as writes. -/
def bytesAt (off : Int) (bs : List Byte) : Writes := (enum bs).map fun p => (off + (p.1 : Int), p.2)

/-- NOTCH_REPLY (R203, R298): READ writes VALUE and META to RET; the requester's operation completes, SUSPECT where the
reply says so (R291, R294). -/
def notchReplyArrives (st : Nat) (corrupt : Bool) (s : State) : State :=
  let (s, p) := s.takePacket (.stand st) corrupt fun | .notchReply .. => true | _ => false
  match p.map Packet.payload with
  | some (.notchReply value md op status _ tag) =>
    let cause := replyCause op status md
    let s := if op = 3 then s.updStand st fun t => { t with waits := t.waits - 1 } else s
    let s := match s.running st with
      | some d => if cause ≠ 0 then s.failStep d cause (standUnit st 3) else s
      | none => s
    match tag.ret with
    | none => s.opStep (some (tag.st, tag.op)) (cause ≠ 0)
    | some (off, _) =>
      let (s, bad) := s.arriveBytes st (bytesAt off (leBytes 4 value ++ leBytes 4 md))
      s.opStepAt 4 (some (tag.st, tag.op)) (cause ≠ 0 || bad)
  | _ => s
def execNotchReply (st : Nat) (corrupt : Bool) (s : State) : Host.Outcome State Fault Refusal := .next (notchReplyArrives st corrupt s)

/-! The register window (R299). -/

/-- A write of LD `ld` to the register of notch `n`; outside the LD's range it is dropped and counted. -/
def State.hostNotch (s : State) (ld n : Nat) (f : State → State) : State :=
  if s.notchDomain n = some ld then f s else s.updNotchDom ld fun r => { r with drop := r.drop.add 1 }

def hostNotchSet (ld n v : Nat) (s : State) : State := s.hostNotch ld n fun s => s.reachNotch { src := { input := 2 }, op := 1, notch := n, value := fld v 31 0 }
def hostNotchAdd (ld n v : Nat) (s : State) : State := s.hostNotch ld n fun s => s.reachNotch { src := { input := 2 }, op := 0, notch := n, value := fld v 31 0 }
def hostNotchMode (ld n v : Nat) (s : State) : State :=
  s.hostNotch ld n fun s =>
    s.change ld ld (0x500000 + 8 * n) 0 (s.getNotch n).wmode (fld v 59 58) fun s =>
      { s with notch := { s.notch with n := tput s.notch.n n { (s.getNotch n) with wmode := fld v 59 58 } } }

def execHostNotchSet (ld n v : Nat) (s : State) : Host.Outcome State Fault Refusal := .next (s.asLd ld (0x500000 + 8 * n) (hostNotchSet ld n v))
def execHostNotchAdd (ld n v : Nat) (s : State) : Host.Outcome State Fault Refusal := .next (s.asLd ld (0x500000 + 8 * n) (hostNotchAdd ld n v))
def execHostNotchMode (ld n v : Nat) (s : State) : Host.Outcome State Fault Refusal := .next (s.asLd ld (0x500000 + 8 * n) (hostNotchMode ld n v))

/-- R295: when a context enters HALTED the packet waiters on its domain's notches are freed without reply. -/
def State.freeWaiters (s : State) (d : Nat) : State :=
  { s with notch := { s.notch with waiters := s.notch.waiters.filter fun w => s.notchDomain w.notch != some d } }

end Sys2Proof.Machine
end

