-- ==== Sys2Proof/Machine/Bucker.lean ====
section
/-! DEFINITION. Weight sets and the Bucker (chapter 12). -/

namespace Sys2Proof.Machine

def State.getSet (s : State) (i : Nat) : SetEnt := tget {} s.weight.sets i
def State.updSet (s : State) (i : Nat) (f : SetEnt → SetEnt) : State :=
  { s with weight := { s.weight with sets := tupd {} s.weight.sets i f } }
def State.getBuck (s : State) (d : Nat) : BuckLd := tget {} s.weight.ld d
def State.updBuck (s : State) (d : Nat) (f : BuckLd → BuckLd) : State :=
  { s with weight := { s.weight with ld := tupd {} s.weight.ld d f } }

/-- The plan context runs: jobs move and switches wait for a boundary (R348, R359). -/
def State.ctxRuns (s : State) (d : Nat) : Bool := (s.getCtx d).state == .running || (s.getCtx d).state == .stopping

/-! Reads of host memory that have completed (R502). -/

def State.hostRead (s : State) (w : HostRead) : Option (Option (List Byte)) := (s.host.reads.find? fun r => r.1 == w).map (·.2)
def State.useRead (s : State) (w : HostRead) : State :=
  { s with host := { s.host with reads := dropFirst (fun r => r.1 == w) s.host.reads } }

/-! The set table (R341 to R344). -/

/-- R316, R331, R341: entry `i` of the set table, the high-water mark of a model, and the bitmap word of an adapter slot read in the
system window for a domain. -/
def State.touchSet (s : State) (d i : Nat) : State := (s.readSystem d (0x9000000 + 512 * i) 512).1
def State.touchMark (s : State) (d m : Nat) : State := (s.readSystem d (0x9020000 + 4 * (65536 * d + m)) 4).1
def State.touchSlot (s : State) (d i a : Nat) : State := (s.readSystem d (0x9420000 + 8192 * i + 8 * (a / 64)) 8).1

/-- Set length B_NEXT in bytes (R344). -/
def SetEnt.length (e : SetEnt) : Nat := (e.ext.map fun x => 65536 * x.2).foldl (· + ·) 0

/-- The set of a model in a state. -/
def State.setIn (s : State) (d m st : Nat) : Option Nat :=
  firstBelow (fun i => let e := s.getSet i; e.state == st && e.domain == d && e.model == m) 256
def State.currentSet (s : State) (d m : Nat) : Option Nat := s.setIn d m 3
def State.drainingSet (s : State) (d m : Nat) : Option Nat := s.setIn d m 4

/-- The entry freed, with its bitmap; its high-water mark stays (R345). -/
def State.freeSet (s : State) (i : Nat) : State := { s with weight := { s.weight with sets := tdel s.weight.sets i } }

/-- R352: a set released at a step boundary. -/
def State.releaseSet (s : State) (i : Nat) : State :=
  let e := s.getSet i
  let s := (s.freeSet i).raiseAt 0x0506 e.domain noUnit (s.getCmp 19).loc i (at_ e.model 32 + e.gen)
  let s := s.updBuck e.domain fun b => { b with released := i :: b.released.filter (· != i) }
  if e.notify then s.reachNotch { src := unitSrc 48, op := 0, notch := e.notch, value := e.notifyVal } else s

/-- R348: a set becomes CURRENT; its predecessor becomes DRAINING, or FREE where no live request holds it; a DRAIN hold of
the model ends. -/
def State.takeSwitch (s : State) (i : Nat) : State :=
  let e := s.getSet i
  let s := match s.currentSet e.domain e.model with
    | some p => if (s.getSet p).live = 0 then s.releaseSet p else s.updSet p fun x => { x with state := 4 }
    | none => s
  let s := s.updSet i fun x => { x with state := 3 }
  { s with weight := { s.weight with switches := s.weight.switches.filter (·.set != i)
                                     drains := s.weight.drains.filter fun h => !(h.dom == e.domain && h.model == e.model) } }

/-- R348, R352, R353: what a step boundary of a domain's plan does to its sets; `ring` is the ring that begins. -/
def State.setBoundary (s : State) (d ring : Nat) : State :=
  let s := { s with weight := { s.weight with drains := s.weight.drains.map fun h => if h.dom = d then { h with on := true } else h } }
  let mine := (List.range 256).filter fun i => (s.getSet i).domain == d
  let s := (mine.filter fun i => (s.getSet i).state == 4 && (s.getSet i).live == 0).foldl State.releaseSet s
  let s := (s.weight.switches.filter fun w => w.dom == d && decide (w.ring + 2 ≤ ring)).foldl (fun s w => s.takeSwitch w.set) s
  (mine.filter fun i => let e := s.getSet i
    e.state == 3 && e.live == 0 && s.weight.drains.any fun h => h.dom == d && h.model == e.model).foldl State.releaseSet s

/-! Set commands (R345 to R350). -/

def State.buckAnswer (s : State) (d st set gen : Nat) : State :=
  s.updBuck d fun b => { b with resStatus := st, resSet := set, resGen := gen }

/-- The fields of a template (R342). -/
def templateOf (d : Nat) (bs : List Byte) : SetEnt :=
  let w := fun k => num bs (8 * k) 8
  { state := 1, domain := d, model := fld (w 0) 47 32, gen := fld (w 0) 31 0
    ext := (List.range (min (fld (w 1) 5 0) 56)).map fun e => (fld (w (8 + e)) 31 0, fld (w (8 + e)) 63 32)
    adCount := fld (w 2) 48 32, adLines := fld (w 2) 31 0, adBase := fld (w 3) 47 0, notify := bit (w 4) 63, notch := fld (w 4) 47 32
    notifyVal := fld (w 4) 31 0, cache := fld (w 5) 55 0 }

def rangesMeet (a b : Nat × Nat) : Bool := decide (a.1 < b.1 + b.2 ∧ b.1 < a.1 + a.2)

/-- R347: BAD_TEMPLATE does not apply. -/
def State.templateOk (s : State) (d : Nat) (bs : List Byte) : Bool :=
  let w := fun k => num bs (8 * k) 8
  let e := templateOf d bs
  let g := s.getDom d
  !bit (w 0) 60 && fld (w 0) 55 48 == 0 && fld (w 1) 63 6 == 0 && fld (w 2) 63 49 == 0 && fld (w 3) 63 48 == 0 && fld (w 4) 62 48 == 0 &&
  fld (w 5) 63 56 == 0 && w 7 == 0 && decide (1 ≤ fld (w 1) 5 0 ∧ fld (w 1) 5 0 ≤ 56) && decide (e.adCount ≤ 65536) &&
  e.ext.all (fun x => decide (1 ≤ x.2) && g.windows.any fun v => v.2.2.2 && decide (v.1 ≤ x.1 ∧ x.1 + x.2 ≤ v.1 + v.2.1)) &&
  (List.range e.ext.length).all (fun a => (List.range a).all fun b => !rangesMeet (e.ext.getD a (0, 0)) (e.ext.getD b (0, 0))) &&
  (List.range 256).all (fun i => (s.getSet i).state == 0 || e.ext.all fun x => (s.getSet i).ext.all fun y => !rangesMeet x y) &&
  e.adBase % 512 == 0 && decide (e.adBase + 512 * e.adLines * e.adCount ≤ e.length) && (!e.notify || s.notchDomain e.notch == some d)

/-- The template that BUCK_ARG names, once its bytes are there: none while a host read is outstanding. -/
def State.template (s : State) (d : Nat) : State × Option (Option (List Byte)) :=
  let a := (s.getBuck d).arg
  if bit a 63 then let (s, bs) := s.unitRead d 18 (fld a 62 0) 512; (s, some bs) else (s, s.hostRead (.template d))

def State.createSet (s : State) (d : Nat) (bs : Option (List Byte)) : State :=
  match firstBelow (fun i => (s.getSet i).state == 0) 256 with
  | none => s.buckAnswer d 3 0 0
  | some i =>
    match bs with
    | none => s.buckAnswer d 6 0 0
    | some b =>
      let e := templateOf d b
      let s := (s.touchSet d i).touchMark d e.model
      let k := 65536 * d + e.model
      let mark := tget 0 s.weight.marks k
      if mark = 0xFFFFFFFF then
        (s.raiseAt 0x0504 d noUnit (s.getCmp 19).loc e.model 0).buckAnswer d 4 0 e.gen
      else if e.gen = 0 ∨ e.gen ≤ mark then s.buckAnswer d 5 0 e.gen
      else if !s.templateOk d b then s.buckAnswer d 6 0 e.gen
      else
        let s := { s with weight := { s.weight with sets := tput s.weight.sets i e, marks := tput s.weight.marks k e.gen } }
        s.buckAnswer d 0 i e.gen

/-- CREATE (R345, R346). -/
def createCmd (d : Nat) (s : State) : State :=
  match s.template d with
  | (_, none) => s
  | (s, some bs) => (s.useRead (.template d)).createSet d bs

def execCreate (d : Nat) (s : State) : Host.Outcome State Fault Refusal := .next (s.asLd d 0x900000 (createCmd d))

/-- The sets named by the entries not yet consumed of a job ring in device memory, read as the Bucker reads them (R354); an entry
that cannot be read names none. -/
def State.jobSets (s : State) (d : Nat) : State × List Nat :=
  let b := s.getBuck d
  if b.jobDev then
    (List.range ((b.jobProd + b.jobSize - b.jobCons) % b.jobSize)).foldl (fun (r : State × List Nat) k =>
      match r.1.unitRead d 18 (b.jobBase + 64 * ((b.jobCons + k) % b.jobSize)) 64 with
      | (s, some bs) => (s, num bs 4 1 :: r.2)
      | (s, none) => (s, r.2)) (s, [])
  else (s, [])

/-- A set that a command frees or seals: PENDING while an entry of the job ring names it (R347). -/
def State.unlessJobs (s : State) (d i : Nat) (hostJobs : List Nat) (f : State → State) : State :=
  let (s, js) := s.jobSets d
  if (js ++ hostJobs).contains i then s.buckAnswer d 7 i (s.getSet i).gen else f s

/-- The state of a set as a command of LD `d` finds it; FREE entries belong to no domain. -/
def State.wrongSet (s : State) (d i : Nat) : Bool := (s.getSet i).state != 0 && (s.getSet i).domain != d

def sealSet (d i : Nat) (hostJobs : List Nat) (s : State) : State :=
  let s := s.touchSet d i
  let e := s.getSet i
  if s.wrongSet d i then s.buckAnswer d 2 i 0
  else if e.state = 2 then s.buckAnswer d 0 i e.gen
  else if e.state ≠ 1 then s.buckAnswer d 1 i e.gen
  else s.unlessJobs d i hostJobs fun s => (s.updSet i fun e => { e with state := 2 }).buckAnswer d 0 i e.gen

/-- SEAL (R346, R347); `hostJobs` are the sets named by the unconsumed entries of a job ring in host memory. -/
def execSeal (d i : Nat) (hostJobs : List Nat) (s : State) : Host.Outcome State Fault Refusal := .next (s.asLd d 0x900000 (sealSet d i hostJobs))

def switchSet (d i : Nat) (s : State) : State :=
  let s := s.touchSet d i
  let e := s.getSet i
  if s.wrongSet d i then s.buckAnswer d 2 i 0
  else if e.state = 3 ∨ s.weight.switches.any (·.set == i) then s.buckAnswer d 0 i e.gen
  else if e.state ≠ 2 then s.buckAnswer d 1 i e.gen
  else if (s.drainingSet d e.model).isSome || s.weight.switches.any (fun w => w.dom == d && (s.getSet w.set).model == e.model) then
    s.buckAnswer d 8 i e.gen
  else
    let s := s.buckAnswer d 0 i e.gen
    if s.ctxRuns d then { s with weight := { s.weight with switches := s.weight.switches ++ [{ dom := d, set := i, ring := s.ring.count }] } }
    else s.takeSwitch i

/-- SWITCH (R348, R350). -/
def execSwitch (d i : Nat) (s : State) : Host.Outcome State Fault Refusal := .next (s.asLd d 0x900000 (switchSet d i))

def drainModel (d m : Nat) (s : State) : State :=
  match s.currentSet d m with
  | none => s.buckAnswer d 9 0 0
  | some i =>
    let s := (s.touchSet d i).buckAnswer d 0 i (s.getSet i).gen
    if s.weight.drains.any fun h => h.dom == d && h.model == m then s
    else { s with weight := { s.weight with drains := s.weight.drains ++ [{ dom := d, model := m, on := false, noted := false }] } }

/-- DRAIN (R353). -/
def execDrain (d m : Nat) (s : State) : Host.Outcome State Fault Refusal := .next (s.asLd d 0x900000 (drainModel d m))

def releaseCmd (d i : Nat) (hostJobs : List Nat) (s : State) : State :=
  let s := s.touchSet d i
  let e := s.getSet i
  if s.wrongSet d i then s.buckAnswer d 2 i 0
  else if e.state = 0 then s.buckAnswer d 0 i 0
  else if e.state = 3 ∨ e.state = 4 then s.buckAnswer d 1 i e.gen
  else s.unlessJobs d i hostJobs fun s =>
    (({ s with weight := { s.weight with switches := s.weight.switches.filter (·.set != i) } } : State).freeSet i).buckAnswer d 0 i e.gen

/-- RELEASE (R346). -/
def execRelease (d i : Nat) (hostJobs : List Nat) (s : State) : Host.Outcome State Fault Refusal := .next (s.asLd d 0x900000 (releaseCmd d i hostJobs))

def jobResume (d : Nat) (s : State) : State :=
  let s := s.buckAnswer d 0 0 0
  s.updBuck d fun b =>
    if b.stopped then { b with stopped := false, stopStatus := 0, jobCons := (b.jobCons + 1) % b.jobSize } else b

/-- JOB_RESUME (R346, R361). -/
def execJobResume (d : Nat) (s : State) : Host.Outcome State Fault Refusal := .next (s.asLd d 0x900000 (jobResume d))

/-- BUCK_JOB_BASE (R367); a host ring must lie in the host region (R484). -/
def buckJobBase (d v : Nat) (s : State) : State :=
  let dev := bit v 63
  let a := fld v 47 0
  if a % 64 ≠ 0 then s
  else if !dev ∧ !s.placed d a 64 (s.getBuck d).jobSize then s.hostDrop d 1 0x900028
  else s.updBuck d fun b => { b with jobDev := dev, jobBase := a }

def buckDoorbell (d v : Nat) (s : State) : State :=
  let b := s.getBuck d
  if !b.jobDev ∧ b.jobCons = b.jobProd ∧ fld v 16 0 ≠ b.jobSize ∧ !s.placed d b.jobBase 64 (fld v 16 0) then s.hostDrop d 1 0x900030
  else s.updBuck d fun b =>
    let n := fld v 16 0
    let b := if b.jobCons = b.jobProd ∧ 2 ≤ n ∧ n ≤ 65536 ∧ n ≠ b.jobSize then
        { b with jobSize := n, jobCons := b.jobCons % n, jobProd := b.jobCons % n } else b
    let p := fld v 63 32
    if p < b.jobSize then { b with jobProd := p } else b

/-- BUCK_JOB_DOORBELL (R354, R367). -/
def execBuckJobDoorbell (d v : Nat) (s : State) : Host.Outcome State Fault Refusal := .next (s.asLd d 0x900030 (buckDoorbell d v))

/-! Jobs (R354 to R366). -/

/-- A job entry (R355). -/
structure BuckJob where
  type : Nat
  keep : Bool
  imp : Bool
  kMajor : Bool
  srcScaled : Bool
  dstScaled : Bool
  srcFmt : Nat
  dstFmt : Nat
  set : Nat
  chk : Nat
  srcKind : Nat
  src : Nat
  k : Nat
  n : Nat
  stride : Nat
  dst : Nat
  scales : Nat
  notch : Nat
  add : Nat

def BuckJob.ofBytes (b : List Byte) : BuckJob :=
  let f := num b 1 1
  { type := num b 0 1, keep := bit f 0, imp := bit f 1, kMajor := bit f 2, srcScaled := bit f 3, dstScaled := bit f 4
    srcFmt := num b 2 1, dstFmt := num b 3 1, set := num b 4 1, chk := num b 5 1, srcKind := num b 15 1 / 64, src := num b 8 6
    k := num b 16 4, n := num b 20 4, stride := num b 24 8, dst := num b 32 8, scales := num b 40 8, notch := num b 48 2
    add := num b 52 4 }

/-- Formats that carry block scales, may carry them, or carry none (R164). -/
def scaleOk (fmt : Nat) (scaled : Bool) : Bool :=
  if fmt ≥ 6 then scaled else if 3 ≤ fmt then true else !scaled

/-- The entry keeps R355. -/
def State.jobOk (s : State) (d : Nat) (b : List Byte) : Bool :=
  let j := BuckJob.ofBytes b
  decide (num b 1 1 < 32) && num b 6 2 == 0 && num b 50 2 == 0 && num b 57 7 == 0 && decide (j.srcKind ≤ 2) && decide (num b 14 2 % 2 ^ 14 = 0) &&
  (j.notch == 0xFFFF || s.notchDomain j.notch == some d) &&
  (j.type == 2 || (decide (1 ≤ j.dstFmt ∧ j.dstFmt ≤ 8) && (decide (j.srcFmt ≤ 8) || j.srcFmt == 0x10) && scaleOk j.dstFmt j.dstScaled &&
    (j.srcFmt == 0x10 || scaleOk j.srcFmt j.srcScaled) && (j.chk == 1 || j.chk == 2) && decide (1 ≤ j.k ∧ j.k ≤ 2 ^ 24) &&
    decide (1 ≤ j.n ∧ j.n ≤ 2 ^ 24) && j.dst % 512 == 0))

/-! A link source: frames of a circuit that the plan routes to port 48, in SEQ order (R359). -/

/-- A frame of circuit `ckt` that has come to the Bucker. -/
def Flit.toBucker (f : Flit) (ckt : Nat) : Bool := f.loc == .unit 48 && f.ckt == ckt

/-- A frame in the order of SEQ. -/
def insSeq (f : Flit) : List Flit → List Flit
  | [] => [f]
  | g :: gs => if f.seq < g.seq then f :: g :: gs else g :: insSeq f gs

/-- The frames that have come, in SEQ order. -/
def State.linkFrames (s : State) (ckt : Nat) : List Flit := (s.net.flits.filter (·.toBucker ckt)).foldl (fun l f => insSeq f l) []

/-- Whether the transfer is there: frames without a gap, the last of them LAST, or bytes enough (DESIGN CHOICE,
notes/assumptions/55.md). -/
def State.linkReady (s : State) (ckt n : Nat) : Bool :=
  let fs := s.linkFrames ckt
  let q0 := (fs.map (·.seq)).headD 0
  (enum fs).all (fun p => p.2.seq == q0 + p.1) && (fs.any (·.last) || decide (n ≤ 512 * fs.length))

/-- R243: the frames that fail their check where they are delivered are dropped, each with a NACK. -/
def State.linkChecked (s : State) (ckt : Nat) : State :=
  (s.net.flits.filter fun f => f.toBucker ckt && !f.intact).foldl (fun s f =>
    (({ s with net := { s.net with flits := dropFirst (· == f) s.net.flits } } : State).noteE2e (.unit 48) false false f.inPort f.ckt f.seq).nackFlit
      (.unit 48) f) s

/-- Bytes of a source range, by kind: device memory, or the bytes that a host read or the frames of a circuit brought
from the range's start on; false where a read was refused or is uncorrectable (R361). -/
def State.jobBytes (s : State) (d kind a n : Nat) (w : HostRead) : State × List Byte × Bool :=
  match kind with
  | 1 => let (s, bs) := s.unitRead d 18 a n; (s, bs.getD (zeros n), bs.isSome)
  | 2 =>
    let fs := s.linkFrames (a % 4096)
    ({ s with net := { s.net with flits := s.net.flits.filter fun f => !f.toBucker (a % 4096) } },
      slice ((fs.map (·.payload)).flatten) 0 n, fs.all fun f => !f.suspect)
  | _ => match s.hostRead w with
    | some (some bs) => (s.useRead w, slice bs 0 n, true)
    | _ => (s.useRead w, zeros n, false)

/-- Bytes of the source elements, of its scales, and of a bit row (R355). -/
def BuckJob.span (j : BuckJob) : Nat :=
  let w := fmtBits j.srcFmt
  if j.kMajor then (j.n - 1) * j.stride + cdiv (j.k * w) 8 else (j.k - 1) * j.stride + cdiv (j.n * w) 8
def BuckJob.scaleSpan (j : BuckJob) : Nat := cdiv j.k 32 * j.n

/-- What a source element is: its code, and its value with its scale (R356). -/
structure Source where
  elems : List Byte
  scales : List Byte

def BuckJob.code (j : BuckJob) (src : Source) (k n : Nat) : Nat :=
  let w := fmtBits j.srcFmt
  imageBits src.elems (if j.kMajor then 8 * n * j.stride + k * w else 8 * k * j.stride + n * w) w
def BuckJob.scaleByte (j : BuckJob) (src : Source) (k n : Nat) : Nat := num src.scales (k / 32 * j.n + n) 1
def BuckJob.value (j : BuckJob) (src : Source) (k n : Nat) : FV :=
  if k ≥ j.k ∨ n ≥ j.n then .zero false
  else
    let v := decodeElem j.srcFmt (j.code src k n)
    if j.srcScaled then v.mul (e8m0FV (j.scaleByte src k n)) else v

/-- An image being formed: element codes by row and column, scale bytes by block and column, saturations, failure status. -/
structure ImgAcc where
  codes : List (List Nat)
  scales : List (List Nat)
  sat : Nat := 0
  status : Nat := 0

/-- R356: one element of a target without block scales. -/
def BuckJob.plain (j : BuckJob) (src : Source) (k n : Nat) : Nat × Bool × Bool :=
  let v := j.value src k n
  let raw := if k ≥ j.k ∨ n ≥ j.n then 0 else j.code src k n
  let neg := bit raw (fmtBits j.srcFmt - 1)
  if !v.isFinite then
    (match j.dstFmt with
      | 3 => (if neg then 0xFF else 0x7F, false, true)
      | 5 => (match v with | .nan => (Config.nanInt8 neg).toNat | .inf n => if n then 0x80 else 0x7F | _ => 0, false, true)
      | f => ((roundElem f false v).code, false, true))
  else
    let r := roundElem j.dstFmt true v
    (r.code, r.ovf, false)

/-- R356: tile (kt, nt): columns of codes for the whole tile, with its scales. A block whose scale is 0xFF fails the job
with NONFINITE but under KEEP_NONFIN. -/
def BuckJob.tile (j : BuckJob) (src : Source) (kt nt : Nat) : ImgAcc :=
  let kc := classK (fmtClass j.dstFmt)
  let same : Bool := j.srcFmt == j.dstFmt && j.srcScaled == j.dstScaled && !j.imp
  let cols := (List.range 64).map fun x => 64 * nt + x
  let rows := (List.range kc).map fun x => kc * kt + x
  let anyNf := rows.any fun k => cols.any fun n => !(j.value src k n).isFinite
  let status := if anyNf && !j.keep then 3 else 0
  if same then
    { codes := rows.map fun k => cols.map fun n => if k ≥ j.k ∨ n ≥ j.n then 0 else j.code src k n
      scales := if j.dstScaled then (List.range (kc / 32)).map fun b => cols.map fun n =>
          if kc * kt + 32 * b ≥ j.k ∨ n ≥ j.n then 127 else j.scaleByte src (kc * kt + 32 * b) n else []
      status := status }
  else if j.dstScaled then
    let blocks := (List.range (kc / 32)).map fun b => cols.map fun n =>
      let k0 := kc * kt + 32 * b
      let imp := if j.imp ∧ k0 < j.k ∧ n < j.n then some (j.scaleByte src k0 n) else none
      let nf := (List.range 32).any fun i => !(j.value src (k0 + i) n).isFinite
      let r := mxBlock j.dstFmt imp ((List.range 32).map fun i => j.value src (k0 + i) n)
      if nf then (255, List.replicate 32 0, 0, true) else r
    { codes := (List.range kc).map fun i => (blocks.getD (i / 32) []).map fun r => r.2.1.getD (i % 32) 0
      scales := blocks.map fun bl => bl.map (·.1)
      sat := ((blocks.map fun bl => (bl.map fun r => r.2.2.1).foldl (· + ·) 0)).foldl (· + ·) 0
      status := status }
  else
    let rs := rows.map fun k => cols.map fun n => j.plain src k n
    { codes := rs.map fun row => row.map (·.1), scales := []
      sat := ((rs.map fun row => (row.filter (·.2.1)).length)).foldl (· + ·) 0, status := status }

/-- The bytes of an image's element and scale lines (R72, R171). -/
def ImgAcc.bytes (a : ImgAcc) (fmt : Nat) (scaled : Bool) : List Byte :=
  padTo (512 * tileElemLines fmt) (leBytes (512 * tileElemLines fmt) (packBits (fmtBits fmt) a.codes.flatten)) ++
  (if scaled then padTo 512 (a.scales.flatten.map fun c => BitVec.ofNat 8 c) else [])
where
  /-- Codes packed in ascending bits. -/
  packBits (w : Nat) : List Nat → Nat
    | [] => 0
    | c :: cs => c % 2 ^ w + 2 ^ w * packBits w cs

/-- The exact dyadic of a row's finite weights, and its presence flags (R84). -/
def rowCheck (b : WBuf) (k : Nat) : FV × Nat :=
  let ws := (List.range 64).map fun n => b.weight k n
  let has := fun (p : FV → Bool) => ws.any p
  ((ws.filter (·.isFinite)).foldl FV.add (.zero false),
   flag (has FV.isNan) 0 + flag (has fun v => v == .inf false) 1 + flag (has fun v => v == .inf true) 2 + flag (has FV.isZero) 3 +
   flag (has fun v => match v with | .num m _ => decide (0 < m) | _ => false) 4 +
   flag (has fun v => match v with | .num m _ => decide (m < 0) | _ => false) 5)

/-- R358: SIG odd with EXP the weight of the lowest set bit; 0 and 0 for a zero sum. -/
def canonSig (v : FV) : Int × Int :=
  match v with
  | .num m e => if m = 0 then (0, 0) else
      let t := lowBit m.natAbs
      (m / (2 ^ t : Nat), e + (t : Int))
  | _ => (0, 0)

/-- A check entry as bytes, with whether a compact SIG fits (R84, R358). -/
def checkBytes (form : Nat) (v : FV) (flags : Nat) : List Byte × Bool :=
  let (sig, e) := canonSig v
  if form = 2 then (leBytes 40 (at_ (wrapInt 296 sig) 24 + at_ (wrapInt 16 e) 8 + flags), true)
  else (leBytes 16 (at_ (wrapInt 104 sig) 24 + at_ (wrapInt 16 e) 8 + flags), decide (-(2 ^ 103 : Int) ≤ sig ∧ sig < 2 ^ 103))

/-- The check lines of an image (R84, R90), and whether every entry fits. -/
def checkLines (fmt form : Nat) (scaled : Bool) (img : List Byte) : List Byte × Bool :=
  let b : WBuf := { bytes := img, fmt := fmt, scaled := scaled, chkForm := form }
  let rs := (List.range (classK (fmtClass fmt))).map fun k => let c := rowCheck b k; checkBytes form c.1 c.2
  (padTo (512 * tileCheckLines fmt form) ((rs.map (·.1)).flatten), rs.all (·.2))

/-- Bytes written to a set at an offset, line by line through its extents (R344). -/
def State.setWrite (s : State) (e : SetEnt) (off : Nat) (bs : List Byte) : State :=
  (List.range (cdiv bs.length 512)).foldl (fun s l =>
    s.writeDram (State.wsetAddr.go (off + 512 * l) e.ext) (slice bs (512 * l) 512) (2 ^ 64 - 1)) s

/-! The cord format (R362). -/

/-- Frequencies of a cord block by symbol; 0 for absent ones. -/
def cordFreqs (bs : List Byte) : List Nat × Nat :=
  (List.range 256).foldl (fun (acc : List Nat × Nat) sym =>
    if bit (num bs (8 + sym / 8) 1) (sym % 8) then (acc.1 ++ [ofBe (slice bs (40 + 2 * acc.2) 2) + 1], acc.2 + 1) else (acc.1 ++ [0], acc.2))
    ([], 0)

/-- The symbol of a value, with the frequencies below it. -/
def cordSym : List Nat → Nat → Nat → Nat → Option (Nat × Nat × Nat)
  | [], _, _, _ => none
  | f :: fs, sym, cum, v => if f ≠ 0 ∧ v < cum + f then some (sym, cum, f) else cordSym fs (sym + 1) (cum + f) v

/-- Renormalisation: at most three bytes are taken, since r × f ≥ 1 after a range of at least 2^24. -/
def cordNorm : Nat → Nat → Nat → List Byte → Option (Nat × Nat × List Byte)
  | 0, rng, code, bs => some (rng, code, bs)
  | n + 1, rng, code, bs =>
    if rng ≥ 2 ^ 24 then some (rng, code, bs)
    else match bs with
      | [] => none
      | b :: rest => cordNorm n (rng * 256) ((code * 256 + b.toNat) % 2 ^ 32) rest

/-- COUNT symbols decoded; none where the block breaks R362. -/
def cordLoop (fs : List Nat) : Nat → Nat → Nat → List Byte → List Byte → Option (List Byte)
  | 0, _, _, bs, acc => if bs = [] then some acc.reverse else none
  | n + 1, rng, code, bs, acc =>
    if code ≥ rng then none
    else
      let r := rng / 65536
      match cordSym fs 0 0 (min (code / max r 1) 65535) with
      | none => none
      | some (sym, cum, f) =>
        match cordNorm 8 (r * f) (code - r * cum) bs with
        | none => none
        | some (rng, code, bs) => cordLoop fs n rng code bs (BitVec.ofNat 8 sym :: acc)

/-- One cord block decoded to `count` bytes, with the bytes of the block. -/
def cordBlock (bs : List Byte) (count : Nat) : Option (List Byte × Nat) :=
  let len := ofBe (slice bs 0 4)
  let (fs, present) := cordFreqs bs
  let coded := (bs.take len).drop (40 + 2 * present)
  if bs.length < len ∨ len < 44 + 2 * present ∨ ofBe (slice bs 4 4) ≠ count ∨ fs.foldl (· + ·) 0 ≠ 65536 then none
  else (cordLoop fs count 0xFFFFFFFF (ofBe (coded.take 4)) (coded.drop 4) []).map fun out => (out, len)

/-! Running a job. -/

/-- Images of a job (R357). -/
def BuckJob.tiles (j : BuckJob) : Nat × Nat := (cdiv j.n 64, cdiv j.k (classK (fmtClass j.dstFmt)))
def BuckJob.limg (j : BuckJob) : Nat := tileLines j.dstFmt j.dstScaled j.chk

/-- Outcome of a run: status, lines written, elements saturated. -/
structure Ran where
  status : Nat := 0
  lines : Nat := 0
  sat : Nat := 0

/-- R358: the two adder paths differ. -/
def Ran.checked (r : Ran) (selfBad : Bool) : Ran := if selfBad ∧ r.status = 0 then { r with status := 5 } else r

/-- The images from number `i` on, in the order of R357, until one fails; `cord` holds what is left of a CORD source. -/
def State.runTiles (j : BuckJob) (e : SetEnt) (base : Nat) (src : Source) : Nat → Nat → List Byte → State → Ran → State × Ran
  | 0, _, _, s, r => (s, r)
  | n + 1, i, cord, s, r =>
    let kts := j.tiles.2
    let body := 512 * (tileElemLines j.dstFmt + tileScaleLines j.dstScaled)
    let made : Option (List Byte × List Byte × Nat × Nat) :=
      if j.srcFmt = 0x10 then (cordBlock cord body).map fun x => (x.1, cord.drop x.2, 0, 0)
      else let a := j.tile src (i % kts) (i / kts); some (a.bytes j.dstFmt j.dstScaled, [], a.sat, a.status)
    match made with
    | none => (s, { r with status := 6 })
    | some (img, rest, sat, status) =>
      if status ≠ 0 then (s, { r with status := status })
      else
        let (chk, fits) := checkLines j.dstFmt j.chk j.dstScaled img
        if !fits then (s, { r with status := 4 })
        else
          let s := s.setWrite e (base + i * j.limg * 512) (img ++ chk)
          State.runTiles j e base src n (i + 1) rest s { r with lines := r.lines + j.limg, sat := r.sat + sat }

/-- A live request of a domain binds an adapter slot of a set (R364). -/
def State.adapterBound (s : State) (d set slot : Nat) : Bool :=
  (tget ({} : LndLd) s.hub.lnd d).live.any fun r => r.set == set && r.bound == slot

/-- CONVERT and ADAPTER (R356 to R358, R364); `base` and `room` are the set offset and bytes it may fill. -/
def State.convert (s : State) (d : Nat) (j : BuckJob) (e : SetEnt) (base room : Nat) (selfBad : Bool) : State × Ran × Nat :=
  if base + j.tiles.1 * j.tiles.2 * j.limg * 512 > room then (s, { status := 1 }, 0)
  else
    let total := j.tiles.1 * j.tiles.2
    if j.srcFmt = 0x10 then
      -- A CORD source is as long as its blocks say; the bytes from SRC on are read as they are needed.
      let (s, bs, ok) := s.jobBytes d j.srcKind j.src (total * (j.limg * 512 + 552)) (.source d)
      if !ok && j.srcKind != 1 then (s, { status := 7 }, 0)
      else
        let (s, r) := State.runTiles j e base { elems := [], scales := [] } total 0 bs s {}
        (s, r.checked selfBad, bs.length)
    else
      let (s, bs, ok) := s.jobBytes d j.srcKind j.src j.span (.source d)
      let (s, sc, ok2) := if j.srcScaled || j.imp then s.jobBytes d j.srcKind j.scales j.scaleSpan (.scales d) else (s, [], true)
      if !ok || !ok2 then (s, { status := 7 }, 0)
      else
        let (s, r) := State.runTiles j e base { elems := bs, scales := sc } total 0 [] s {}
        (s, r.checked selfBad, bs.length + sc.length)

/-- The extent that holds a range of a set whole: its number. -/
def extentOf (ext : List (Nat × Nat)) (off n : Nat) : Option Nat :=
  (List.range ext.length).find? fun e =>
    let b := ((ext.take e).map fun x => 65536 * x.2).foldl (· + ·) 0
    decide (b ≤ off ∧ off + n ≤ b + 65536 * (ext.getD e (0, 0)).2)

/-- COPY (R361, R366): a range of one extent of a set into a cache extent of it. -/
def State.copyRange (s : State) (d : Nat) (j : BuckJob) (e : SetEnt) (entry : Nat) : State × Ran × Nat :=
  let n := (Config.copyBytes entry).toNat
  match extentOf e.ext j.scales n, extentOf e.ext j.dst n with
  | some _, some x =>
    if !bit e.cache x then (s, { status := 1 }, 0)
    else
      let (s, bs, bad) := s.hubRead d noUnit 1 (State.wsetAddr.go j.scales e.ext) n (s.getCmp 18).loc
      if bad then (s, { status := 7 }, 0)
      else (((enum bs).foldl (fun s p => { s with mem := { s.mem with
          mem := memPut s.mem.mem (State.wsetAddr.go (j.dst + p.1) e.ext) p.2
          flip := memDel s.mem.flip (State.wsetAddr.go (j.dst + p.1) e.ext) } }) s), { lines := cdiv n 512 }, n)
  | _, _ => (s, { status := 1 }, 0)

/-- The job entry at CONS: none while its host read is outstanding; `some none` where it cannot be read. -/
def State.jobEntry (s : State) (d : Nat) : State × Option (Option (List Byte)) :=
  let b := s.getBuck d
  if b.jobDev then let (s, bs) := s.unitRead d 18 (b.jobBase + 64 * b.jobCons) 64; (s, some bs) else (s, s.hostRead (.job d))

/-- A job's work done; its completion follows with BUCKER_JOB_COMPLETE. -/
def State.jobRan (s : State) (d : Nat) (j : BuckJob) (r : Ran) (bytes : Nat) : State :=
  (s.useRead (.job d)).updBuck d fun b =>
    { b with done := some { type := j.type, status := r.status, set := j.set, notch := j.notch, add := j.add, slot := j.scales % 65536 }
             bytesIn := b.bytesIn.add bytes, linesOut := b.linesOut.add r.lines, sat := b.sat.add r.sat }

/-- A job of a readable entry (R354, R355, R361, R364, R366). -/
def State.runBuckJob (s : State) (d : Nat) (bs : List Byte) (selfBad : Bool) : State :=
  let j := BuckJob.ofBytes bs
  let s := s.touchSet d j.set
  let e := s.getSet j.set
  let slot := j.scales % 65536
  if !(decide (1 ≤ j.type ∧ j.type ≤ 3) && s.jobOk d bs) then s.jobRan d j { status := 1 } 0
  else if e.state = 0 then s.jobRan d j { status := 2 } 0
  else if e.domain ≠ d then s.jobRan d j { status := 1 } 0
  else match j.type with
    | 1 =>
      if e.state ≠ 1 then s.jobRan d j { status := 2 } 0
      else let (s, r, n) := s.convert d j e j.dst e.length selfBad; s.jobRan d j r n
    | 2 =>
      if e.state = 5 then s.jobRan d j { status := 2 } 0
      else let (s, r, n) := s.copyRange d j e (ofLe bs); s.jobRan d j r n
    | _ =>
      if e.state ≠ 2 ∧ e.state ≠ 3 ∧ e.state ≠ 4 then s.jobRan d j { status := 2 } 0
      else if slot ≥ e.adCount then s.jobRan d j { status := 1 } 0
      else if s.adapterBound d j.set slot then s.jobRan d j { status := 8 } 0
      else
        let s := (s.touchSlot d j.set slot).updSet j.set fun e => { e with loaded := e.loaded.filter (· != slot) }
        let base := e.adBase + 512 * e.adLines * slot
        let (s, r, n) := s.convert d j e base (base + 512 * e.adLines) selfBad
        s.jobRan d j r n

/-- A source in host memory has come, with the scales it needs (R355, R502). -/
def State.sourceRead (s : State) (d : Nat) (j : BuckJob) : Bool :=
  (s.hostRead (.source d)).isSome && (j.srcFmt == 0x10 || !(j.srcScaled || j.imp) || (s.hostRead (.scales d)).isSome)

/-- The job at CONS of an LD, where its TYPE is `type` or one that no row has (R354, R359): none while the ring is empty or
stopped, another job runs, the domain's plan does not run, or a host read is outstanding. -/
def jobStart (d type : Nat) (selfBad : Bool) (s : State) : State :=
  let b := s.getBuck d
  if b.stopped || b.done.isSome || b.jobCons == b.jobProd || !s.ctxRuns d then s
  else match s.jobEntry d with
    | (_, none) => s
    | (s, some none) => s.jobRan d (BuckJob.ofBytes (zeros 64)) { status := 7 } 0
    | (r, some (some bs)) =>
      let t := num bs 0 1
      let j := BuckJob.ofBytes bs
      let ckt := j.src % 4096
      if t ≠ type ∧ t ≠ 0 ∧ t ≤ 3 then s
      else if (t = 1 ∨ t = 3) ∧ j.srcKind = 0 ∧ !s.sourceRead d j then s
      else if (t = 1 ∨ t = 3) ∧ j.srcKind = 2 ∧ !(s.linkChecked ckt).linkReady ckt (if j.srcFmt = 0x10 then 2 ^ 64 else j.span) then s.linkChecked ckt
      else if (t = 1 ∨ t = 3) ∧ j.srcKind = 2 then (r.linkChecked ckt).runBuckJob d bs selfBad
      else r.runBuckJob d bs selfBad

def execConvert (d : Nat) (selfBad : Bool) (s : State) : Host.Outcome State Fault Refusal := .next (jobStart d 1 selfBad s)
def execCopy (d : Nat) (s : State) : Host.Outcome State Fault Refusal := .next (jobStart d 2 false s)
def execAdapter (d : Nat) (selfBad : Bool) (s : State) : Host.Outcome State Fault Refusal := .next (jobStart d 3 selfBad s)

/-- The STATUS byte written to the entry (R355). -/
def State.writeJobStatus (s : State) (d st : Nat) : State :=
  let b := s.getBuck d
  let a := b.jobBase + 64 * b.jobCons + 56
  if b.jobDev then { s with mem := { s.mem with mem := memPut s.mem.mem a (BitVec.ofNat 8 st) } }
  else s.hostWrite d a [BitVec.ofNat 8 st]

/-- BUCKER_JOB_COMPLETE (R355, R361, R364). -/
def jobComplete (d : Nat) (s : State) : State :=
  match (s.getBuck d).done with
  | none => s
  | some r =>
    let idx := (s.getBuck d).jobCons
    let s := s.writeJobStatus d r.status
    let s := s.updBuck d fun b => { b with done := none }
    if r.status = 0 then
      let s := s.updBuck d fun b => { b with jobCons := (b.jobCons + 1) % b.jobSize }
      let s := if r.type = 3 then
          let s := s.updSet r.set fun e => { e with loaded := r.slot :: e.loaded, adJobs := e.adJobs + 1 }
          { s with weight := { s.weight with adapters := s.weight.adapters ++ [(d, r.set, r.slot)] } }
        else s
      if r.notch = 0xFFFF then s else s.reachNotch { src := unitSrc 48, op := 0, notch := r.notch, value := r.add }
    else
      let s := s.updBuck d fun b =>
        { b with stopped := true, stopStatus := r.status, jobFail := b.jobFail.add 1
                 err := b.err.latch (at_ r.status 48 + at_ r.set 40 + idx) s.ring.count 0 }
      let st := (s.getSet r.set).state
      let s := if 3 ≤ r.status ∧ r.status ≤ 7 ∧ (st = 1 ∨ st = 2) ∧ (s.getSet r.set).domain = d then
          s.updSet r.set fun e => { e with state := 5 } else s
      s.raiseAt 0x0507 d noUnit (s.getCmp 19).loc r.set r.status

def execBuckerJobComplete (d : Nat) (s : State) : Host.Outcome State Fault Refusal := .next (jobComplete d s)

end Sys2Proof.Machine
end

