-- ==== Sys2Proof/Machine/Edger.lean ====
section
/-! DEFINITION. The Edger's instructions (chapter 04): stream slots, the finished-tile queue, compute operations. -/

namespace Sys2Proof.Machine

def Stand.getSlot (t : Stand) (k : Nat) : Slot := tget {} t.slots k
def Stand.updSlot (t : Stand) (k : Nat) (f : Slot → Slot) : Stand := { t with slots := tupd {} t.slots k f }

/-! Streams (R100 to R102). -/

/-- Elements of a slot's stream (R101, R106). -/
def Slot.total (q : Slot) (d : Desc) : Nat := match q.rows with | some r => d.e 0 * r | none => d.count

/-- Positions of the next `n` elements; none past the end of a stream without WRAP, or of a closed slot (R100, R101). -/
def Slot.positions (q : Slot) (total n : Nat) : List (Option Nat) :=
  (List.range n).map fun i =>
    let p := q.pos + i
    if !q.isOpen || total == 0 then none else if p < total then some p else if q.wrap then some (p % total) else none

/-- The position after `n` elements. -/
def Slot.advance (q : Slot) (total n : Nat) : Slot :=
  { q with pos := if q.wrap && total ≠ 0 then (q.pos + n) % total else q.pos + n }

/-- Bit address of the element, and address of its scale, at a position. -/
def Desc.posBit (d : Desc) (aoff p : Nat) : Int := let c := d.coords p; d.elemBit aoff (intCoords c) (c.headD 0)
def Desc.posScale (d : Desc) (aoff p : Nat) : Int := let c := d.coords p; d.scaleAddr aoff (intCoords c) (c.headD 0)

/-- The lines of the piece at a position: the element's, after that of its block's scale where a block begins there or at the first
piece of an instruction (R131; DEDUCED, notes/assumptions/44.md). -/
def Desc.pieceLines (d : Desc) (aoff p : Nat) (first : Bool) : List Int :=
  let c := d.coords p
  (if d.scaled && (c.headD 0 % 32 == 0 || first) then [d.scaleAddr aoff (intCoords c) (c.headD 0) / 512] else []) ++
  distinctLines (elemBytes (d.elemBit aoff (intCoords c) (c.headD 0)) d.bits)

/-- The pieces of a slot's next `n` elements, each with its lines; none of a resident stream (R102). -/
def Slot.pieces (q : Slot) (d : Desc) (n : Nat) : List (List Int) :=
  if q.resident.isSome then []
  else ((List.range n).zip (q.positions (q.total d) n)).map fun p => match p.2 with
    | some pos => d.pieceLines q.aoff pos (p.1 == 0)
    | none => []

/-- One piece through a slot's line buffer: lines read, and the line it holds then. -/
def bufferPiece : List Int → Option Int → List Int × Option Int
  | [], cur => ([], cur)
  | l :: ls, cur => let r := bufferPiece ls (some l); (if cur = some l then r.1 else l :: r.1, r.2)

/-- The next piece of each source in turn. -/
def chuteTurn : List (Option Int × List (List Int)) → List Int × List (Option Int × List (List Int))
  | [] => ([], [])
  | (cur, []) :: r => let x := chuteTurn r; (x.1, (cur, []) :: x.2)
  | (cur, p :: ps) :: r =>
    let b := bufferPiece p cur
    let x := chuteTurn r
    (b.1 ++ x.1, (b.2, ps) :: x.2)

/-- Lines that the chute reads for sources of at most `n` pieces, in the order in which the elements are taken (R131). -/
def chuteReads : Nat → List (Option Int × List (List Int)) → List Int
  | 0, _ => []
  | n + 1, ss => let x := chuteTurn ss; x.1 ++ chuteReads n x.2

/-- R98: an MX or scaled INT8 element: a product beyond the FP32 range is ±Inf. -/
def laneScale (v s : FV) : FV × Bool :=
  match v.mul s with
  | .num m e => if FV.lt (.num (m.natAbs : Int) e) (.num 1 128) then (.num m e, false) else (.inf (decide (m < 0)), true)
  | x => (x, false)

/-- The lines an instruction sees of a slot: those read for it, or the one a resident stream keeps. -/
def Slot.lines (q : Slot) (got : LineTab) : LineTab := match q.resident with | some r => [r] | none => got

/-- The next `n` elements of a slot as values, with how many the scaling of R98 made infinite. -/
def Slot.values (q : Slot) (d : Desc) (got : LineTab) (n : Nat) : List FV × Nat :=
  let tab := q.lines got
  let es := (q.positions (q.total d) n).map fun p => match p with
    | none => (FV.zero false, false)
    | some p =>
      let v := decodeElem d.fmt (tab.elem (d.posBit q.aoff p) d.bits)
      if d.scaled then laneScale v (e8m0FV (tab.byte (d.posScale q.aoff p))) else (v, false)
  (es.map (·.1), (es.filter (·.2)).length)

/-- The next `n` scales of an IMPORT, as E8M0 bytes (R113). -/
def Slot.scales (q : Slot) (d : Desc) (got : LineTab) (n : Nat) : List Nat :=
  let tab := q.lines got
  (q.positions (q.total d) n).map fun p => match p with
    | none => 0
    | some p => tab.elem (d.posBit q.aoff p) d.bits % 256

/-- Elements of the next `n` that are past the end, or of a closed slot (R100, R101). -/
def Slot.missing (q : Slot) (d : Desc) (n : Nat) : Nat := ((q.positions (q.total d) n).filter Option.isNone).length

/-! Results and the destination (R99, R113, R132). -/

/-- Consecutive codes packed as they stand in memory. -/
def packBlock (bits : Nat) (codes : List Nat) : Nat :=
  ((List.range codes.length).zip codes).foldl (fun a q => a + q.2 * 2 ^ (q.1 * bits)) 0

def byteWrites (a : Int) (bs : List Byte) : Writes := ((List.range bs.length).zip bs).map fun p => (a + (p.1 : Int), p.2)

/-- What an instruction sends to its destination: codes of an unscaled stream, or blocks of an MX one. -/
inductive EdOut where
  | plain (codes : List Nat)
  | blocks (bs : List (Nat × List Nat))
  deriving DecidableEq, Repr

/-- The byte writes of an output at the given positions (R100, R113); a block's scale before its elements. -/
def EdOut.writes (o : EdOut) (d : Desc) (aoff : Nat) (ps : List (Option Nat)) : Writes :=
  match o with
  | .plain codes =>
    ((ps.zip codes).filterMap fun p => p.1.map fun pos => byteWrites (d.posBit aoff pos / 8) (leBytes (d.bits / 8) p.2)).flatten
  | .blocks bs =>
    (((List.range bs.length).zip bs).filterMap fun b =>
      match ps.getD (32 * b.1) none with
      | some pos => some (byteWrites (d.posScale aoff pos) [BitVec.ofNat 8 b.2.1] ++
                          byteWrites (d.posBit aoff pos / 8) (leBytes (4 * d.bits) (packBlock d.bits b.2.2)))
      | none => none).flatten

/-- The byte writes of an output to a slot at its next `n` elements. -/
def Slot.writes (q : Slot) (d : Desc) (o : EdOut) (n : Nat) : Writes := o.writes d q.aoff (q.positions (q.total d) n)

/-- An output of the same shape with nothing in it: it moves the same lines. -/
def EdOut.blank (scaled : Bool) (n : Nat) : EdOut :=
  if scaled then .blocks (List.replicate (n / 32) (0, List.replicate 32 0)) else .plain (List.replicate n 0)

/-- What a compute operation formed: what D takes, in `n` elements, and what it counts. -/
structure EdResult where
  out : EdOut
  n : Nat
  sat : Nat := 0
  nonfin : Nat := 0
  deriving DecidableEq, Repr

/-- Blocks of 32 quantised (R113), with imported scales where given. -/
def mxBlocks (fmt : Nat) : List (List FV) → List (Option Nat) → EdResult
  | [], _ => { out := .blocks [], n := 0 }
  | g :: gs, imps =>
    let r := mxBlocks fmt gs (imps.drop 1)
    let (sc, codes, sat, nan) := mxBlock fmt (imps.headD none) g
    match r.out with
    | .blocks bs => { out := .blocks ((sc, codes) :: bs), n := r.n + g.length, sat := r.sat + sat, nonfin := r.nonfin + (if nan then 1 else 0) }
    | .plain _ => r

/-- Elements for an unscaled destination. -/
def plainResult (es : List EdElem) : EdResult :=
  { out := .plain (es.map (·.code)), n := es.length, sat := (es.filter (·.ovf)).length, nonfin := (es.filter (·.nonfin)).length }

/-- R111: one reduction of a group, formed in FP32 and rounded once more to a narrower destination as with SAT 0. An overflow
where every source is finite is a finite one (R99). -/
def redElem (dst : Nat) (srcs : List FV) (v : FV) : EdElem :=
  let r := if dst = 0 then fmtFP32.round false v else roundElem dst false v
  let n := srcs.any fun x => !x.isFinite
  { code := r.code, ovf := !n && (r.ovf || !v.isFinite), nonfin := n }

/-- R111, R112: the results of groups, each with its sources. -/
def redFinish (d : Desc) (f : List FV → FV) (gs : List (List FV)) : EdResult :=
  if d.scaled then mxBlocks d.fmt (groupsOf 32 gs.length (gs.map f)) []
  else plainResult (gs.map fun g => redElem d.fmt g (f g))

/-- R114: the pairs of a group, value then index. -/
def topPairs (k imm : Nat) (g : List FV) : List EdElem :=
  ((topK k g).map fun p =>
    [{ code := (fmtFP32.round false p.1).code, nonfin := !p.1.isFinite }, { code := (p.2 + imm) % 2 ^ 32 }]).flatten

/-- Source positions an operation uses: A, B, C. -/
def EdKind.uses (k : EdKind) (imp : Bool) : Bool × Bool × Bool :=
  match k with
  | .fma | .csel => (true, true, true)
  | .add | .mul | .min | .max | .cmp | .expd => (true, true, false)
  | .qmx => (true, imp, false)
  | _ => (true, false, false)

/-- Elements of A an operation consumes: n for ED_RCOMB (R112), else N. -/
def edCount (k : EdKind) (o : EdOp) : Nat := if k = .rcomb then o.imm else o.n

/-- Elements of B: one scale for a block in ED_QMX. -/
def edCountB (k : EdKind) (o : EdOp) : Nat := if k = .qmx then o.n / 32 else o.n

/-- P of R111 and R112, for R119. -/
def treeWidth (k : EdKind) (o : EdOp) : Nat := if k = .rcomb then 2 ^ clog2 o.imm else max 1024 (2 ^ clog2 o.imm)

/-- Elements that an operation sends to D: one for a group, two for a pair of ED_TOPKF. `g` is G of ED_TOPKF. -/
def edResults (k : EdKind) (o : EdOp) (g : Nat) : Nat :=
  match k with
  | .rsum | .rssq | .rmax | .rmin => o.n / max 1 o.imm
  | .rcomb => 1
  | .topkf => 2 * o.k * (o.n / max 1 g)
  | _ => o.n

/-- The number of tokens ED_RCOMB counts (R195). -/
def rcombNeed (k : EdKind) (o : EdOp) : Option Nat := if k = .rcomb then some o.imm else none

/-- The sources of a compute operation once read: values, and imported scales. -/
structure EdSrcs where
  a : List FV := []
  b : List FV := []
  c : List FV := []
  imps : List Nat := []
  saturated : Nat := 0
  deriving DecidableEq, Repr

/-- The sources of element `i` that the operation uses: those of R99, the immediate of ED_EXPD among them. -/
def EdSrcs.at_ (x : EdSrcs) (k : EdKind) (immF : FV) (i : Nat) : List FV :=
  let u := k.uses false
  [x.a.getD i (.zero false)] ++ (if u.2.1 then [x.b.getD i (.zero false)] else []) ++
  (if u.2.2 then [x.c.getD i (.zero false)] else []) ++ (if k = .expd then [immF] else [])

/-- R108 to R114: what a compute operation forms from its sources. -/
def edCompute (k : EdKind) (o : EdOp) (mode : LaneMode) (g : Nat) (dd : Desc) (x : EdSrcs) : EdResult :=
  let sat := bit o.fn 0 && k ≠ .cmp
  let groups := groupsOf o.imm x.a.length x.a
  match k with
  | .qmx => mxBlocks dd.fmt (groupsOf 32 x.a.length x.a) (if bit o.fn 0 then x.imps.map some else [])
  | .rsum => redFinish dd rsumGroup groups
  | .rssq => redFinish dd rssqGroup groups
  | .rmax => redFinish dd rmaxGroup groups
  | .rmin => redFinish dd rminGroup groups
  | .rcomb => redFinish dd (rcomb (bit o.fn 0)) [x.a]
  | .topkf => plainResult ((groupsOf g x.a.length x.a).map (topPairs o.k o.imm)).flatten
  | _ =>
    let immF := fmtFP32.decode o.imm
    let rs := (List.range x.a.length).map fun i =>
      (edResult k o.fn immF (x.a.getD i (.zero false)) (x.b.getD i (.zero false)) (x.c.getD i (.zero false)), i)
    if dd.scaled then mxBlocks dd.fmt (groupsOf 32 rs.length (rs.map fun r => edMxValue mode r.1)) []
    else plainResult (rs.map fun r => edRound k mode dd.fmt sat r.1 (x.at_ k immF r.2))

/-! Checking (R115 to R117, R121). -/

/-- The result of its lane that an armed injection takes: the first one of the lane, and for KIND 1 the first of a table function that
is no special value (R109, R116). Only a debug plan lets it act, and only lanes that run. -/
def State.edFires (s : State) (st : Nat) (k : EdKind) (o : EdOp) (mode : LaneMode) (x : EdSrcs) (results : Nat) : Option (Nat × Nat) :=
  let i := (s.getStand st).edInject
  let lane := fld i.w 6 0
  let kind := fld i.w 7 7
  let immF := fmtFP32.decode o.imm
  if !i.arm || !s.debugOn st || decide (lane ≥ mode.lanes) || (kind == 1 && !k.isTable) then none
  else
    let hits := ((List.range results).filter fun j => j % mode.lanes == lane).filter fun j =>
      kind == 0 || !k.special (x.a.getD j (.zero false)) (x.b.getD j (.zero false)) immF
    hits.head?.map fun j => (kind, j)

/-- One mantissa bit of a result inverted (R121): which one is free. -/
def flipCode (seed fmt c : Nat) : Nat :=
  let mb := match fmtOf? fmt with | some f => f.mb | none => fmtBits fmt
  c ^^^ 2 ^ ((Config.freeMantissaBit seed).toNat % max 1 mb)

/-- Result `j` of an output with the bit inverted. -/
def flipResult (seed fmt j : Nat) : EdOut → EdOut
  | .plain codes => .plain (codes.modify j (flipCode seed fmt))
  | .blocks bs => .blocks (bs.modify (j / 32) fun b => (b.1, b.2.modify (j % 32) (flipCode seed fmt)))

/-- R117: the failures of one instruction, each kind once: residue lanes and table lanes; the first-record register takes the
instruction once. `issued` is its issue cycle. -/
def State.edFail (s : State) (st issued : Nat) (res tab : List Nat) : State :=
  if res = [] ∧ tab = [] then s
  else
    let kind := if res = [] then 1 else 0
    let low := (if res = [] then tab else res).foldl Nat.min 127
    let s := s.updStand st fun t =>
      { t with residue := t.residue.add res.length, table := t.table.add tab.length
               edRec := t.edRec.latch (at_ kind 61 + at_ low 48 + issued % 2 ^ 20) s.ring.count 0 }
    match (s.getStand st).ctx with
    | some d =>
      let raise := fun (s : State) (ls : List Nat) (code : Nat) =>
        if ls = [] then s else s.raiseFail code d (standUnit st 1) (s.standNow st) 0 0
      raise (raise s res 0x0204) tab 0x0205
    | none => s

/-! Compute operations. -/

/-- Formats of the source streams an operation names (R565): immediates do not count. -/
def srcFormats (t : Stand) (k : EdKind) (o : EdOp) : List (Nat × Bool) :=
  let u := k.uses (bit o.fn 0)
  let f := fun (sl : Nat) => let d := t.getDesc (t.getSlot sl).handle; (d.fmt, d.scaled)
  (if u.1 && !o.ai then [f o.a] else []) ++ (if u.2.1 && !o.bi then [f o.b] else []) ++ (if u.2.2 && !o.ci then [f o.c] else [])

/-- The lane mode of an operation on the slots as they stand, and whether its lane format is BF16 (R565). -/
def Stand.edMode (t : Stand) (k : EdKind) (o : EdOp) : LaneMode × Bool :=
  let dd := t.getDesc (t.getSlot o.d).handle
  let srcs := srcFormats t k o
  (laneMode k srcs dd.fmt, dd.fmt == 1 || srcs.any fun p => p.1 == 1)

/-- Whether a compute operation reads a slot that is SUSPECT (R201). -/
def Stand.edTaint (t : Stand) (k : EdKind) (o : EdOp) : Bool :=
  let u := k.uses (bit o.fn 0)
  let sus := fun (used isImm : Bool) (sl : Nat) => used && !isImm && (t.getSlot sl).suspect
  sus u.1 o.ai o.a || sus u.2.1 o.bi o.b || sus u.2.2 o.ci o.c

/-- The source streams an operation reads: slot and elements. -/
def edStreams (k : EdKind) (o : EdOp) : List (Nat × Nat) :=
  let u := k.uses (bit o.fn 0)
  (if u.1 && !o.ai then [(o.a, edCount k o)] else []) ++ (if u.2.1 && !o.bi then [(o.b, edCountB k o)] else []) ++
  (if u.2.2 && !o.ci then [(o.c, edCount k o)] else [])

/-- One source position's values: the immediate, a slot's elements, or zeros where the operation does not use it (R104). -/
def edValues (t : Stand) (q : Slot) (got : LineTab) (n : Nat) (used isImm : Bool) (imm : FV) : List FV × Nat :=
  if !used then (List.replicate n (.zero false), 0)
  else if isImm then (List.replicate n imm, 0)
  else q.values (t.getDesc q.handle) got n

/-- The sources of an operation, from the lines read for it. -/
def edSrcs (t : Stand) (k : EdKind) (o : EdOp) (mode : LaneMode × Bool) (a b c : Slot) (got : LineTab) : EdSrcs :=
  let u := k.uses (bit o.fn 0)
  let imm := immFV mode.1 mode.2 o.imm
  let n := edCount k o
  let va := edValues t a got n u.1 o.ai imm
  let vb := if k = .qmx then ([], 0) else edValues t b got n u.2.1 o.bi imm
  let vc := edValues t c got n u.2.2 o.ci imm
  let imps := if k = .qmx && u.2.1 then
      (if o.bi then List.replicate (o.n / 32) (o.imm % 256) else b.scales (t.getDesc b.handle) got (o.n / 32))
    else []
  { a := va.1, b := vb.1, c := vc.1, imps := imps, saturated := va.2 + vb.2 + vc.2 }

/-- The lanes' part of an operation, once its lines are read: results formed and counted, checks, and the lines it will write. -/
def State.computeStage (s : State) (st : Nat) (j : Job) (k : EdKind) (o : EdOp) (a b c d : Slot) (wr : Nat) : State :=
  let t := s.getStand st
  let dd := t.getDesc d.handle
  let g := (t.getDesc a.handle).e 0
  let fs := fun (q : Slot) => let e := t.getDesc q.handle; (e.fmt, e.scaled)
  let u := k.uses (bit o.fn 0)
  let srcs := (if u.1 && !o.ai then [fs a] else []) ++ (if u.2.1 && !o.bi then [fs b] else []) ++ (if u.2.2 && !o.ci then [fs c] else [])
  let mode := (laneMode k srcs dd.fmt, dd.fmt == 1 || srcs.any fun p => p.1 == 1)
  let x := edSrcs t k o mode a b c j.got
  let r := edCompute k o mode.1 g dd x
  let fires := s.edFires st k o mode.1 x r.n
  let (seed, s) := s.takeFree
  let out := match fires with | some (0, i) => flipResult seed dd.fmt i r.out | _ => r.out
  let runs := writeRuns (d.writes dd out r.n)
  let acts := (s.cyclesFrom st wr runs.length).zip (runs.map fun p => let i := lineImage p.2 p.1; Act.write portEC p.1 i.1 i.2)
  let lanes := fun (kd : Nat) =>
    (match fires with | some (f, i) => if f = kd then [i % mode.1.lanes] else [] | none => []) ++
    (match o.bad with | some (f, ls) => if min f 1 = kd then ls else [] | none => [])
  let bad := lanes 0 ++ lanes 1 ≠ []
  let s := s.updStand st fun t =>
    { (t.updJob j.id fun j => j.plan acts).markJob j.id bad with
      edSat := t.edSat.add r.sat, edNonfin := t.edNonfin.add (r.nonfin + x.saturated)
      edInject := if fires.isSome then { t.edInject with arm := false } else t.edInject }
  s.edFail st j.at_ (lanes 0) (lanes 1)

/-- The line of a resident stream has been read at its ED_OPEN (R102, R107). -/
def State.residentStage (s : State) (st : Nat) (j : Job) (slot : Nat) : State :=
  s.updStand st fun t => t.updSlot slot fun q =>
    { q with resident := q.resident.map fun r => (r.1, tget 0 j.got r.1), suspect := q.suspect || j.suspect }

/-- Stages of Edger jobs. -/
def edStage : Stage := fun st j a s =>
  match a, j.kind with
  | .stage _, .compute k o a b c d wr => s.computeStage st j k o a b c d wr
  | .stage _, .openSlot slot => s.residentStage st j slot
  | _, _ => s

/-- What the chute moves for an operation (R131, R132): the lines it reads, in order, and how many it writes. -/
def Stand.edLines (t : Stand) (k : EdKind) (o : EdOp) : List Int × Nat :=
  let ss := (edStreams k o).map fun p =>
    let q := t.getSlot p.1
    ((none : Option Int), q.pieces (t.getDesc q.handle) p.2)
  let n := (ss.map fun x => x.2.length).foldl max 0
  let q := t.getSlot o.d
  let dd := t.getDesc q.handle
  let rn := edResults k o ((t.getDesc (t.getSlot o.a).handle).e 0)
  (chuteReads n ss, (writeRuns (q.writes dd (EdOut.blank (dd.scaled && k ≠ .topkf) rn) rn)).length)

/-- A compute operation issues: its slots advance, the lines of its sources are read on EC from the issue cycle on, and those of its
results are written in the cycles that follow (R118; DEDUCED, notes/assumptions/45.md). -/
def edEffect (k : EdKind) (st : Nat) (o : EdOp) (s : State) : State :=
  let now := s.standNow st
  let t := s.getStand st
  let tokT := s.tokTaint st o.hdr (rcombNeed k o)
  let tainted := tokT || t.edTaint k o
  let (ls, wl) := t.edLines k o
  let occ := max 1 (max (cdiv (edCount k o) (t.edMode k o).1.lanes) (ls.length + wl))
  let rn := edResults k o ((t.getDesc (t.getSlot o.a).handle).e 0)
  let missing := ((edStreams k o ++ [(o.d, rn)]).map fun p =>
    let q := t.getSlot p.1; q.missing (t.getDesc q.handle) p.2).foldl (· + ·) 0
  let adv := fun (t : Stand) (p : Nat × Nat) => t.updSlot p.1 fun q => q.advance (q.total (t.getDesc q.handle)) p.2
  let kind := JobKind.compute k o (t.getSlot o.a) (t.getSlot o.b) (t.getSlot o.c) (t.getSlot o.d) (s.after st now ls.length)
  let s := s.beginIssue st 1 o.hdr (rcombNeed k o) occ
  let s := s.updStand st fun t =>
    { (edStreams k o ++ [(o.d, rn)]).foldl adv t with
      edBusy := t.edBusy.add occ, bound := t.bound.add missing, laneFree := s.after st now occ }
  let s := (s.addOp st 1 o.hdr (s.after st now (occ + edLop k (treeWidth k o) o.k + 8)) tainted .edger).noteTaint st 1 (if tokT then o.hdr.wt else 0) tainted
  s.startJob edStage st t.nextOp 1 kind tainted
    (s.readsFrom st portEC now ls ++ [(s.after st now (ls.length - 1), .stage 0)])

def execEdFma (st : Nat) (o : EdOp) (s : State) : Host.Outcome State Fault Refusal := s.issue st 1 (.edFma st o) (edEffect .fma st o)
def execEdAdd (st : Nat) (o : EdOp) (s : State) : Host.Outcome State Fault Refusal := s.issue st 1 (.edAdd st o) (edEffect .add st o)
def execEdMul (st : Nat) (o : EdOp) (s : State) : Host.Outcome State Fault Refusal := s.issue st 1 (.edMul st o) (edEffect .mul st o)
def execEdMin (st : Nat) (o : EdOp) (s : State) : Host.Outcome State Fault Refusal := s.issue st 1 (.edMin st o) (edEffect .min st o)
def execEdMax (st : Nat) (o : EdOp) (s : State) : Host.Outcome State Fault Refusal := s.issue st 1 (.edMax st o) (edEffect .max st o)
def execEdCmp (st : Nat) (o : EdOp) (s : State) : Host.Outcome State Fault Refusal := s.issue st 1 (.edCmp st o) (edEffect .cmp st o)
def execEdCsel (st : Nat) (o : EdOp) (s : State) : Host.Outcome State Fault Refusal := s.issue st 1 (.edCsel st o) (edEffect .csel st o)
def execEdCvt (st : Nat) (o : EdOp) (s : State) : Host.Outcome State Fault Refusal := s.issue st 1 (.edCvt st o) (edEffect .cvt st o)
def execEdExp2 (st : Nat) (o : EdOp) (s : State) : Host.Outcome State Fault Refusal := s.issue st 1 (.edExp2 st o) (edEffect .exp2 st o)
def execEdLog2 (st : Nat) (o : EdOp) (s : State) : Host.Outcome State Fault Refusal := s.issue st 1 (.edLog2 st o) (edEffect .log2 st o)
def execEdRcp (st : Nat) (o : EdOp) (s : State) : Host.Outcome State Fault Refusal := s.issue st 1 (.edRcp st o) (edEffect .rcp st o)
def execEdRsq (st : Nat) (o : EdOp) (s : State) : Host.Outcome State Fault Refusal := s.issue st 1 (.edRsq st o) (edEffect .rsq st o)
def execEdTanh (st : Nat) (o : EdOp) (s : State) : Host.Outcome State Fault Refusal := s.issue st 1 (.edTanh st o) (edEffect .tanh st o)
def execEdExpd (st : Nat) (o : EdOp) (s : State) : Host.Outcome State Fault Refusal := s.issue st 1 (.edExpd st o) (edEffect .expd st o)
def execEdQmx (st : Nat) (o : EdOp) (s : State) : Host.Outcome State Fault Refusal := s.issue st 1 (.edQmx st o) (edEffect .qmx st o)
def execEdRsum (st : Nat) (o : EdOp) (s : State) : Host.Outcome State Fault Refusal := s.issue st 1 (.edRsum st o) (edEffect .rsum st o)
def execEdRssq (st : Nat) (o : EdOp) (s : State) : Host.Outcome State Fault Refusal := s.issue st 1 (.edRssq st o) (edEffect .rssq st o)
def execEdRmax (st : Nat) (o : EdOp) (s : State) : Host.Outcome State Fault Refusal := s.issue st 1 (.edRmax st o) (edEffect .rmax st o)
def execEdRmin (st : Nat) (o : EdOp) (s : State) : Host.Outcome State Fault Refusal := s.issue st 1 (.edRmin st o) (edEffect .rmin st o)
def execEdRcomb (st : Nat) (o : EdOp) (s : State) : Host.Outcome State Fault Refusal := s.issue st 1 (.edRcomb st o) (edEffect .rcomb st o)
def execEdTopkf (st : Nat) (o : EdOp) (s : State) : Host.Outcome State Fault Refusal := s.issue st 1 (.edTopkf st o) (edEffect .topkf st o)

/-- R102: a stream is resident when it is IN, wraps, and its whole extent lies in one line, its scales with it: the last byte of
every row and of every row's scales lies in the line of the first. Without a stride the rows are one. -/
def residentLine (d : Desc) (aoff : Nat) (out wrap : Bool) : Option Int :=
  if out || !wrap || !d.valid || d.count == 0 then none
  else
    let exts := (List.range 4).map fun k => if d.stride.getD (k + 1) 0 = 0 ∧ (k ≠ 0 ∨ d.sstride1 = 0 ∨ !d.scaled) then 1 else min (d.e (k + 1)) 513
    let rows := (List.range (exts.foldl (· * ·) 1)).map fun r => intCoords (0 :: coordsOf exts r)
    let ends := (rows.map fun c =>
      [d.elemBit aoff c 0 / 8, (d.elemBit aoff c (d.e 0 - 1) + (d.bits : Int) - 1) / 8] ++
      (if d.scaled then [d.scaleAddr aoff c 0, d.scaleAddr aoff c (d.e 0 - 1)] else [])).flatten
    match distinctLines ends with
    | [l] => some l
    | _ => none

def edOpenEffect (st : Nat) (h : Hdr) (slot handle : Nat) (out wrap arEn : Bool) (areg : Nat) (s : State) : State :=
  let t := s.getStand st
  let now := s.standNow st
  let d := t.getDesc handle
  let aoff := t.aoff arEn areg
  let tokT := s.tokTaint st h none
  let res := residentLine d aoff out wrap
  let s := s.beginIssue st 1 h none (if res.isSome then 2 else 1)
  let s := s.updStand st fun t => t.updSlot slot fun _ =>
    { isOpen := true, handle := handle, aoff := aoff, out := out, wrap := wrap, suspect := tokT
      resident := res.map fun l => (l.toNat, 0) }
  let next := s.after st now 1
  let s := (s.addOp st 1 h (if res.isSome then s.after st now 5 else next) tokT .edger).noteTaint st 1 (if tokT then h.wt else 0) tokT
  match res with
  | some l => s.startJob edStage st t.nextOp 1 (.openSlot slot) tokT [(next, .read portEC l), (next, .stage 0)]
  | none => s

/-- ED_OPEN (R100, R102). -/
def execEdOpen (st : Nat) (h : Hdr) (slot handle : Nat) (out wrap arEn : Bool) (areg : Nat) (s : State) :
    Host.Outcome State Fault Refusal :=
  s.issue st 1 (.edOpen st h slot handle out wrap arEn areg) (edOpenEffect st h slot handle out wrap arEn areg)

def edCloseEffect (st : Nat) (h : Hdr) (slot : Nat) (s : State) : State :=
  let now := s.standNow st
  let tokT := s.tokTaint st h none
  let s := s.beginIssue st 1 h none 1
  let s := s.updStand st fun t => t.updSlot slot fun _ => {}
  (s.addOp st 1 h (s.after st now 1) tokT .edger).noteTaint st 1 h.wt tokT

/-- ED_CLOSE (R100). -/
def execEdClose (st : Nat) (h : Hdr) (slot : Nat) (s : State) : Host.Outcome State Fault Refusal :=
  s.issue st 1 (.edClose st h slot) (edCloseEffect st h slot)

/-- R106, R107: the head entry leaves the queue; the slot carries its check status. -/
def edTakeEffect (st : Nat) (h : Hdr) (slot : Nat) (e : Ftq) (s : State) : State :=
  let now := s.standNow st
  let tokT := s.tokTaint st h none
  let s := s.beginIssue st 1 h none 1
  let s := s.updStand st fun t =>
    { t.updSlot slot fun _ => { isOpen := true, handle := e.handle, aoff := e.aoff, suspect := e.suspect, rows := some e.rows } with
      ftq := t.ftq.drop 1, ftqTaken := now + 1 }
  (s.addOp st 1 h (s.after st now 1) tokT .edger).noteTaint st 1 (if tokT then h.wt else 0) tokT

/-- ED_TAKE (R106). -/
def execEdTake (st : Nat) (h : Hdr) (slot : Nat) (s : State) : Host.Outcome State Fault Refusal :=
  s.issue st 1 (.edTake st h slot) fun s =>
    match (s.getStand st).ftqHead (s.standNow st) with
    | some e => edTakeEffect st h slot e s
    | none => s

end Sys2Proof.Machine
end

