-- ==== Sys2Proof/Machine/Image.lean ====
section
/-! DEFINITION. The plan image (R560 to R564) and what LOAD checks in it (R559). -/

namespace Sys2Proof.Machine

/-! Header and section table. -/

/-- The little-endian number of `n` bytes at offset `off` of an image. -/
def imgNum (m : Mem) (base off n : Nat) : Nat := ofLe (memRead m (base + off) n)

/-- No nonzero byte from `lo` up to but not including `hi`. -/
def memZero (m : Mem) (lo hi : Nat) : Bool := m.all fun e => e.2 == 0 || decide (e.1 < lo) || decide (hi ≤ e.1)

/-- Fields of the header (R560). -/
structure PlanHdr where
  magic : Nat
  format : Nat
  length : Nat
  sections : Nat
  lenLog2 : Nat
  mode : Nat
  flags : Nat
  minStands : Nat
  slack : Nat
  rings : Nat
  slipLimit : Nat
  resendW : Nat
  rf : Nat
  replicas : Nat
  buildAt : Nat
  deriving DecidableEq, Repr

def PlanHdr.read (m : Mem) (b : Nat) : PlanHdr :=
  { magic := imgNum m b 0 4, format := imgNum m b 4 4, length := imgNum m b 8 8, sections := imgNum m b 16 4
    lenLog2 := imgNum m b 20 1, mode := imgNum m b 21 1, flags := imgNum m b 22 1, minStands := imgNum m b 23 1
    slack := imgNum m b 24 4, rings := imgNum m b 28 2, slipLimit := imgNum m b 30 2, resendW := imgNum m b 32 2
    rf := imgNum m b 34 1, replicas := imgNum m b 35 1, buildAt := imgNum m b 36 4 }

def PlanHdr.debug (h : PlanHdr) : Bool := bit h.flags 1

/-- The header keeps R560, but for LEN_LOG2, SLACK and the count C, which R33, R39 and R67 judge. -/
def PlanHdr.ok (h : PlanHdr) (m : Mem) (b : Nat) : Bool :=
  h.magic == 0x4E414C50 && h.format == 1 && h.length % 4096 == 0 && decide (8192 ≤ h.length) && decide (h.length ≤ 2 ^ 36) &&
  decide (1 ≤ h.sections) && decide (h.sections ≤ 16384) && decide (4096 + 32 * h.sections ≤ h.length) &&
  decide (h.mode ≤ 2) && decide (h.flags < 8) && h.minStands % 2 == 0 && decide (2 ≤ h.minStands) && decide (h.minStands ≤ 32) &&
  decide (1 ≤ h.rings) && decide (h.rings ≤ 4095) && decide (64 ≤ h.resendW) && decide (h.resendW ≤ 1024) &&
  decide (h.rf ≤ 64) && decide (h.replicas ≤ 16) && (h.replicas != 0 || h.buildAt == 0) && memZero m (b + 40) (b + 4096)

/-- An entry of the section table (R561). -/
structure SectHdr where
  type : Nat
  target : Nat
  off : Nat
  len : Nat
  zero : Bool
  deriving DecidableEq, Repr

def SectHdr.read (m : Mem) (b i : Nat) : SectHdr :=
  let o := 4096 + 32 * i
  { type := imgNum m b o 2, target := imgNum m b (o + 2) 2, off := imgNum m b (o + 8) 8, len := imgNum m b (o + 16) 8
    zero := imgNum m b (o + 4) 4 == 0 && imgNum m b (o + 24) 8 == 0 }

def sectTable (m : Mem) (b : Nat) (h : PlanHdr) : List SectHdr := (List.range h.sections).map (SectHdr.read m b)

def SectHdr.forStand (e : SectHdr) : Bool := decide (1 ≤ e.type) && decide (e.type ≤ 9)
def SectHdr.forDevice (e : SectHdr) : Bool := decide (0x10 ≤ e.type) && decide (e.type ≤ 0x17)

/-- The length a section of a type has (R562). A type that R562 does not list is not allowed (DEDUCED,
notes/assumptions/20.md). -/
def SectHdr.lenOk (e : SectHdr) : Bool :=
  match e.type with
  | 1 => e.len == 16
  | 2 => e.len % 16 == 0 && decide (e.len ≤ 262144)
  | 3 => e.len % 72 == 0
  | 4 => e.len == 92
  | 5 => e.len == 256
  | 6 => e.len == 128
  | 7 => e.len % 16 == 0 && decide (e.len ≤ 65536)
  | 8 => e.len % 16 == 0 && decide (e.len ≤ 65536)
  | 9 => e.len % 16 == 0 && decide (16 ≤ e.len)
  | 0x10 => e.len % 64 == 0 && decide (e.len ≤ 262144)
  | 0x11 => e.len == 524288
  | 0x12 => e.len == 163840
  | 0x13 => e.len % 16 == 0 && decide (e.len ≤ 65536)
  | 0x14 => e.len % 64 == 0
  | 0x15 => e.len % 32 == 0 && decide (e.len ≤ 131072)
  | 0x16 => decide (16 ≤ e.len) && e.len % 8 == 0 && decide (e.len ≤ 80)
  | 0x17 => e.len % 16 == 0
  | _ => false

/-- R67: whether the plan of a domain bound to C uses a stand. -/
def planStand (g : Dom) (c st : Nat) : Bool := decide (st < 512) && bit g.stands (standCmp st) && decide (st % 16 < c / 2)

/-- R530: a node of die-A columns C/2 to 15 in a row of the plan, whose slot table the plan may give. -/
def passNode (g : Dom) (c st : Nat) : Bool :=
  decide (st < 512) && bit g.stands (standCmp st) && decide (st % 32 < 16) && decide (c / 2 ≤ st % 32)

/-- R67 with R530 and R561: where a section may stand. The one section of a pass node is its slot table (DEDUCED,
notes/assumptions/21.md). -/
def SectHdr.placeOk (e : SectHdr) (g : Dom) (c : Nat) : Bool :=
  if e.forStand then planStand g c e.target || (e.type == 7 && passNode g c e.target) else e.forDevice && e.target == 0xFFFF

/-- R561: sections lie within LENGTH and do not overlap; a target has at most one of each type. -/
def sectsApart : List SectHdr → Bool
  | [] => true
  | e :: es =>
    es.all (fun f => (decide (e.off + e.len ≤ f.off) || decide (f.off + f.len ≤ e.off)) && !(e.type == f.type && e.target == f.target)) &&
    sectsApart es

/-- What the header and the section table must keep (R560 to R562, R564). -/
def tableOk (h : PlanHdr) (es : List SectHdr) (g : Dom) (c : Nat) : Bool :=
  let has := fun (ty ta : Nat) => es.any fun e => e.type == ty && e.target == ta
  es.all (fun e => e.zero && e.lenOk && e.placeOk g c && e.off % 64 == 0 && decide (4096 + 32 * h.sections ≤ e.off) &&
    decide (e.off + e.len ≤ h.length)) &&
  sectsApart es &&
  es.all (fun e => e.type != 1 || (has 2 e.target && has 6 e.target && (h.rf == 0 || has 9 e.target))) &&
  (h.rf != 0 || es.all fun e => e.type != 9) &&
  (if h.replicas = 0 then !has 0x14 0xFFFF && !has 0x15 0xFFFF else has 0x14 0xFFFF && has 0x15 0xFFFF) &&
  (!h.debug || has 0x17 0xFFFF)

/-- Working stands of a physical row (R529, R541); 0 until boot has found them. -/
def State.working (s : State) (row : Nat) : Nat :=
  let r := tget ({} : RowSt) s.repair.rows row
  if r.known then ((List.range 17).filter fun q => !r.failed.testBit q).length else 0

/-- Physical rows of a domain's stand set, as 16 × die + row. -/
def Dom.rows (g : Dom) : List Nat := (List.range 32).filter fun r => bit g.stands (r / 2)

/-- R33, R39, R67, R68: what LOAD refuses with BAD_GEOMETRY in the header and the command. -/
def State.geometryOk (s : State) (g : Dom) (h : PlanHdr) (c : Nat) : Bool :=
  let l := s.L
  c % 2 == 0 && decide (2 ≤ c) && decide (c ≤ 32) && decide (h.minStands ≤ c) &&
  g.rows.all (fun r => decide (c ≤ 2 * min (s.working r) 16)) && h.lenLog2 == s.ring.lenLog2 &&
  decide (cdiv l 50 ≤ h.slack) && decide (h.slack ≤ l / 2) && (!h.debug || decide (cdiv (15 * l) 100 ≤ h.slack))

/-! Reading sections. -/

def SectHdr.sect (m : Mem) (b : Nat) (e : SectHdr) : Sect := { type := e.type, target := e.target, bytes := memRead m (b + e.off) e.len }

def sectBytes (ss : List Sect) (type target : Nat) : List Byte :=
  ((ss.find? fun e => e.type == type && e.target == target).map (·.bytes)).getD []

/-- A string cut into pieces of `n` bytes. -/
def pieces (n : Nat) (bs : List Byte) : List (List Byte) := (List.range (bs.length / n)).map fun i => slice bs (n * i) n

/-- A table of numbers of `n` bytes each, from entry 0; zero entries are not listed. -/
def numTab (n : Nat) (bs : List Byte) : Tab Nat := (enum (pieces n bs)).filterMap fun p =>
  let v := ofLe p.2
  if v = 0 then none else some (p.1, v)

/-- Area of each stream: base slot and length (R187). -/
def areasOf (bs : List Byte) : List (Nat × Nat) := (List.range 4).map fun k => (num bs (4 * k) 2, num bs (4 * k + 2) 2)

/-- Descriptors by handle, as eight words (R160). Of two entries with one handle the last holds (DESIGN CHOICE,
notes/assumptions/59.md). -/
def descTab (bs : List Byte) : Tab (List Nat) :=
  (pieces 72 bs).foldl (fun t p => tput t (num p 0 2) ((List.range 8).map fun k => num p (8 + 8 * k) 8)) []

/-- What a stand section says of one stand, read once. -/
structure StandImg where
  st : Nat
  areas : List (Nat × Nat)
  cuts : Tab Nat
  desc : Tab (List Nat)
  aregs : List Byte
  banks : List Byte
  slots : Tab Nat
  routes : Tab Nat
  nRoutes : Nat
  refill : Option (List (Nat × Nat) × List (List Byte))

def standImg (ss : List Sect) (st : Nat) : StandImg :=
  let r := sectBytes ss 9 st
  { st := st, areas := areasOf (sectBytes ss 1 st), cuts := numTab 16 (sectBytes ss 2 st), desc := descTab (sectBytes ss 3 st)
    aregs := sectBytes ss 5 st, banks := sectBytes ss 6 st, slots := numTab 16 (sectBytes ss 7 st)
    routes := numTab 16 (sectBytes ss 8 st), nRoutes := (sectBytes ss 8 st).length / 16
    refill := if r = [] then none else some (areasOf r, pieces 16 (r.drop 16)) }

/-- Initial class, power state and owner port of a bank (R125, R145, R150). -/
def StandImg.bank (i : StandImg) (b : Nat) : Nat × Nat × Nat := (num i.banks (4 * b) 1, num i.banks (4 * b + 1) 1, num i.banks (4 * b + 2) 1)
/-- Owning stream of an address register, 0xFF where the image gives none (R204). -/
def StandImg.arOwner (i : StandImg) (r : Nat) : Nat := if i.aregs = [] then 0xFF else num i.aregs (16 * r + 8) 1
/-- The stands of a plan: those with a STREAMS section (R564). -/
def planStands (ss : List Sect) : List Nat := (ss.filter (·.type == 1)).map (·.target)

/-! Descriptors (R159 to R175). -/

/-- The codes and reserved bits of a descriptor's words (R161 to R167). -/
def descWordsOk (w : List Nat) : Bool :=
  let d := Desc.ofWords w
  let w0 := w.getD 0 0
  let fits : Bool := match d.tier with
    | 0 => decide (d.base < 2 ^ 23) | 3 => decide (d.base < 2 ^ 32) | 5 => decide (d.base < 2 ^ 16) | _ => decide (d.base < 2 ^ 48)
  fld w0 38 36 == 0 && fld w0 23 0 == 0 && fits && fld (w.getD 2 0) 39 0 == 0 &&
  decide (d.tier ≤ 6) && decide (d.fmt ≤ 13) && decide (d.layout ≤ 4) && decide (1 ≤ d.ndim) && decide (d.ndim ≤ 5) &&
  d.chkForm != 3 && (d.tier != 4 || fld d.base 22 0 == d.origin) &&
  (if d.scaled then [3, 4, 5, 6, 7, 8].contains d.fmt else !([6, 7, 8].contains d.fmt)) &&
  (List.range 5).all (fun k => decide (1 ≤ d.e k) && (decide (k < d.ndim) || d.e k == 1)) &&
  decide (d.count ≤ 2 ^ 40) &&
  ((d.scaled && d.layout != 1) || w.getD 7 0 == 0) &&
  (d.layout == 1 || ((d.e 0 * d.bits) % 8 == 0 && (!d.scaled || d.e 0 % 32 == 0)))

/-- What each layout asks of a descriptor (R165, R171 to R173). -/
def Desc.layoutOk (d : Desc) : Bool :=
  let strides := fun (from_ n : Nat) => (List.range 5).all fun k => decide (k < from_) || d.stride.getD k 0 % (n : Int) == 0
  match d.layout with
  | 1 => decide (2 ≤ d.ndim) && d.e 0 == 1 && strides 1 512 && d.cls == 1 && (d.chkForm == 1 || d.chkForm == 2) && fmtClass d.fmt != 3 &&
         d.origin % 512 == 0
  | 2 => (d.fmt == 1 || d.fmt == 2) && !d.scaled && d.e 0 == 32 && d.e 1 == 32 && d.stride.getD 1 0 == 64 && strides 2 2048 &&
         d.origin % 2048 == 0
  | 3 => (d.fmt == 3 || d.fmt == 4 || d.fmt == 5) && !d.scaled && d.e 0 == 64 && d.e 1 == 64 && d.stride.getD 1 0 == 64 &&
         strides 2 4096 && d.origin % 4096 == 0
  | 4 => d.e 0 * d.bits == 512 && d.stride.getD 1 0 % 64 == 0 && d.e 1 % 8 == 0
  | _ => true

/-- The index tensor of an indirect descriptor (R174 to R176). -/
def StandImg.indexOk (i : StandImg) (d : Desc) : Bool :=
  if d.idxHandle = 0 then d.tier != 5
  else
    match tfind? i.desc d.idxHandle with
    | none => false
    | some w =>
      let x := Desc.ofWords w
      decide (1 ≤ d.idxDim) && decide (d.idxDim < d.ndim) && (d.tier == 5) == (d.idxKind == 1) && x.valid && x.tier == 0 && x.layout == 0 &&
      x.fmt == 9 && !x.scaled && x.idxHandle == 0 && x.ndim == d.ndim - d.idxDim &&
      (List.range (d.ndim - d.idxDim)).all fun k => x.e k == d.e (d.idxDim + k)

/-- Dimensions as LOAD places them, outermost first: extent and stride; the index entry of a KVPAGE adds nothing within its page (R176). -/
def Desc.dims (d : Desc) (stride1 : Int) : List (Nat × Int) :=
  let e := fun k => if d.idxHandle ≠ 0 ∧ d.idxKind = 1 ∧ k = d.idxDim then 1 else d.e k
  [(e 4, d.stride.getD 4 0), (e 3, d.stride.getD 3 0), (e 2, d.stride.getD 2 0), (e 1, stride1)]

/-- Least and greatest offset of the strides of dimensions. -/
def dimsReach : List (Nat × Int) → Int × Int
  | [] => (0, 0)
  | (n, s) :: ds => let r := dimsReach ds; (r.1 + min 0 (((n : Int) - 1) * s), r.2 + max 0 (((n : Int) - 1) * s))

/-- What a descriptor's elements, and its block scales (R170), take with AOFF 0: dimensions, first byte, bytes of a row. A tile image
holds its own scales (R171). -/
def Desc.parts (d : Desc) : List (List (Nat × Int) × Int × Nat) :=
  (d.dims (d.stride.getD 1 0), (d.origin : Int), if d.layout = 1 then d.runLen else d.e 0 * d.bits / 8) ::
    (if d.scaled && d.layout != 1 then [(d.dims d.sstride1, (d.origin : Int) + d.scaleOff, d.e 0 / 32)] else [])

/-- Whether a part of a descriptor touches the bytes from `lo` up to but not including `hi`. -/
def touches (lo hi : Int) (n : Nat) : List (Nat × Int) → Int → Bool
  | [], o => decide (o < hi ∧ lo < o + n)
  | (e, s) :: ds, o =>
    let r := dimsReach ((e, s) :: ds)
    if hi ≤ o + r.1 ∨ o + r.2 + n ≤ lo then false
    else (List.range e).any fun i => touches lo hi n ds (o + (i : Int) * s)

/-- CLASS against the banks or the windows that the extent touches (R174); a weight set lies in windows of the weight class (R318). Parts
of the extent that lie in no bank or window, and the pages that a page map gives, are judged at each access (R159). -/
def StandImg.classOk (i : StandImg) (g : Dom) (d : Desc) : Bool :=
  d.parts.all fun (ds, o, n) =>
    match d.tier with
    | 0 => (List.range 32).all fun b => (i.bank b).1 == d.cls || !touches (b * 0x30000 : Nat) ((b + 1) * 0x30000 : Nat) n ds o
    | 1 | 2 => g.windows.all fun w =>
        (w.2.2.1 == d.cls && decide (unitOf (w.1 * 65536) < 16) == (d.tier == 1)) ||
          !touches (w.1 * 65536 : Nat) ((w.1 + w.2.1) * 65536 : Nat) n ds o
    | 6 => d.cls == 1
    | _ => true

/-- R163: with AOFF 0, a STAND or DEVICE descriptor stays within one Deck, and a KV descriptor within its page; what depends on index
values is judged at each access (R159). -/
def Desc.deckOk (d : Desc) : Bool :=
  let within := fun (top : Int) => d.parts.all fun (ds, o, n) =>
    let r := dimsReach ds
    decide (0 ≤ o + r.1) && decide (o + r.2 + n ≤ top)
  match d.tier with
  | 3 | 4 => d.idxHandle != 0 || within 0x600000
  | 5 => within 65536
  | _ => true

/-- A valid descriptor keeps every rule that LOAD can judge (R159). -/
def StandImg.descOk (i : StandImg) (g : Dom) (w : List Nat) : Bool :=
  let d := Desc.ofWords w
  !d.valid || (descWordsOk w && d.layoutOk && i.indexOk d && d.deckOk && i.classOk g d &&
    ((d.layout != 2 && d.layout != 3 && d.layout != 4) || d.tier == 0))

/-! Instructions (R192, R193, R209 to R217, R566). -/

def StandImg.d (i : StandImg) (h : Nat) : Desc := match tfind? i.desc h with | some w => if h = 0 then {} else Desc.ofWords w | none => {}

/-- The operand field holds nothing outside the given bit ranges. -/
def onlyBits (w : Nat) (rs : List (Nat × Nat)) : Bool := fld w 76 0 == (rs.map fun r => at_ (fld w r.1 r.2) r.2).foldl (· + ·) 0

/-- An address register named with its enable is the stream's own (R204). -/
def StandImg.arOk (i : StandImg) (k : Nat) (en : Bool) (r : Nat) : Bool := !en || i.arOwner r == k

def deckLinear (d : Desc) : Bool := d.valid && d.tier == 0 && d.layout == 0 && d.idxHandle == 0

/-- Rows a descriptor holds, as R88 counts them. -/
def Desc.rowCount (d : Desc) : Nat := if d.fmt = 11 then d.count else d.outer

/-- The Headrig's operations (R88, R171, R174, R214). A drain writes the formats of R80 and R81, and INT8 is none of them. -/
def StandImg.hrOk (i : StandImg) (op w : Nat) : Bool :=
  let d := i.d (fld w 76 65)
  let rows := fld w 58 54 + 1
  let fmt := fld w 47 43
  d.valid && i.arOk 0 (bit w 63) (fld w 62 59) &&
  match op with
  | 0 => onlyBits w [(76, 59), (19, 0)] && d.tier == 0 && d.layout == 1 && d.idxHandle == 0 && decide (fld w 19 0 < d.outer)
  | 1 => onlyBits w [(76, 48)] && d.tier == 0 && d.layout != 1 && d.idxHandle == 0 && fmtClass d.fmt != 3 &&
         d.e 0 == classK (fmtClass d.fmt) && d.origin % 64 == 0 && (List.range 4).all (fun k => d.e (k + 1) == 1 || d.stride.getD (k + 1) 0 % 64 == 0) &&
         decide (fld w 53 49 + rows ≤ 32) && decide (rows ≤ d.outer)
  | 2 => onlyBits w [(76, 48)] && deckLinear d && decide (fld w 53 49 + rows ≤ 32) &&
         (if bit w 64 then d.fmt == 0 && d.e 0 == 64 else d.fmt == 11 && decide (rows ≤ d.rowCount))
  | 3 => onlyBits w [(76, 65), (63, 33), (15, 0)] && deckLinear d && fld w 48 48 == 0 && fmt == d.fmt && decide (fld w 53 49 + rows ≤ 32) &&
         decide (rows ≤ d.rowCount) && !([5, 10, 12, 13].contains fmt) && (fmt != 11 || fld w 42 33 == 0)
  | _ => false

/-- Largest FN of an operation (R210). -/
def EdKind.fnMax : EdKind → Nat
  | .cmp => 3
  | .min | .max | .csel | .rsum | .rssq | .rmax | .rmin | .topkf => 0
  | _ => 1

/-- Source positions in use, with whether each takes the immediate: A, B, C. -/
def edSources (k : EdKind) (w : Nat) : List (Nat × Bool) :=
  let u := k.uses (bit w 52)
  (if u.1 then [(fld w 71 67, bit w 56)] else []) ++ (if u.2.1 then [(fld w 66 62, bit w 55)] else []) ++
  (if u.2.2 then [(fld w 61 57, bit w 54)] else [])

/-- The fields of a compute operation (R104, R215, R566), its streams apart. A of ED_TOPKF names a descriptor, which an immediate has
none of. -/
def edFieldsOk (k : EdKind) (w : Nat) : Bool :=
  let u := k.uses (bit w 52)
  let n := fld w 51 32 + 1
  let imm := fld w 31 0
  decide (fld w 53 52 ≤ k.fnMax) &&
  (u.1 || (fld w 71 67 == 0 && !bit w 56)) &&
  (k == .topkf || u.2.1 || (fld w 66 62 == 0 && !bit w 55)) && (k == .topkf || u.2.2 || (fld w 61 57 == 0 && !bit w 54)) &&
  match k with
  | .rsum | .rssq | .rmax | .rmin => decide (1 ≤ imm) && decide (imm ≤ 2 ^ 20) && n % imm == 0
  | .rcomb => decide (1 ≤ imm) && decide (imm ≤ 4096)
  | .qmx => n % 32 == 0
  | .topkf => decide (fld w 66 57 + 1 ≤ 1024) && !bit w 56 && fld w 55 54 == 0
  | _ => true

/-- The Edger's operations, slots apart (R215). -/
def StandImg.edOk (i : StandImg) (op w : Nat) : Bool :=
  match op with
  | 0 => let d := i.d (fld w 71 60)
         onlyBits w [(76, 53)] && deckLinear d && !([10, 11, 13].contains d.fmt) && i.arOk 1 (bit w 57) (fld w 56 53)
  | 1 | 2 => onlyBits w [(76, 72)]
  | op => match edKindOf op with | some k => edFieldsOk k w | none => false

def Desc.indexFree (d : Desc) : Bool := d.idxHandle == 0

/-- A Skidder source or destination (R174). -/
def skSource (d : Desc) : Bool := d.valid && (d.layout != 2 && d.layout != 3 && d.layout != 4 || d.tier == 0)
def skDest (d : Desc) : Bool := d.valid && decide (d.layout ≤ 1) && d.tier != 6

/-- An address that a descriptor gives its atoms is aligned; one that an index tensor gives is judged at each atomic (R139). -/
def Desc.aligned (d : Desc) (n : Nat) : Bool := d.idxHandle != 0 ||
  (d.origin % n == 0 && (List.range 4).all fun k => d.e (k + 1) == 1 || d.stride.getD (k + 1) 0 % (n : Int) == 0)

/-- The Skidder's operations (R182, R216). -/
def StandImg.skOk (i : StandImg) (op w : Nat) : Bool :=
  match op with
  | 0 => let a := i.d (fld w 76 65); let b := i.d (fld w 64 53)
         onlyBits w [(76, 36)] && skSource a && skDest b && i.arOk 2 (bit w 52) (fld w 51 48) && i.arOk 2 (bit w 47) (fld w 46 43) &&
         ((a.fmt == b.fmt && a.count == b.count && (a.layout == 1) == (b.layout == 1)) || (b.fmt == 13 && b.count == a.count * a.bits / 8)) &&
         ((b.tier == 3 || b.tier == 4) || fld w 42 38 == 0) && fld w 37 36 != 3
  | 1 => let t := i.d (fld w 74 63); let a := i.d (fld w 62 51); let r := i.d (fld w 50 39); let o := fld w 76 75
         let n := if o % 2 = 1 then 8 else 4
         onlyBits w [(76, 34), (31, 0)] && t.valid && (t.tier == 0 || t.tier == 3 || t.tier == 4) && t.layout == 0 &&
         t.fmt == (if n = 8 then 10 else 9) && t.aligned n && i.arOk 2 (bit w 38) (fld w 37 34) &&
         (fld w 62 51 == 0 || (skSource a && (a.fmt == 9 || a.fmt == 10) && a.count == t.count)) &&
         (fld w 50 39 == 0 || (skDest r && (r.fmt == 9 || r.fmt == 10) && r.count == t.count))
  | 2 => onlyBits w [(33, 0)]
  | 3 => onlyBits w [(33, 0)] && fld w 33 32 != 3
  | 4 => onlyBits w [(54, 32), (13, 0)] && fld w 54 32 % 512 == 0 && decide (fld w 54 32 < 0x600000) && decide (1 ≤ fld w 13 0) && decide (fld w 13 0 ≤ 12288)
  | 5 => let ok := fun (d : Desc) => deckLinear d && d.fmt == 9
         let key := i.d (fld w 76 65); let l := i.d (fld w 64 53); let c := i.d (fld w 64 53 + 1); let p := i.d (fld w 52 41)
         onlyBits w [(76, 41), (31, 0)] && ok key && ok l && ok c && decide (2 ≤ key.ndim) && decide (key.count ≤ 2 ^ 20) &&
         decide (l.e 0 ≤ 65536) && decide (l.e 1 ≤ 4096) && c.e 0 == l.e 1 && (fld w 52 41 == 0 || (ok p && p.ext == key.ext))
  | _ => false

/-- The Flume gate's operations (R217, R298); routes are those of the plan's table. -/
def StandImg.fgOk (i : StandImg) (op w : Nat) : Bool :=
  match op with
  | 0 => onlyBits w [(76, 47)] && decide (fld w 58 47 < i.nRoutes) &&
         (if bit w 76 then decide (1 ≤ fld w 75 71 ∧ fld w 75 71 ≤ 15) else decide (1 ≤ fld w 75 71))
  | 1 => let r := i.d (fld w 58 47)
         onlyBits w [(76, 35), (31, 0)] && decide (fld w 46 35 < i.nRoutes) &&
         (if fld w 76 75 = 2 then deckLinear r && r.fmt == 9 && decide (2 ≤ r.e 0) else fld w 58 47 == 0)
  | _ => false

/-- Sync fields and stamp of R192. -/
def syncZero (w : Nat) : Bool := fld w 101 77 == 0
/-- Control and address operations (R206, R208, R213). -/
def StandImg.ctlOk (i : StandImg) (k op w : Nat) : Bool :=
  let own := fun r => i.arOwner r == k
  let ar := syncZero w && own (fld w 76 73)
  let ara := ar && own (fld w 72 69)
  match op with
  | 0x30 => onlyBits w []
  | 0x31 => onlyBits w [(11, 0)] && syncZero w && stampOf w == 0 && decide (1 ≤ fld w 11 0)
  | 0x32 => onlyBits w [(76, 32)] && syncZero w && stampOf w == 0
  | 0x33 => onlyBits w [] && syncZero w && stampOf w == 0
  | 0x34 => onlyBits w [(76, 73), (47, 0)] && ar
  | 0x35 => onlyBits w [(76, 69), (47, 0)] && ara
  | 0x36 => onlyBits w [(76, 65)] && ara && own (fld w 68 65)
  | 0x37 | 0x38 => onlyBits w [(76, 69), (5, 0)] && ara
  | 0x39 => onlyBits w [(76, 69), (31, 0)] && ara
  | 0x3A => onlyBits w [(76, 69), (64, 64), (47, 0)] && ara
  | 0x3B => onlyBits w [(76, 73), (7, 0)] && ar && decide (fld w 7 0 < 8)
  | _ => false

/-- One instruction of stream `k` keeps R193, effective stamps and walks apart. -/
def StandImg.instrOk (i : StandImg) (k w : Nat) : Bool :=
  let op := opcodeOf w
  if op ≥ 0x30 then i.ctlOk k op w
  else match k with
    | 0 => i.hrOk op w
    | 1 => i.edOk op w
    | 2 => i.skOk op w
    | _ => i.fgOk op w

/-! Streams (R187 to R189, R208). -/

/-- An instruction as a walk of its stream meets it, with its largest effective stamp. -/
structure Item where
  w : Nat
  late : Nat

/-- Trip count of a LOOP (R208). -/
def loopTrips (c w : Nat) : Nat := if bit w 76 then c * fld w 71 52 / 2 ^ fld w 75 72 else fld w 71 52

/-- Open loops while a section is read: trips, STAMP_STEP, and the items of the body so far. -/
def readItem (full : Bool) (c : Nat) : Option (List (Nat × Nat × List Item)) → Nat → Option (List (Nat × Nat × List Item))
  | none, _ => none
  | some [], _ => none
  | some ((n, step, its) :: rest), w =>
    match opcodeOf w with
    | 0x32 => if rest.length ≥ 4 then none else some ((loopTrips c w, fld w 51 32, []) :: (n, step, its) :: rest)
    | 0x33 =>
      match rest with
      | [] => none
      | (n', step', its') :: rest' =>
        let body := its.map fun x => { x with late := x.late + (n - 1) * step }
        some ((n', step', its' ++ (if full then (List.replicate n body).flatten else if n = 0 then [] else if n = 1 then body else body ++ body)) :: rest')
    | _ => some ((n, step, its ++ [{ w := w, late := stampOf w }]) :: rest)

/-- The items of a section, its loops run out (twice where they run more often: a third trip meets nothing new), or with `full` every
trip. -/
def sectionItems (full : Bool) (c : Nat) (ws : List Nat) : Option (List Item) :=
  match ws.foldl (readItem full c) (some [(1, 0, [])]) with
  | some [(_, _, its)] => some its
  | _ => none

/-- The sections of an area: REPEAT and items of each, or none where the area does not end with CL_RING (R189). -/
def sectionsOf (full : Bool) (c : Nat) : List Nat → List Nat → Option (List (Nat × List Item))
  | [], [] => some []
  | [], _ :: _ => none
  | w :: ws, acc =>
    if opcodeOf w = 0x31 then
      match sectionItems full c acc, sectionsOf full c ws [] with
      | some its, some rest => some ((fld w 11 0, its) :: rest)
      | _, _ => none
    else sectionsOf full c ws (acc ++ [w])

/-- One step of a stream as the walks of R71 and R100 follow it. -/
def stepItems (ss : List (Nat × List Item)) : List Item := (ss.map fun p => if p.1 ≥ 2 then p.2 ++ p.2 else p.2).flatten

/-- R71: classes of the two weight buffers through a stream, `none` where a buffer is empty. -/
def hrWalk (i : StandImg) : List Item → Option Nat × Option Nat → Bool → (Option Nat × Option Nat) × Bool
  | [], b, ok => (b, ok)
  | x :: xs, b, ok =>
    let cls := fmtClass (i.d (fld x.w 76 65)).fmt
    let buf := bit x.w 64
    match opcodeOf x.w with
    | 0 => hrWalk i xs (if buf then (b.1, some cls) else (some cls, b.2)) ok
    | 1 => hrWalk i xs b (ok && (match (if buf then b.2 else b.1) with | some k => k == cls | none => true))
    | _ => hrWalk i xs b ok

/-- R100: states of the stream slots through a stream: closed, IN or OUT, each with its handle. -/
def edWalk (i : StandImg) : List Item → Tab (Nat × Nat) → Bool → Tab (Nat × Nat) × Bool
  | [], t, ok => (t, ok)
  | x :: xs, t, ok =>
    let slot := fld x.w 76 72
    match opcodeOf x.w with
    | 0 => edWalk i xs (tput t slot (if bit x.w 59 then 2 else 1, fld x.w 71 60)) ok
    | 1 => edWalk i xs (tdel t slot) ok
    | 2 => edWalk i xs (tput t slot (1, 0)) ok
    | op => match edKindOf op with
      | none => edWalk i xs t ok
      | some k =>
        let dd := tget (0, 0) t slot
        let srcs := (edSources k x.w).filter fun p => !p.2
        let n := fld x.w 51 32 + 1
            let dest := i.d dd.2
        let good := dd.1 == 2 && srcs.all (fun p => (tget (0, 0) t p.1).1 == 1) &&
          (!dest.scaled || n % 32 == 0)
        edWalk i xs t (ok && good)

/-- R566: ED_TOPKF through a stream, with the handles of its open slots and of the tiles that the Headrig pushes, which ED_TAKE takes in
their order (R106). -/
def topWalk (i : StandImg) : List Item → Tab Nat → List Nat → Bool → Bool
  | [], _, _, ok => ok
  | x :: xs, t, hs, ok =>
    let slot := fld x.w 76 72
    match opcodeOf x.w with
    | 0 => topWalk i xs (tput t slot (fld x.w 71 60)) hs ok
    | 2 => topWalk i xs (tput t slot (hs.headD 0)) (hs.drop 1) ok
    | 0x1E =>
      let g := (i.d (tget 0 t (fld x.w 71 67))).e 0
      topWalk i xs t hs (ok && decide (fld x.w 66 57 + 1 ≤ g) && decide (g ≤ 262144) && (fld x.w 51 32 + 1) % max 1 g == 0)
    | _ => topWalk i xs t hs ok

/-- Every item of a step, each trip of each loop and each ring of each section. -/
def allItems (c : Nat) (ws : List Nat) : List Item :=
  match sectionsOf true c ws [] with
  | some ss => (ss.map fun p => (List.replicate p.1 p.2).flatten).flatten
  | none => []

/-- Handles of the tiles that a Headrig stream pushes in a step. -/
def pushedTiles (its : List Item) : List Nat :=
  (its.filter fun x => opcodeOf x.w == 3 && bit x.w 33).map fun x => fld x.w 76 65

/-- R566 for ED_TOPKF, over two steps from an empty queue. -/
def StandImg.topOk (i : StandImg) (c : Nat) (hr ed : List Nat) : Bool :=
  if ed.all fun w => opcodeOf w != 0x1E then true
  else
    let hs := pushedTiles (allItems c hr)
    let its := allItems c ed
    topWalk i (its ++ its) [] (hs ++ hs) true

/-- The section that runs in ring `r` of a step (R189). -/
def sectionAt : List (Nat × List Item) → Nat → List Item
  | [], _ => []
  | (n, its) :: ss, r => if r < n then its else sectionAt ss (r - n)

/-- R463: no instruction of an engine is placed in local 0 to 319 of a ring in which the compartment's point may change.
Control and address operations are no work of an engine (DEDUCED, notes/assumptions/22.md). -/
def clearOf (ss : List (Nat × List Item)) (rings : List Nat) : Bool :=
  rings.all fun r => (sectionAt ss r).all fun x => decide (opcodeOf x.w ≥ 0x30) || decide (320 ≤ stampOf x.w)

/-- The areas of a stand fit and do not overlap (R188). -/
def areasApart (as : List (Nat × Nat)) : Bool :=
  as.all (fun a => decide (a.1 + a.2 ≤ 16384)) &&
  (List.range as.length).all fun x => (List.range x).all fun y =>
    let a := as.getD x (0, 0); let b := as.getD y (0, 0)
    decide (a.1 + a.2 ≤ b.1) || decide (b.1 + b.2 ≤ a.1) || a.2 == 0 || b.2 == 0

/-- Instruction words of an area. -/
def areaWords (cuts : Tab Nat) (a : Nat × Nat) : List Nat := (List.range a.2).map fun j => tget 0 cuts (a.1 + j)

/-- One stream's area: its instructions, sections, stamps below L − S, and for the Headrig and the Edger their walks.
`p` is the sum that its REPEAT fields must have; `cold` a refill section, which no earlier step precedes. -/
def StandImg.streamOk (i : StandImg) (k c window p : Nat) (ws : List Nat) (cold : Bool) : Bool :=
  ws.all (i.instrOk k) &&
  match sectionsOf false c ws [] with
  | none => false
  | some ss =>
    let its := stepItems ss
    (ss.map (·.1)).foldl (· + ·) 0 == p && its.all (fun x => decide (x.late < window)) &&
    match k with
    | 0 => (hrWalk i its (if cold then (none, none) else (hrWalk i its (none, none) true).1) true).2
    | 1 => (edWalk i its (if cold then [] else (edWalk i its [] true).1) true).2
    | _ => true

/-- Every stream of a stand (R189). -/
def StandImg.streamsOk (i : StandImg) (c window p : Nat) : Bool :=
  let area := fun k => areaWords i.cuts (i.areas.getD k (0, 0))
  (List.range 4).all (fun k => i.streamOk k c window p (area k) false) && i.topOk c (area 0) (area 1)

/-- The areas of a stand lie apart, and its refill section keeps the rules of a cut list (R188, R528). -/
def StandImg.refillOk (i : StandImg) (c window rf : Nat) : Bool :=
  areasApart (i.areas ++ (match i.refill with | some r => r.1 | none => [])) &&
  match i.refill with
  | none => true
  | some (as, bs) =>
    (as.map (·.2)).foldl (· + ·) 0 == bs.length &&
    let area := fun k => (((bs.drop (((as.take k).map (·.2)).foldl (· + ·) 0)).take ((as.getD k (0, 0)).2)).map ofLe)
    (List.range 4).all (fun k => i.streamOk k c window rf (area k) true) && i.topOk c (area 0) (area 1)

/-- BANKS, AREGS and DESCRIPTORS of a stand as R562 gives them. -/
def StandImg.tablesOk (i : StandImg) (g : Dom) (descBytes : List Byte) : Bool :=
  (List.range 32).all (fun b => let k := i.bank b
    decide (k.1 ≤ 1) && decide (k.2.1 ≤ 2) && decide (k.2.2 ≤ 3) && num i.banks (4 * b + 3) 1 == 0) &&
  (i.aregs = [] || (List.range 16).all fun r =>
    (decide (i.arOwner r ≤ 3) || i.arOwner r == 0xFF) && num i.aregs (16 * r + 9) 7 == 0) &&
  (pieces 72 descBytes).all (fun p => decide (1 ≤ num p 0 2) && decide (num p 0 2 ≤ 4095) && num p 2 6 == 0) &&
  i.desc.all fun e => i.descOk g e.2

/-! Flume tables (R223 to R225, R235, R236, R241, R248, R249, R321, R530). -/

/-- Whether the link behind a port of a node is connected, and whether it is a crossing. -/
def portLink (st p : Nat) : Option Bool := if p = 4 then some false else (nextHop (.node st) p 0).map fun x => x.2.2.2

/-- R241: the copies of one input that an entry may make. -/
def copiesOk (inp : Nat) (outs : List Nat) : Bool :=
  match outs with
  | [] | [_] => true
  | [a, b] => if inp = 4 then (a == 1 && b == 3) || (a == 0 && b == 2) else b == 4 && a == (inp + 2) % 4
  | _ => false

/-- A slot-table entry of a node (R224, R225). -/
def nodeEntryOk (st e : Nat) : Bool :=
  let cs := (List.range 5).map (nodeConn e)
  fld e 127 120 == 0 &&
  cs.all (fun c =>
    let f := fld e (24 * c.out + 23) (24 * c.out)
    if c.kind = 0 then f == 0
    else fld f 17 12 == 0 && decide (c.inp ≤ 4) && c.inp != c.out && (portLink st c.out).isSome && (portLink st c.inp).isSome &&
      (c.kind != 1 || c.ckt != 0) && (c.kind != 2 || c.ckt == 0) && (!c.mat || (c.kind != 2 && portLink st c.inp == some true))) &&
  (List.range 5).all fun inp =>
    let mine := cs.filter fun c => c.kind != 0 && c.inp == inp
    copiesOk inp (mine.map (·.out)) &&
    match mine with
    | a :: b :: _ => a.kind != 2 && a.kind == b.kind && a.ckt == b.ckt
    | _ => true

/-- R530: a pass node's entries pass W to E or E to W. -/
def passEntryOk (e : Nat) : Bool :=
  ((List.range 5).map (nodeConn e)).all fun c => c.kind == 0 || (c.out == 1 && c.inp == 3) || (c.out == 3 && c.inp == 1)

/-- Selectors that the return route of a forward route gathers (R236, R237): walked from a node through the device until
it is delivered, leaves the device, or meets a fault. -/
def returnLen : Nat → Loc → Nat → Nat → List Nat → Nat
  | 0, _, _, _, _ => 0
  | n + 1, l, inp, rail, r =>
    let p : Packet := { loc := l, inPort := inp, ready := 0, srcEnd := l, rail := rail, route := r, payload := .token false 0 0 false }
    match p.next with
    | none => 0
    | some (out, k) =>
      (backSel l inp).length +
      match nextHop l out 0 with
      | some (l', inp', _, _) => (match l' with
        | .aelel _ => returnLen n .bridge (32 + rail) rail (r.drop k)
        | l' => returnLen n l' inp' rail (r.drop k))
      | none => 0

/-- A route-table entry: forward and return routes fit in 32 selectors (R236). -/
def routeOk (st e : Nat) : Bool :=
  let r := routeEntry e
  decide (r.1.length ≤ 32) && decide (r.2 ≤ 2) && !bit e 126 &&
  (bit e 127 || decide (returnLen 33 (.node st) 4 r.2 r.1 ≤ 32))

def StandImg.flumeOk (i : StandImg) : Bool := i.slots.all (fun e => nodeEntryOk i.st e.2) && i.routes.all fun e => routeOk i.st e.2

/-- Numbers without a repeat: no two connections of a wide entry name one output (R248), nor one input (R241). -/
def apart (ns : List Nat) : Bool := ns.length == (distinct ns).length

/-- R248: whether a domain owns a port of the bridge in an entry. -/
def ownsPort (g : Dom) (e p : Nat) : Bool :=
  if p < 16 then bit g.stands (p / 2)
  else if p < 32 then bit g.stands (8 + (p - 16) / 2)
  else if p < 44 then bit g.aelel (p - 32)
  else if p < 53 then bit g.hub (e % 16) && (decide (p < 49) || bit g.lp (4 * (p - 49) + e % 4))
  else false

/-- A bridge entry (R225, R248, R321). -/
def bridgeEntryOk (g : Dom) (e w : Nat) : Bool :=
  let cs := (List.range 16).map (wideConn w)
  let used := cs.filter (·.kind != 0)
  (List.range 16).all (fun i => let f := fld w (32 * i + 31) (32 * i)
    let c := wideConn w i
    if c.kind = 0 then f == 0
    else fld f 16 12 == 0 && c.inp != c.out && (c.kind != 1 || c.ckt != 0) && (c.kind != 2 || c.ckt == 0) &&
      ownsPort g e c.inp && ownsPort g e c.out && (!c.mat || (c.kind != 2 && (decide (c.inp < 32) || decide (44 ≤ c.inp))))) &&
  apart (used.map (·.out)) && apart (used.map (·.inp))

/-- A connection of an edge switch's entry (R225, R320): ports 0 to 15 are the links of the columns, which are crossings, and 16 to 21 those
of the controllers. -/
def edgeConnOk (f : Nat) (c : Conn) : Bool :=
  if c.kind = 0 then f == 0
  else fld f 16 12 == 0 && decide (c.inp < 22) && decide (c.out < 22) && c.inp != c.out && (c.kind != 1 || c.ckt != 0) &&
    (c.kind != 2 || c.ckt == 0) && (!c.mat || (c.kind != 2 && decide (c.inp < 16)))

/-- The EDGE section (R225, R241, R320, R562). -/
def edgesOk (bs : List Byte) : Bool :=
  (numTab 32 bs).all fun e =>
    let cs := (List.range 6).map (wideConn e.2)
    let used := cs.filter (·.kind != 0)
    fld e.2 255 192 == 0 && (List.range 6).all (fun i => edgeConnOk (fld e.2 (32 * i + 31) (32 * i)) (wideConn e.2 i)) &&
    apart (used.map (·.out)) && apart (used.map (·.inp))

/-- Outputs to Aelel ports of a bridge entry. -/
def aelelOuts (w : Nat) : List Nat :=
  (((List.range 16).map (wideConn w)).filter fun c => c.kind != 0 && decide (32 ≤ c.out) && decide (c.out < 44)).map (·.out)

/-- R249: connections to one Aelel output lie at least 4 entries apart, around the table. -/
def bridgeSpaced (t : Tab Nat) : Bool :=
  t.all fun e => (aelelOuts e.2).all fun o => [1, 2, 3].all fun k => !(aelelOuts (tget 0 t ((e.1 + k) % 4096))).contains o

def bridgeOk (g : Dom) (t : Tab Nat) : Bool := t.all (fun e => bridgeEntryOk g e.1 e.2) && bridgeSpaced t

/-! Controllers (R320, R323, R324). -/

/-- The table of half `h` of stack `u`, or of package `u − 16`, from the MEMCTL section. -/
def memCtlByte (bs : List Byte) (u h t : Nat) : Nat :=
  if u < 16 then num bs (8192 * u + 2 * t + h) 1 else num bs (98304 + 4096 * (u - 16) + t) 1

/-- The entries of a half as the device holds them: those of stack 0 whose index mod 8 is 7 are DEVICE. -/
def ctlEntry (bs : List Byte) (u h t : Nat) : Nat := if u = 0 ∧ t % 8 = 7 then 4 else memCtlByte bs u h t

/-- R324: gap between a READ and a WRITE, looking `n` entries back from entry `t`, around the table. -/
def turnOk (f : Nat → Nat) (t n : Nat) : Bool :=
  let k := fld (f t) 2 0
  if k = 1 ∨ k = 2 then
    (List.range n).all fun i => let b := fld (f ((t + 4096 - 1 - i) % 4096)) 2 0; b != 3 - k
  else true

/-- R324 over one half or package: rate (entries that are not IDLE among consecutive ones), refresh, turn-round, codes. -/
def ctlTableOk (f : Nat → Nat) (most among refresh turn : Nat) (lp stack0 : Bool) : Bool :=
  let ts := List.range 4096
  ts.all (fun t => let b := f t
    decide (b < 16) && decide (b % 8 ≤ 4) && (!lp || decide (b < 8)) && (b % 8 != 4 || (stack0 && t % 8 == 7))) &&
  ts.all (fun t => decide (((List.range among).filter fun i => fld (f ((t + i) % 4096)) 2 0 != 0).length ≤ most)) &&
  decide (refresh ≤ (ts.filter fun t => fld (f t) 2 0 == 3).length) &&
  ts.all fun t => turnOk f t turn

/-- The tables of a MEMCTL section; an absent section leaves them idle (R564) and is not judged (DEDUCED,
notes/assumptions/23.md). -/
def memCtlOk (g : Dom) (bs : List Byte) : Bool :=
  bs.isEmpty ||
  (List.range 12).all (fun u =>
    if bit g.hbm u then [0, 1].all fun h => ctlTableOk (ctlEntry bs u h) 24 25 96 9 false (u == 0)
    else ((bs.drop (8192 * u)).take 8192).all (· == 0)) &&
  (List.range 16).all fun p =>
    if bit g.lp p then ctlTableOk (ctlEntry bs (16 + p) 0) 8 75 8 12 true false else ((bs.drop (98304 + 4096 * p)).take 4096).all (· == 0)

/-! Serving sections (R334, R335, R368, R396, R410, R417, R563). -/

/-- A replica entry (R563). -/
structure Replica where
  home : Nat
  model : Nat
  dslots : Nat
  pslots : Nat
  chunk : Nat
  dsb0 : Nat
  psb0 : Nat
  tpp : Nat
  series : Nat
  draftMax : Nat
  nstop : Nat
  maxCtx : Nat
  pending : Nat
  pageOps : Nat
  pmFirst : Nat
  pmCount : Nat
  stageFrame : Nat
  stagePages : Nat
  v : Nat
  cand : Nat
  stop : List Nat
  units : List Nat
  /-- bindings: stand, handle, KIND, PARITY, SERIES -/
  bindings : List (Nat × Nat × Nat × Nat × Nat)
  len : Nat
  zero : Bool

def Replica.read (b : List Byte) : Replica :=
  let series := num b 20 2
  let nb := num b 58 2
  let bo := cdiv (128 + 2 * series) 8 * 8
  { len := num b 0 4, home := num b 4 2, model := num b 6 2, dslots := num b 8 2, pslots := num b 10 2, chunk := num b 12 2
    dsb0 := num b 14 2, psb0 := num b 16 2, tpp := num b 18 2, series := series, draftMax := num b 22 1, nstop := num b 23 1
    maxCtx := num b 24 4, pending := num b 28 4, pageOps := num b 32 4, pmFirst := num b 36 4, pmCount := num b 40 4
    stageFrame := num b 44 4, stagePages := num b 48 4, v := num b 52 4, cand := num b 56 2
    stop := (List.range 8).map fun k => num b (64 + 4 * k) 4
    units := (List.range series).map fun k => num b (128 + 2 * k) 2
    bindings := (List.range nb).map fun k => let o := bo + 8 * k
      (num b o 2, num b (o + 2) 2, num b (o + 4) 1, num b (o + 5) 1, num b (o + 6) 2)
    zero := num b 60 4 == 0 && num b 96 32 == 0 }

/-- The replica entries of a section, one after another. -/
def replicasOf : Nat → List Byte → List Replica
  | 0, _ => []
  | n + 1, bs => let r := Replica.read bs; r :: replicasOf n (bs.drop r.len)

def pow2 (n : Nat) : Bool := n != 0 && 2 ^ n.log2 == n

/-- One replica keeps R368, R396, R410 and R563. -/
def Replica.ok (r : Replica) (g : Dom) (stands : List Nat) : Bool :=
  r.zero && r.len % 64 == 0 && decide (cdiv (128 + 2 * r.series) 8 * 8 + 8 * r.bindings.length ≤ r.len) &&
  decide (1 ≤ r.dslots) && decide (1 ≤ r.pslots) && decide (r.pslots ≤ r.dslots) && decide (r.dslots + r.pslots ≤ 8192) &&
  decide (1 ≤ r.chunk) && decide (r.chunk ≤ 4096) && decide (r.dsb0 ≤ r.dslots) && decide (r.psb0 ≤ r.pslots) &&
  pow2 r.tpp && decide (r.tpp ≤ 2048) && decide (1 ≤ r.series) && decide (r.series ≤ 1024) && decide (1 ≤ r.maxCtx) &&
  decide (r.maxCtx ≤ 2 ^ 24) && decide (r.draftMax ≤ 8) && decide (1 ≤ r.pending) && decide (r.pending ≤ 65536) &&
  decide (r.series * cdiv r.maxCtx (max r.tpp 1) ≤ r.pageOps) && decide (r.pmFirst + r.pmCount ≤ 2 ^ 24) &&
  g.windows.any (fun w => decide (w.1 ≤ r.stageFrame ∧ r.stageFrame + r.stagePages ≤ w.1 + w.2.1)) && decide (1 ≤ r.stagePages) &&
  decide (1 ≤ r.v) && decide (r.v ≤ 262144) && decide (1 ≤ r.cand) && decide (r.cand ≤ 1024) && decide (r.nstop ≤ 8) &&
  (r.stop.drop r.nstop).all (· == 0) &&
  r.units.all (fun u => if u < 16 then bit g.hbm u else bit g.lp (u - 16)) &&
  r.bindings.all fun b => stands.contains b.1 && decide (b.2.2.1 ≤ 5) && decide (b.2.2.2.1 ≤ 1) &&
    (if b.2.2.1 = 1 then decide (b.2.2.2.2 < r.series) else b.2.2.2.2 == 0)

/-- Replicas of one model agree, and page-map ranges of replicas of one home lie apart. -/
def replicasApart : List Replica → Bool
  | [] => true
  | r :: rs =>
    rs.all (fun q => (r.model != q.model || (r.v == q.v && r.nstop == q.nstop && r.stop == q.stop)) &&
      (r.home != q.home || decide (r.pmFirst + r.pmCount ≤ q.pmFirst) || decide (q.pmFirst + q.pmCount ≤ r.pmFirst))) && replicasApart rs

/-- An entry of the Grader schedule (R417). -/
structure GrEntry where
  stamp : Nat := 0
  ring : Nat := 0
  kind : Nat := 0
  replica : Nat := 0
  pos : Nat := 0
  wt : Nat := 0
  wtn : Nat := 0
  ckt : Nat := 0
  doff : Nat := 0
  dtok : Nat := 0
  cb : Nat := 0
  cand : Nat := 0
  nb : Nat := 0
  zero : Bool := true
  deriving DecidableEq, Repr

def GrEntry.read (bs : List Byte) : GrEntry :=
  let w := ofLe bs
  { stamp := fld w 255 236, ring := fld w 235 224, kind := fld w 223 222, replica := fld w 221 218, pos := fld w 217 215
    wt := fld w 214 210, wtn := fld w 209 198, ckt := fld w 197 186, doff := fld w 185 172, dtok := fld w 171 167, cb := fld w 159 112
    cand := fld w 111 102 + 1, nb := fld w 101 96 + 1, zero := fld w 166 160 == 0 && fld w 95 0 == 0 }

/-- The Grader schedule (R417). -/
def graderOk (es : List GrEntry) (rs : List Replica) (p window buildAt : Nat) : Bool :=
  es.all (fun e =>
    let r := rs[e.replica]?
    e.zero && decide (e.ring < p) && (e.kind == 1 || e.kind == 2) && r.isSome && decide (e.wt ≤ 16) && e.cb % 512 == 0 &&
    decide (e.stamp < window) && (match r with | some r => e.nb == cdiv r.v 8192 && e.cand == r.cand | none => false) &&
    (e.kind == 1 || (e.pos == 0 && e.ckt == 0 && e.ring + 1 == p && decide (e.stamp < buildAt)))) &&
  (List.range 16).all fun k => decide ((es.filter fun e => e.kind == 2 && e.replica == k).length ≤ 1)

/-- A preload span (R334). -/
structure Span where
  ring : Nat
  st : Nat
  handle : Nat
  first : Nat
  count : Nat

def Span.read (bs : List Byte) : Span :=
  let w := ofLe bs
  { ring := fld w 127 116, st := fld w 115 107, handle := fld w 106 95, first := fld w 63 32, count := fld w 31 0 }

/-- R334, R335: spans of each ring name at most min(3L/32, 32,768) elements, of index tensors that the Landing writes. -/
def spansOk (sp : List Span) (rs : List Replica) (p l : Nat) : Bool :=
  sp.all (fun x => decide (x.ring < p) && rs.any fun r => r.bindings.any fun b => b.1 == x.st && b.2.1 == x.handle && b.2.2.1 == 1) &&
  (List.range p).all fun r => decide ((((sp.filter (·.ring == r)).map (·.count)).foldl (· + ·) 0) ≤ min (3 * l / 32) 32768)

/-! Operating points (R463). -/

/-- Schedule entries: ring, compartment mask, point. -/
def opSched (bs : List Byte) : List (Nat × Nat × Nat) := (pieces 8 (bs.drop 16)).map fun p => (num p 0 2, num p 2 2, num p 4 1)

/-- Rings of a step in which a compartment's point may change: the first, where any point it can hold differs from the
initial one, and each scheduled ring whose point differs from one that can be in force before it. -/
def changeRings (bs : List Byte) (k : Nat) : List Nat :=
  let init := num bs k 1
  let mine := (opSched bs).filter fun e => e.2.1.testBit k
  let pts := mine.map fun e => e.2.2
  let first := if ((0 :: pts).any (· != init)) then [0] else []
  let before := fun (r : Nat) =>
    match (mine.filter fun e => decide (e.1 < r)).map (fun e => e.2.2) with
    | [] => init :: pts
    | xs => [xs.getLastD init]
  first ++ (mine.filter fun e => (before e.1).any (· != e.2.2)).map (·.1)

/-- R463: every point named is allowed and every compartment named is of the stand set. -/
def State.opSchedOk (s : State) (g : Dom) (p : Nat) (bs : List Byte) : Bool :=
  bs = [] || ((List.range 16).all (fun k => !bit g.stands k || decide (num bs k 1 ≤ (s.getCmp k).opMax)) &&
    (opSched bs).all fun e => decide (e.1 < p) && decide (e.2.2 ≤ 3) &&
      (List.range 16).all fun k => !e.2.1.testBit k || (bit g.stands k && decide (e.2.2 ≤ (s.getCmp k).opMax)))

/-- Zero bytes of OPSCHED and codes of OWNERSHIP (R562). -/
def opSchedZero (bs : List Byte) : Bool := (pieces 8 (bs.drop 16)).all fun p => num p 5 3 == 0
def ownershipOk (bs : List Byte) : Bool :=
  (pieces 16 bs).all fun p => (num p 0 1 == 0 && decide (num p 1 1 ≤ 3) && decide (num p 4 1 < 32) && num p 5 1 == 0) ||
    (num p 0 1 == 1 && num p 1 3 == 0)

/-! The order of refusals (R559). -/

/-- What LOAD reads of an image. -/
structure PlanImg where
  hdr : PlanHdr
  sects : List Sect

/-- The content of the sections (R559, step 2, last). -/
def State.contentOk (s : State) (g : Dom) (c : Nat) (im : PlanImg) : Bool :=
  let h := im.hdr
  let ss := im.sects
  let window := s.L - h.slack
  let stands := planStands ss
  let reps := replicasOf h.replicas (sectBytes ss 0x14 0xFFFF)
  let ops := sectBytes ss 0x16 0xFFFF
  ss.all (fun e => e.type != 7 || planStand g c e.target || (numTab 16 e.bytes).all fun x => passEntryOk x.2) &&
  (List.range 512).all (fun st => !bit g.stands (standCmp st) ||
    ((standImg ss st).tablesOk g (sectBytes ss 3 st) && (standImg ss st).flumeOk)) &&
  stands.all (fun st => (standImg ss st).streamsOk c window h.rings) &&
  (List.range 512).all (fun st => (standImg ss st).refillOk c window h.rf) &&
  edgesOk (sectBytes ss 0x11 0xFFFF) &&
  bridgeOk g (numTab 64 (sectBytes ss 0x10 0xFFFF)) &&
  memCtlOk g (sectBytes ss 0x12 0xFFFF) &&
  reps.all (fun r => r.ok g stands) && replicasApart reps &&
  (reps.map (·.len)).foldl (· + ·) 0 == (sectBytes ss 0x14 0xFFFF).length &&
  graderOk ((pieces 32 (sectBytes ss 0x15 0xFFFF)).map GrEntry.read) reps h.rings window h.buildAt &&
  spansOk ((pieces 16 (sectBytes ss 0x13 0xFFFF)).map Span.read) reps h.rings s.L &&
  opSchedZero ops && ownershipOk (sectBytes ss 0x17 0xFFFF)

/-- R463's part of BAD_GEOMETRY. -/
def State.pointsOk (s : State) (g : Dom) (c : Nat) (im : PlanImg) : Bool :=
  let ops := padTo (max 16 (sectBytes im.sects 0x16 0xFFFF).length) (sectBytes im.sects 0x16 0xFFFF)
  s.opSchedOk g im.hdr.rings ops &&
  (planStands im.sects).all fun st =>
    let i := standImg im.sects st
    (List.range 4).all fun k => match sectionsOf false c (areaWords i.cuts (i.areas.getD k (0, 0))) [] with
      | some ss => clearOf ss (changeRings ops (standCmp st))
      | none => true

/-- The image at the address of RING_PLAN_IMAGE. -/
def State.readImg (s : State) (a : Nat) : PlanImg :=
  let h := PlanHdr.read s.mem.mem a
  { hdr := h, sects := (sectTable s.mem.mem a h).map (SectHdr.sect s.mem.mem a) }

/-- R560: the address is 4 KiB aligned and the image lies wholly within the domain's windows. -/
def State.imageAddrOk (s : State) (g : Dom) (a : Nat) : Bool :=
  a % 4096 == 0 && g.covers a 4096 && g.covers a (PlanHdr.read s.mem.mem a).length

/-- Another context holds the tag (R65). -/
def State.tagTaken (s : State) (d tag : Nat) : Bool :=
  tag == 0 || (List.range 16).any fun e => e != d && (s.getCtx e).state != .none && (s.getCtx e).jobTag == tag

/-- The status with which LOAD answers (R559), 0 where it is applied; the state is already known to allow it. -/
def State.loadStatus (s : State) (d tag c : Nat) : Nat :=
  let g := s.getDom d
  let a := (s.getCtx d).image
  if s.tagTaken d tag then 7
  else if (s.getTally d).room < 2 then 8
  else if !s.imageAddrOk g a then 6
  else
    let h := PlanHdr.read s.mem.mem a
    if !h.ok s.mem.mem a || !tableOk h (sectTable s.mem.mem a h) g c then 6
    else if !s.geometryOk g h c || !s.pointsOk g c (s.readImg a) then 4
    else if !s.contentOk g c (s.readImg a) then 6
    else 0

end Sys2Proof.Machine
end

