-- ==== Sys2Proof/Machine/Queue.lean ====
section
/-! DEFINITION. The queues (R300 to R313) and what the Landing takes from them as arrivals (R373). -/

namespace Sys2Proof.Machine

def State.getQueue (s : State) (q : Nat) : Queue := tget {} s.queue.ctx q
def State.updQueue (s : State) (q : Nat) (f : Queue → Queue) : State :=
  { s with queue := { s.queue with ctx := tupd {} s.queue.ctx q f } }
def State.getQld (s : State) (d : Nat) : QueueLd := tget {} s.queue.ld d
def State.updQld (s : State) (d : Nat) (f : QueueLd → QueueLd) : State :=
  { s with queue := { s.queue with ld := tupd {} s.queue.ld d f } }

/-- OWNER_LD (R300, R310): the valid domain whose range holds a queue. -/
def State.queueDom (s : State) (q : Nat) : Option Nat := firstBelow (fun d => (s.getDom d).valid && inRange (s.getDom d).queues q) 16

/-- R309, R331: an access of a queue's context for an LD: where the context is out of the cache, QCTX_CMISS counts and the context
is fetched. -/
def State.touchQueue (s : State) (d q : Nat) : State :=
  let (seed, s) := s.takeFree
  if Config.contextMiss seed then (s.updQld d fun x => { x with cmiss := x.cmiss.add 1 }).readContext d q else s

/-- R305, R306: a queue goes to FAULTED with a status; `idx` is recorded. -/
def State.faultQueue (s : State) (d q status idx : Nat) : State :=
  let s := s.updQueue q fun x => { x with state := 3, status := status, faultIdx := idx }
  let s := s.updQld d fun x =>
    { x with err := x.err.latch (at_ status 48 + at_ q 32 + idx) s.ring.count 0
             expired := if status = 1 then x.expired.add 1 else x.expired
             faults := if status = 1 then x.faults else x.faults.add 1 }
  s.raiseAt (if status = 1 then 0x0401 else 0x0405) d noUnit (s.getCmp 19).loc q status

/-- An entry completes: CONS passes it (R303). -/
def State.passEntry (s : State) (d q status : Nat) : State :=
  (s.updQueue q fun x => { x with cons := (x.cons + 1) % x.size, status := status }).updQld d fun x =>
    { x with entries := x.entries.add 1 }

/-! Commands and doorbells (R307, R308). -/

/-- A command of LD `d` acts on queues of its range only (R313). -/
def State.onQueue (s : State) (d q : Nat) (f : State → State) : State := if s.queueDom q = some d then f (s.touchQueue d q) else s

def enableQueue (d q : Nat) (s : State) : State :=
  s.onQueue d q fun s =>
    if (s.getQueue q).state ≠ 0 then s
    else if (s.getQueue q).defWait = 0 then s.faultQueue d q 2 (s.getQueue q).cons
    else s.updQueue q fun x => { x with state := 1 }

def disableQueue (d q : Nat) (s : State) : State :=
  s.onQueue d q fun s => s.updQueue q fun x => { x with state := 0, met := false }

def resumeQueue (d q : Nat) (s : State) : State :=
  s.onQueue d q fun s => if (s.getQueue q).state = 3 then s.updQueue q fun x => { x with state := 1 } else s

def resetQueue (d q : Nat) (s : State) : State :=
  s.onQueue d q fun s => s.updQueue q fun x => { x with state := 0, cons := x.prod, status := 0, met := false }

def execEnable (d q : Nat) (s : State) : Host.Outcome State Fault Refusal := .next (s.asLd d 0x480010 (enableQueue d q))
def execDisable (d q : Nat) (s : State) : Host.Outcome State Fault Refusal := .next (s.asLd d 0x480010 (disableQueue d q))
def execResume (d q : Nat) (s : State) : Host.Outcome State Fault Refusal := .next (s.asLd d 0x480010 (resumeQueue d q))
def execQueueReset (d q : Nat) (s : State) : Host.Outcome State Fault Refusal := .next (s.asLd d 0x480010 (resetQueue d q))

/-- QCTX_DOORBELL (R308). -/
def qctxDoorbell (d v : Nat) (s : State) : State :=
  let q := fld v 15 0
  let p := fld v 63 32
  if s.queueDom q ≠ some d then s.updQld d fun x => { x with dbDrop := x.dbDrop.add 1 }
  else if p ≥ (s.getQueue q).size then
    ((s.touchQueue d q).updQld d fun x => { x with dbDrop := x.dbDrop.add 1 }).faultQueue d q 5 (s.getQueue q).cons
  else (s.touchQueue d q).updQueue q fun x => { x with prod := p }

def execQctxDoorbell (d v : Nat) (s : State) : Host.Outcome State Fault Refusal := .next (s.asLd d 0x480018 (qctxDoorbell d v))

/-! Context words (R310). -/

/-- A word of a context as a read returns it; `own` is OWNER_LD. -/
def Queue.word (x : Queue) (own w : Nat) : Nat :=
  match w with
  | 0 => at_ x.status 40 + at_ x.partition 24 + at_ own 16 + flag x.specStop 5 + flag x.dlPolicy 4 + flag x.loc 3 + x.state
  | 1 => x.ringBase
  | 2 => at_ x.defWait 32 + x.size
  | 3 => at_ x.cons 32 + x.prod
  | 4 => at_ x.gen 32 + x.model
  | 5 => x.adapter
  | 6 => x.defer
  | 7 => at_ x.waitValue 32 + x.waitNotch
  | 8 => x.waitExpiry
  | 9 => x.faultIdx
  | _ => 0

/-- The context with the RW fields of a word written; none where the word has none or a value is out of its range (R558;
DEF_WAIT 0 has a stated outcome at ENABLE). -/
def Queue.setWord (x : Queue) (w v : Nat) : Option Queue :=
  match w with
  | 0 => some { x with partition := fld v 31 24, specStop := bit v 5, dlPolicy := bit v 4, loc := bit v 3 }
  | 1 => if v % 64 = 0 then some { x with ringBase := v % 2 ^ 64 } else none
  | 2 => if fld v 56 32 ≤ 2 ^ 24 ∧ 2 ≤ fld v 24 0 ∧ fld v 24 0 ≤ 2 ^ 24 then some { x with defWait := fld v 56 32, size := fld v 24 0 } else none
  | 4 => some { x with gen := fld v 63 32, model := fld v 15 0 }
  | 5 => some { x with adapter := fld v 31 0 }
  | 6 => if fld v 24 0 ≤ 2 ^ 24 then some { x with defer := fld v 24 0 } else none
  | _ => none

/-- QCTX_DATA: a write to the word that QCTX_SEL selects. -/
def qctxData (d v : Nat) (s : State) : State :=
  let q := (s.getQld d).selQueue
  let w := (s.getQld d).selWord
  s.onQueue d q fun s =>
    if (s.getQueue q).state ≠ 0 then s.updQld d fun x => { x with drop := x.drop.add 1 }
    else match (s.getQueue q).setWord w v with
      | none => s
      | some y =>
        if (w = 1 ∨ w = 2) ∧ !y.loc ∧ !s.placed d y.ringBase 64 y.size then s.hostDrop d 1 0x480008
        else s.change d d 0x480008 (at_ w 32 + q) ((s.getQueue q).word d w) (y.word d w) fun s => s.updQueue q fun _ => y

def execQctxData (d v : Nat) (s : State) : Host.Outcome State Fault Refusal := .next (s.asLd d 0x480008 (qctxData d v))

/-! Entries (R302). -/

/-- The entry at CONS of an ACTIVE queue with entries: none while there is none to take, `some none` where it cannot be read
or lies outside the domain's windows or host region (R306, R484). While PWR_WARN holds no entry is consumed (R539). -/
def State.queueEntry (s : State) (d q : Nat) : State × Option (Option (List Byte)) :=
  let x := s.getQueue q
  let a := x.ringBase + 64 * x.cons
  if x.state ≠ 1 ∨ x.cons = x.prod ∨ s.repair.refuses then (s, none)
  else if x.loc then let (s, bs) := s.unitRead d 19 a 64; (s, some bs)
  else if !(s.getDom d).hosts a 64 then (s, some none)
  else (s, s.hostRead (.entry q))

/-- Bytes `lo` to `hi` of an entry are zero. -/
def zeroBytes (bs : List Byte) (lo hi : Nat) : Bool := (slice bs lo (hi + 1 - lo)).all (· == 0)

/-- R302: types, reserved bytes and field ranges; false makes BAD_ENTRY. -/
def entryOk (bs : List Byte) : Bool :=
  match num bs 0 1 with
  | 1 => decide (num bs 1 1 < 4) && decide (num bs 2 2 ≤ 1024) && num bs 24 8 % 4 == 0 && decide (num bs 56 1 ≤ 8) && zeroBytes bs 57 63
  | 2 => zeroBytes bs 1 7 && zeroBytes bs 10 11 && decide (num bs 16 4 ≤ 2 ^ 24) && zeroBytes bs 20 63
  | 3 => zeroBytes bs 1 7 && zeroBytes bs 10 11 && zeroBytes bs 16 63
  | 4 => decide (num bs 1 1 ≤ 1) && zeroBytes bs 2 7 && zeroBytes bs 10 11 && zeroBytes bs 20 63
  | 5 => zeroBytes bs 1 3 && zeroBytes bs 8 63
  | _ => false

/-! The Landing's requests. -/

def State.getLnd (s : State) (d : Nat) : LndLd := tget {} s.hub.lnd d
def State.updLnd (s : State) (d : Nat) (f : LndLd → LndLd) : State := { s with hub := { s.hub with lnd := tupd {} s.hub.lnd d f } }

/-- The first element that a test takes, changed. -/
def updFirst {α : Type} (p : α → Bool) (f : α → α) : List α → List α
  | [] => []
  | x :: xs => if p x then f x :: xs else x :: updFirst p f xs

/-- The replicas of the plan loaded in a context (R368). -/
def PlanCtx.replicaList (c : PlanCtx) : List Replica := replicasOf c.replicas (sectBytes c.sects 0x14 0xFFFF)

/-- A replica homed on this device (R369). -/
def State.homed (s : State) (d k : Nat) : Option Replica :=
  match (s.getCtx d).replicaList[k]? with
  | some r => if r.home = s.logicalId d then some r else none
  | none => none

/-- Token IDs of a prompt's bytes (R302). -/
def promptToks (n : Nat) (bs : List Byte) : List Nat := (List.range n).map fun i => num bs (4 * i) 4

/-- Requests held by the Landing of the device (R369). -/
def State.requestCount (s : State) : Nat := (s.hub.lnd.map fun e => e.2.pending.length + e.2.live.length).foldl (· + ·) 0

/-- Staging bytes of a replica's prompts held now (R373). -/
def LndLd.stagedBytes (l : LndLd) (k : Nat) : Nat :=
  ((l.pending ++ l.live).map fun r => match r.prompt with
    | .ok ts => if r.replica = k ∧ r.fed < r.promptLen then 4 * ts.length else 0
    | .bad => 0).foldl (· + ·) 0

/-- A prompt of the domain's windows or host region (R374, R484). -/
def State.promptIn (s : State) (d addr n : Nat) : Bool :=
  if bit addr 63 then (s.getDom d).covers (fld addr 62 0) (4 * n) else (s.getDom d).hosts (fld addr 62 0) (4 * n)

/-- The prompt of the REQUEST at the head of a queue, once it is staged, cannot be read, or has nowhere to be staged:
none while it is still on its way. -/
def State.stagedPrompt (s : State) (d q : Nat) (bs : List Byte) : Option Prompt :=
  let a := num bs 24 8
  let n := num bs 8 4
  let k := (s.getQueue q).partition
  match s.homed d k with
  | none => some .bad
  | some r =>
    if n = 0 then some (.ok [])
    else if !s.promptIn d a n then some .bad
    else if n > r.maxCtx then some .bad
    else if bit a 63 then tfind? (s.getLnd d).staged q
    else match s.hostRead (.prompt q) with
      | none => none
      | some none => some .bad
      | some (some p) => if (s.getLnd d).stagedBytes k + 4 * n > 65536 * r.stagePages then none else some (.ok (promptToks n p))

/-- R373: whether the Landing takes a REQUEST as an arrival: in REPLAY none (R440), and none while the domain has no plan loaded. -/
def State.accepts (s : State) (d q : Nat) (bs : List Byte) : Bool :=
  let k := (s.getQueue q).partition
  let room := match s.homed d k with
    | some r => decide (((s.getLnd d).pending.filter fun p => p.replica == k).length < r.pending)
    | none => true
  (s.getCtx d).state != .none && !(s.getTally d).jrnReplay && decide (s.requestCount < 65536) && room && (s.stagedPrompt d q bs).isSome

/-! Consuming entries. -/

/-- Whether the engine can take the entry at a queue's CONS, or fault the queue at it, now. -/
def State.consumable (s : State) (q : Nat) : Bool :=
  match s.queueDom q with
  | none => false
  | some d => match (s.queueEntry d q).2 with
    | none => false
    | some none => true
    | some (some bs) => !entryOk bs || num bs 0 1 != 1 || s.accepts d q bs

/-- R308: queues are visited in ascending number from the last visited on; a queue at which the engine holds is passed over. -/
def State.queueTurn (s : State) (q : Nat) : Bool :=
  let dist := fun x => (x + 65536 - (s.queue.last + 1) % 65536) % 65536
  s.queue.ctx.all fun e => decide (dist q ≤ dist e.1) || !s.consumable e.1

/-- Consuming the entry at CONS where its TYPE is `type`: `f` gives its effect, none where the queue holds at the entry, which the
device then reads no further (R301). A bad or unreadable entry faults the queue whichever row comes. -/
def takeEntry (q type : Nat) (s : State) (f : Nat → List Byte → State → Option State) : State :=
  match s.queueDom q with
  | none => s
  | some d =>
    let visit := fun (r : State) => ({ r with queue := { r.queue with last := q } } : State).touchQueue d q
    if !s.queueTurn q then s
    else match s.queueEntry d q with
      | (_, none) => s
      | (r, some none) => ((visit r).useRead (.entry q)).faultQueue d q 6 (s.getQueue q).cons
      | (r, some (some bs)) =>
        if !entryOk bs then ((visit r).useRead (.entry q)).faultQueue d q 2 (s.getQueue q).cons
        else if num bs 0 1 = type then (f d bs (visit r)).getD s
        else s

/-- An entry that its queue consumes at once. -/
def consumeEntry (q type : Nat) (s : State) (f : Nat → List Byte → State → State) : State :=
  takeEntry q type s fun d bs s => some (f d bs (s.useRead (.entry q)))

/-- WAIT (R304). -/
def waitEntry (q : Nat) (s : State) : State :=
  consumeEntry q 2 s fun d bs s =>
    let n := num bs 8 2
    let v := num bs 12 4
    if s.notchDomain n ≠ some d ∨ (s.getNotch n).wmode % 2 = 1 then s.faultQueue d q 4 (s.getQueue q).cons
    else
      let b := if num bs 16 4 = 0 then (s.getQueue q).defWait else num bs 16 4
      (s.updQueue q fun x => { x with state := 2, waitValue := v, waitNotch := n, waitExpiry := s.ring.count + b, met := false }).reachNotch
        { src := { input := 1, end_ := q }, op := 4, notch := n, value := v }

def execWait (q : Nat) (s : State) : Host.Outcome State Fault Refusal := .next (waitEntry q s)

/-- QUEUE_WAIT_RELEASE: a satisfied WAIT completes OK (R304). -/
def queueWaitRelease (q : Nat) (s : State) : State :=
  match s.queueDom q with
  | some d =>
    let x := s.getQueue q
    if x.state = 2 ∧ x.met then ((s.touchQueue d q).updQueue q fun x => { x with state := 1, met := false }).passEntry d q 0 else s
  | none => s

def execQueueWaitRelease (q : Nat) (s : State) : Host.Outcome State Fault Refusal := .next (queueWaitRelease q s)

/-- R305: entries of a queue not yet consumed, at most 64, as the Scout reads them: those of a ring in host memory as far as they have
been read (DESIGN CHOICE, notes/assumptions/63.md). -/
def State.scanQueue (s : State) (d q : Nat) : State × List (List Byte) :=
  let x := s.getQueue q
  if !x.loc then (s, match s.hostRead (.entry q) with
    | some (some bs) => [bs]
    | _ => [])
  else (List.range (min 64 ((x.prod + x.size - x.cons) % x.size))).foldl (fun r k =>
    let (s, bs) := r.1.unitRead d 19 (x.ringBase + 64 * ((x.cons + k) % x.size)) 64
    (s, match bs with | some b => r.2 ++ [b] | none => r.2)) (s, [])

/-- R305: the Scout's look at an expiry in a debug plan: other waiting queues of the domain that hold a SIGNAL to the notch. -/
def State.scoutExpiry (s : State) (d q n : Nat) : State :=
  if !(s.getCtx d).debugging then s
  else
    (s.queue.ctx.filter fun e => e.1 != q && s.queueDom e.1 == some d && (e.2.state == 2 || e.2.state == 3)).foldl (fun s e =>
      let (s, es) := s.scanQueue d e.1
      if es.any fun bs => num bs 0 1 == 3 && num bs 8 2 == n then s.scoutFind d 5 (q % 2 ^ 16) e.1 (s.getCmp 19).loc else s) s

/-- WAIT_EXPIRED (R304, R305). -/
def waitExpired (q : Nat) (s : State) : State :=
  match s.queueDom q with
  | some d =>
    let x := s.getQueue q
    if x.state = 2 ∧ !x.met ∧ x.waitExpiry ≤ s.ring.count then
      ((((s.touchQueue d q).passEntry d q 1).faultQueue d q 1 x.cons).scoutExpiry d q x.waitNotch)
    else s
  | none => s

def execWaitExpired (q : Nat) (s : State) : Host.Outcome State Fault Refusal := .next (waitExpired q s)

/-- SIGNAL (R302). -/
def signalEntry (q : Nat) (s : State) : State :=
  consumeEntry q 3 s fun d bs s =>
    let n := num bs 8 2
    if s.notchDomain n ≠ some d then s.faultQueue d q 4 (s.getQueue q).cons
    else (s.reachNotch { src := { input := 1, end_ := q }, op := 0, notch := n, value := num bs 12 4 }).passEntry d q 0

def execSignal (q : Nat) (s : State) : Host.Outcome State Fault Refusal := .next (signalEntry q s)

/-- BIND (R302, R349). -/
def bindEntry (q : Nat) (s : State) : State :=
  consumeEntry q 4 s fun d bs s =>
    let m := num bs 8 2
    let g := num bs 12 4
    if num bs 1 1 = 1 then (s.updQueue q fun x => { x with adapter := num bs 16 4 }).passEntry d q 0
    else
      let ok := match s.currentSet d m with
        | some i => g == 0 || g == (s.getSet i).gen
        | none => false
      if ok then (s.updQueue q fun x => { x with model := m, gen := g }).passEntry d q 0
      else s.faultQueue d q 3 (s.getQueue q).cons

def execBind (q : Nat) (s : State) : Host.Outcome State Fault Refusal := .next (bindEntry q s)

/-- CANCEL (R302, R383, R385): the named request of the queue, pending or live, is marked; none of that name gives
CANCEL_MISS. -/
def cancelEntry (q : Nat) (s : State) : State :=
  consumeEntry q 5 s fun d bs s =>
    let hit := fun (r : Serve) => r.queue == q && r.reqId == num bs 4 4 && !r.cancel
    let l := s.getLnd d
    if l.live.any hit then
      (s.updLnd d fun l => { l with live := updFirst hit (fun r => { r with cancel := true }) l.live }).passEntry d q 0
    else if l.pending.any hit then
      (s.updLnd d fun l => { l with pending := updFirst hit (fun r => { r with cancel := true }) l.pending }).passEntry d q 0
    else if (l.live ++ l.pending).any fun r => r.queue == q && r.reqId == num bs 4 4 then s.passEntry d q 0
    else s.passEntry d q 7

def execCancel (q : Nat) (s : State) : Host.Outcome State Fault Refusal := .next (cancelEntry q s)

/-- PROMPT_STAGED: the copy of a device-memory prompt of the REQUEST at the head of queue `q` completes. -/
def promptStaged (q : Nat) (s : State) : State :=
  match s.queueDom q with
  | none => s
  | some d => match (s.queueEntry d q).2 with
    | some (some bs) =>
      let a := num bs 24 8
      let n := num bs 8 4
      let k := (s.getQueue q).partition
      if !entryOk bs ∨ num bs 0 1 ≠ 1 ∨ !bit a 63 ∨ !s.promptIn d a n then s
      else match s.homed d k with
        | none => s
        | some r =>
          if (s.getLnd d).stagedBytes k + 4 * n > 65536 * r.stagePages then s
          else
            let (s, p) := s.unitRead d 19 (fld a 62 0) (4 * n)
            s.updLnd d fun l => { l with staged := tput l.staged q (match p with | some p => .ok (promptToks n p) | none => .bad) }
    | _ => s

def execPromptStaged (q : Nat) (s : State) : Host.Outcome State Fault Refusal := .next (promptStaged q s)

/-- The request that a REQUEST entry makes (R302, R374, R416). -/
def serveOf (q k : Nat) (x : Queue) (bs : List Byte) (arrival ring : Nat) (p : Prompt) : Serve :=
  let d := if bit (num bs 1 1) 1 then 0 else num bs 56 1
  { arrival := arrival, ring := ring, replica := k, queue := q, reqId := num bs 4 4, flags := num bs 1 1, topK := num bs 2 2
    promptLen := num bs 8 4, maxNew := num bs 12 4, deadline := num bs 16 8, promptAddr := num bs 24 8, seed := num bs 32 8
    adapter := num bs 40 4, grammar := num bs 44 4, temp := num bs 48 4, topP := num bs 52 4, draft := d, prompt := p
    model := x.model, pin := x.gen, bound := if num bs 40 4 = 0xFFFFFFFF then x.adapter else num bs 40 4, d := d }

/-- REQUEST (R373): accepted as an arrival, or the queue holds at it. -/
def requestEntry (q : Nat) (s : State) : State :=
  takeEntry q 1 s fun d bs r =>
    if !s.accepts d q bs then none
    else (s.stagedPrompt d q bs).map fun p =>
      let x := r.getQueue q
      let r := (r.useRead (.entry q)).useRead (.prompt q)
      (r.updLnd d fun l =>
        { l with pending := l.pending ++ [serveOf q x.partition x bs l.nextArr r.ring.count p], nextArr := l.nextArr + 1
                 arrivals := l.arrivals.add 1, staged := tdel l.staged q }).passEntry d q 0

def execRequest (q : Nat) (s : State) : Host.Outcome State Fault Refusal := .next (requestEntry q s)

end Sys2Proof.Machine
end

