-- ==== Sys2Proof/Machine/Grader.lean ====
section
/-! DEFINITION. The Grader (chapter 14): its objects, the choice of a token, and the phases of its schedule. -/

namespace Sys2Proof.Machine

def State.getGr (s : State) (d : Nat) : GrLd := tget {} s.hub.gr d
def State.updGr (s : State) (d : Nat) (f : GrLd → GrLd) : State := { s with hub := { s.hub with gr := tupd {} s.hub.gr d f } }

/-! Reads of device memory by the Grader (R330, R408). -/

/-- `n` bytes at `a`, with whether a line was refused or uncorrectable; each event is raised once for an access. -/
def State.grRead (s : State) (d cls a n : Nat) : State × List Byte × Bool := s.hubRead d (hubUnit 1) cls a n (s.getCmp 19).loc

/-! Objects (R399 to R402). -/

/-- R399: a range of a weight-class window of the domain that is not a WSET window. -/
def Dom.weightOnly (g : Dom) (a n : Nat) : Bool := g.windows.any fun w =>
  w.2.2.1 == 1 && !w.2.2.2 && decide (w.1 * 65536 ≤ a ∧ a + n ≤ (w.1 + w.2.1) * 65536)

/-- Vocabulary against which LOAD checks a list's IDs: the least of the domain's replicas, else the largest V (R396). -/
def State.vocab (s : State) (d : Nat) : Nat := ((s.getCtx d).replicaList.map (·.v)).foldl min 262144

/-- The object that a header describes (R400). -/
def objOf (d a : Nat) (bs : List Byte) : GObj :=
  { dom := d, addr := a, kind := num bs 0 4, count := num bs 4 4, masks := num bs 8 4, start := num bs 12 4
    stateOff := num bs 16 8, transOff := num bs 24 8, maskOff := num bs 32 8, trans := num bs 40 4 }

/-- Token IDs of an allowed list. -/
def GObj.ids (o : GObj) (bs : List Byte) : List Nat := (List.range o.count).map fun i => num bs (4 * i) 4

/-- A state record (R401): MASK, FIRST, NTRANS, NEXT. -/
structure GState where
  mask : Nat
  first : Nat
  ntrans : Nat
  next : Nat
  ended : Bool
  ok : Bool

def GObj.stateOf (o : GObj) (bs : List Byte) : GState :=
  let m := num bs 0 4
  let f := num bs 4 4
  let n := num bs 8 4
  let w := num bs 12 4
  { mask := m, first := f, ntrans := n, next := fld w 19 0, ended := bit w 31
    ok := decide (m < o.masks) && decide (f + n ≤ o.trans) && fld w 30 20 == 0 && decide (fld w 19 0 < o.count) }

/-- The header keeps R400. -/
def GObj.headerOk (o : GObj) (bs : List Byte) : Bool :=
  zeroBytes bs 44 63 && o.stateOff % 64 == 0 && o.stateOff != 0 && o.maskOff % 512 == 0 && o.maskOff != 0 &&
  (if o.kind = 1 then
    decide (1 ≤ o.count ∧ o.count ≤ 1048576) && decide (1 ≤ o.masks ∧ o.masks ≤ 65536) && decide (o.start < o.count) &&
    o.transOff % 64 == 0 && o.transOff != 0 && decide (o.trans ≤ 2 ^ 28)
  else o.kind == 2 && decide (1 ≤ o.count ∧ o.count ≤ 4096) && o.masks == 1 && o.start == 0 && o.transOff == 0 && o.trans == 0)

/-- The arrays lie within windows of the domain (R402). -/
def GObj.inside (o : GObj) (g : Dom) : Bool :=
  g.weightOnly (o.addr + o.stateOff) ((if o.kind = 1 then 16 else 4) * o.count) && g.weightOnly (o.addr + o.maskOff) (32768 * o.masks) &&
  (o.kind == 2 || g.weightOnly (o.addr + o.transOff) (8 * o.trans))

/-- Bytes written into device memory, with fresh codes. -/
def State.putDev (s : State) (a : Nat) (bs : List Byte) : State :=
  { s with mem := { s.mem with mem := memWrite s.mem.mem a bs, flip := memClear s.mem.flip a (a + bs.length) } }

/-- The bitmap of an allowed list, built at MASK_OFF (R402). -/
def State.buildMask (s : State) (o : GObj) (ids : List Nat) : State :=
  let a := o.addr + o.maskOff
  let m := memClear s.mem.mem a (a + 32768)
  let m := ids.foldl (fun m t => memPut m (a + t / 8) (memGet m (a + t / 8) ||| BitVec.ofNat 8 (2 ^ (t % 8)))) m
  { s with mem := { s.mem with mem := m, flip := memClear s.mem.flip a (a + 32768) } }

def State.grAnswer (s : State) (d st h : Nat) : State := s.updGr d fun g => { g with resHandle := h, resStatus := st }

/-- GRADER_LOAD (R399, R402): LND_GR_ARG names the header. -/
def graderLoad (d : Nat) (s : State) : State :=
  let a := (s.getGr d).arg
  match firstBelow (fun h => (tfind? s.hub.obj h).isNone) 4096 with
  | none => s.grAnswer d 1 0
  | some h =>
    if a % 64 ≠ 0 ∨ !(s.getDom d).weightOnly a 64 then s.grAnswer d 2 0
    else
      let (s, hd, bad0) := s.grRead d 1 a 64
      let o := objOf d a hd
      if bad0 || !o.headerOk hd || !o.inside (s.getDom d) then s.grAnswer d 2 0
      else
        let (s, bs, bad) := s.grRead d 1 (a + o.stateOff + (if o.kind = 1 then 16 * o.start else 0)) (if o.kind = 1 then 16 else 4 * o.count)
        let ids := o.ids bs
        let ok := if o.kind = 1 then (o.stateOf bs).ok else ids.all fun t => decide (t < s.vocab d)
        if bad || !ok then s.grAnswer d 2 0
        else
          let go := fun (s : State) =>
            let s := if o.kind = 2 then s.buildMask o ids else s
            ({ s with hub := { s.hub with obj := tput s.hub.obj h o } }).grAnswer d 0 h
          s.change d d 0x440000 h 0 a go

/-- A pending or live request of the domain binds a handle (R402). -/
def State.handleBound (s : State) (d h : Nat) : Bool :=
  ((s.getLnd d).pending ++ (s.getLnd d).live).any fun r => r.grammar == h

/-- GRADER_UNLOAD (R402, R419). -/
def graderUnload (d h : Nat) (s : State) : State :=
  match tfind? s.hub.obj h with
  | none => s.grAnswer d 5 h
  | some o =>
    if o.dom ≠ d then s.grAnswer d 4 h
    else if s.handleBound d h then s.grAnswer d 3 h
    else s.change d d 0x440000 h o.addr 0 fun s =>
      ({ s with hub := { s.hub with obj := tdel s.hub.obj h } }).grAnswer d 0 h

def execGraderLoad (d : Nat) (s : State) : Host.Outcome State Fault Refusal := .next (s.asLd d 0x440000 (graderLoad d))
def execGraderUnload (d h : Nat) (s : State) : Host.Outcome State Fault Refusal := .next (s.asLd d 0x440000 (graderUnload d h))

/-! The grammar of a request (R401, R403, R408). -/

/-- The object a request names, if any. -/
def State.objectOf (s : State) (d h : Nat) : Option GObj :=
  match tfind? s.hub.obj h with
  | some o => if o.dom = d then some o else none
  | none => none

/-- R402, R408: what breaks R401 counts as an uncorrectable read of its address: the event of R330, where the read has not raised it. -/
def State.broken (s : State) (o : GObj) (a : Nat) (bad breaks : Bool) : State :=
  if !bad && breaks then s.raiseFail 0x0203 o.dom (hubUnit 1) (s.getCmp 19).loc (if a / apertureBytes < 16 then 0 else 1) a else s

/-- The record of a state, with whether it could not be read or breaks R401. -/
def State.readState (s : State) (o : GObj) (x : Nat) : State × GState × Bool :=
  let a := o.addr + o.stateOff + 16 * x
  let (s, bs, bad) := s.grRead o.dom 1 a 16
  let g := o.stateOf bs
  (s.broken o a bad !g.ok, g, bad || !g.ok)

/-- One delivered or proposed token moves the state (R401): the new state, whether it ends the request, whether a read
failed. -/
def State.advance (s : State) (o : Option GObj) (x tok : Nat) : State × Nat × Bool × Bool :=
  match o with
  | none => (s, x, false, false)
  | some o =>
    if o.kind ≠ 1 then (s, x, false, false)
    else
      let (s, g, bad) := s.readState o x
      let a := o.addr + o.transOff + 8 * g.first
      let (s, bs, badT) := s.grRead o.dom 1 a (8 * g.ntrans)
      let next := match (List.range g.ntrans).find? fun i => num bs (8 * i) 4 == tok with
        | none => g.next
        | some i => num bs (8 * i + 4) 4
      if badT || decide (next ≥ o.count) then (s.broken o a badT !bad, x, false, true)
      else
        let (s, g', bad') := s.readState o next
        (s, next, g'.ended, bad || bad')

/-- The bytes of a mask's lines that a pool touches (R404): by line of 4,096 tokens. -/
def State.readMask (s : State) (o : GObj) (mask : Nat) (lines : List Nat) : State × Tab (List Byte) × Bool :=
  lines.foldl (fun (x : State × Tab (List Byte) × Bool) l =>
    let (s, bs, bad) := x.1.grRead o.dom 1 (o.addr + o.maskOff + 32768 * mask + 512 * l) 512
    (s, tput x.2.1 l bs, x.2.2 || bad)) (s, [], false)

/-- Bit t of a mask (R400). -/
def maskBit (m : Tab (List Byte)) (t : Nat) : Bool :=
  let bs := tget [] m (t / 4096)
  bit (num bs (t % 4096 / 8) 1) (t % 8)

/-! The choice (R405 to R407, R412). -/

/-- R407: u of output index `j`, as a multiple of 2^-24. -/
def drawU (seed j stream : Nat) : Nat :=
  (chachaBlock [seed % 2 ^ 32, seed / 2 ^ 32, 0, 0, 0, 0, 0, 0] 0 [j % 2 ^ 32, j / 2 ^ 32, stream]).headD 0 / 256

/-- log2(e) / TEMP, correctly rounded (R406). -/
def invTemp (temp : FV) : FV :=
  match temp with
  | .num m e =>
    let l := fxOne * fxOne / ln2Fx
    let r := TF.round fmtFP32 false (.apx { m := l * 2 ^ 64 / m.natAbs, e := -(fxBits : Int) - 64 - e, sticky := true })
    fmtFP32.decode r.code
  | _ => .inf false

def tfToF32 (t : TF) : FV := fmtFP32.decode (t.round fmtFP32 false).code
def exp2F32 (x : FV) : FV := tfToF32 (tfExp2 x)

/-- Running sums in rank order, each rounded to FP32. -/
def cumSums : FV → List FV → List FV
  | _, [] => []
  | a, w :: ws => let b := f32Add a w; b :: cumSums b ws

/-- The first index of a list that satisfies a test. -/
def idxWhere {α : Type} (p : α → Bool) : List α → Nat → Option Nat
  | [], _ => none
  | x :: xs, i => if p x then some i else idxWhere p xs (i + 1)

/-- R406: the rank drawn from ranked values `vs`; `free` names the nucleus where no sum reaches the target. -/
def drawRank (vs : List FV) (temp topP : FV) (topK u free : Nat) : Nat :=
  let c := invTemp temp
  let m := vs.headD (.zero false)
  let nk := if 1 ≤ topK ∧ topK < vs.length then topK else vs.length
  let ws := (vs.take nk).map fun v => exp2F32 (toF32 ((toF32 (v.add m.neg)).mul c))
  let cum := match ws with
    | [] => []
    | w :: rest => w :: cumSums w rest
  let t := toF32 (topP.mul (cum.getLastD (.zero false)))
  let n := match idxWhere (fun x => t.lt x || t.eq x) cum 0 with
    | some i => i + 1
    | none => 1 + free % nk
  let uv : FV := if u = 0 then .zero false else .num (u : Nat) (-24)
  let x := toF32 (uv.mul (cum.getD (n - 1) (.zero false)))
  match idxWhere (fun y => x.lt y) (cum.take n) 0 with
  | some i => i
  | none => n - 1

/-- exp of a value at most 0, rounded to FP32 (R412). -/
def grExp : FV → FV
  | .num m e =>
    if FV.lt (.num m e) (.num (-200) 0) then tfToF32 (.apx { m := 1, e := -300, sticky := true })
    else
      let x : Int := if e + (fxBits : Int) ≥ 0 then shl m (e + fxBits) else m / ((2 ^ (-(e + fxBits)).toNat : Nat) : Int)
      let y := x * (fxOne : Int) / (ln2Fx : Int)
      tfToF32 (.apx { m := exp2Fx (y % (fxOne : Int)).toNat, e := y / (fxOne : Int) - fxBits, sticky := true })
  | .zero _ => .num 1 0
  | .inf true => .zero false
  | v => v

/-- ln of a sum, rounded to FP32 (R412). -/
def grLn : FV → FV
  | .num m e =>
    let k := m.natAbs.log2
    let l : Int := (e + k) * (ln2Fx : Int) + (lnFx (m.natAbs * 2 ^ (fxBits - k)) : Nat)
    if l = 0 then .zero false else tfToF32 (.apx { neg := decide (l < 0), m := l.natAbs, e := -(fxBits : Int), sticky := true })
  | .zero _ => .inf true
  | v => v

/-- R412: the log-probability of a rank, as an FP32 code. -/
def logProb (vs : List FV) (rank : Nat) : Nat :=
  let m := vs.headD (.zero false)
  match m with
  | .inf _ => if rank = 0 then 0 else fmtFP32.infCode true
  | _ =>
    let sum := rsumGroup (vs.map fun v => grExp (toF32 (v.add m.neg)))
    let d := toF32 ((vs.getD rank m).add m.neg)
    (fmtFP32.round false (d.add (grLn sum).neg)).code

/-- What grading one position gives. -/
structure Graded where
  tok : Option Nat := none
  lp : Nat := 0
  suspect : Bool := false
  cycles : Nat := 0
  misses : Nat := 0
  deriving DecidableEq, Repr

/-- One position (R397, R405 to R408, R418): record `rec`, output index `j`, stream, shadow state `x`. -/
def State.grade (s : State) (d : Nat) (e : GrEntry) (r : Serve) (v rec j stream x : Nat) : State × Graded :=
  let n := e.nb * e.cand
  let (s, bs, bad) := s.grRead d 0 (e.cb + rec * 8 * n) (8 * n)
  let pool := (List.range n).map fun i => (num bs (8 * i) 4, num bs (8 * i + 4) 4)
  let o := s.objectOf d r.grammar
  let lines := dedup ((pool.filter fun p => decide (p.2 < 262144)).map fun p => p.2 / 4096)
  let (s, allowed, bad2, misses) := match o with
    | none => (s, (fun t => decide (t < v)), false, 0)
    | some o =>
      let (s, mask, badS) := if o.kind = 1 then
          let (s, g, b) := s.readState o x
          (s, g.mask, b)
        else (s, 0, false)
      let (s, m, badM) := s.readMask o mask lines
      let (seed, s) := s.takeFree
      (s, (fun t => decide (t < v) && maskBit m t), badS || badM, min (Config.maskMisses seed).toNat lines.length)
  let vals := (pool.map fun p => (fmtFP32.decode p.1, p.2)).filter fun p => !p.1.isNan && allowed p.2
  let ranked := vals.foldl (fun acc p => rankInsert p acc) []
  let vs := ranked.map (·.1)
  let temp := fmtFP32.decode r.temp
  let (seed, s) := s.takeFree
  let top := vs.headD (.zero false)
  let sampled := !temp.isZero && top.isFinite
  let rank := if sampled then drawRank vs temp (fmtFP32.decode r.topP) r.topK (drawU r.seed j stream) (Config.freeRank seed).toNat else 0
  let nk := if 1 ≤ r.topK ∧ r.topK < vs.length then r.topK else vs.length
  (s, { tok := if vs = [] then none else (ranked[rank]?).map (·.2)
        lp := if bit r.flags 0 && vs ≠ [] then logProb vs rank else 0
        suspect := bad || bad2, misses := misses
        cycles := 2 * cdiv n 64 + 12 + (if sampled || bit r.flags 0 then cdiv nk 16 + 48 else 4) + 160 * misses })

/-- R409: a position with an empty allowed pool. -/
def State.noteEmpty (s : State) (d k slot : Nat) (r : Serve) : State :=
  (s.updGr d fun g =>
    { g with empty := g.empty.add 1, err := g.err.latch (at_ k 48 + at_ slot 32 + r.reqId) s.ring.count 0 }).raiseAt
    0x050B d (hubUnit 1) (s.getCmp 19).loc 0 0

/-- R411: the two datapaths differ at a position. -/
def State.noteCheck (s : State) (d k slot : Nat) (r : Serve) : State :=
  s.updGr d fun g =>
    { g with check := g.check.add 1, err := g.err.latch (2 ^ 61 + at_ k 48 + at_ slot 32 + r.reqId) s.ring.count 0 }

/-- A graded position counted: misses, empty pool, self-check. -/
def State.noteGraded (s : State) (d k slot : Nat) (r : Serve) (g : Graded) (differ : Bool) : State :=
  let s := s.updGr d fun x => { x with positions := x.positions.add 1, mmiss := x.mmiss.add g.misses }
  let s := if g.tok.isNone then s.noteEmpty d k slot r else s
  if differ then s.noteCheck d k slot r else s

/-! Shadow states and drafts (R413, R414). -/

/-- The tokens a request is still owed, and the step's effective draft length (R378, R413). -/
def Serve.owed (r : Serve) : Nat := r.maxNew - r.got
def Serve.eff (r : Serve) : Nat := min r.d (r.owed - 1)

/-- One token of a draft followed by the shadow state `x`, if the object has one and its mask lets the token through. -/
def State.shadowStep (s : State) (o : Option GObj) (x t : Nat) : State × Option Nat :=
  match o with
  | none => (s, none)
  | some ob =>
    let (s, mask) := if ob.kind = 1 then let (s, g, _) := s.readState ob x; (s, g.mask) else (s, 0)
    let (s, m, _) := s.readMask ob mask [t / 4096]
    if !maskBit m t then (s, none)
    else let (s, y, _, _) := s.advance o x t; (s, some y)

/-- R414: the shadow state after draft tokens; one that its state does not allow stops it. -/
def State.shadow (s : State) (o : Option GObj) : Nat → List Nat → State × Nat
  | x, [] => (s, x)
  | x, t :: ts =>
    match s.shadowStep o x t with
    | (s, some y) => State.shadow s o y ts
    | (s, none) => (s, x)

/-! Phases (R413, R415 to R418). -/

/-- The schedule of a context's plan (R417). -/
def PlanCtx.schedule (c : PlanCtx) : List GrEntry := (pieces 32 (sectBytes c.sects 0x15 0xFFFF)).map GrEntry.read

/-- The next entry of the step, where it is of the KIND asked for and its issue rule holds now (R43, R417). -/
def State.grReady (s : State) (d kind : Nat) : Option GrEntry :=
  let g := s.getGr d
  let now := (s.getCmp 19).loc
  match (s.getCtx d).schedule[g.next]? with
  | some e =>
    if s.ctxRuns d && e.kind == kind && e.ring == (s.getCtx d).ringInStep && decide (e.stamp ≤ now) && g.due.isNone &&
        (s.getCmp 19).keptNow && (e.wt == 0 || decide ((tget {} g.tok e.wt).n ≥ e.wtn + 1)) then some e else none
  | none => none

/-- R195, R201, R202: the entry's tokens consumed; true where they carry SUSPECT. -/
def State.grIssue (s : State) (d : Nat) (e : GrEntry) : State × Bool :=
  let g := s.getGr d
  let now := (s.getCmp 19).loc
  let c := tget ({} : Cnt) g.tok e.wt
  let sus := e.wt ≠ 0 && c.suspect
  let s := s.updGr d fun g => { g with next := g.next + 1, tok := if e.wt = 0 then g.tok else tput g.tok e.wt (c.take (e.wtn + 1)) }
  let s := s.noteSlip d (hubUnit 1) (satAt 16 (now - e.stamp)) now
  let a := (s.getTally d).acc
  if sus && a.cause == 0 then
    ((s.failStep d 0x020B (hubUnit 1)).raiseAt 0x020B d (hubUnit 1) now e.wt 0, sus)
  else (s, sus)

/-- Live requests changed by arrival number. -/
def State.updLive (s : State) (d arr : Nat) (f : Serve → Serve) : State :=
  s.updLnd d fun l => { l with live := l.live.map fun r => if r.arrival = arr then f r else r }

/-- The request in a decode slot of a replica. -/
def LndLd.inDecode (l : LndLd) (k sl : Nat) : Option Serve := l.live.find? fun r => r.replica == k && r.slot == .decode sl
def LndLd.inPrefill (l : LndLd) (k q : Nat) : Option Serve := l.live.find? fun r => r.replica == k && r.slot == .prefill q

/-- What a phase has gathered so far. -/
structure Phase where
  cycles : Nat := 0
  moves : Nat := 0
  suspect : Bool := false
  differ : Bool := false
  out : List Nat := []

/-- R403, R418: grammar advances counted; an allowed list and a request without an object have none. -/
def Phase.advances (ph : Phase) (o : Option GObj) (n : Nat) : Phase :=
  if o.any fun x => x.kind == 1 then { ph with cycles := ph.cycles + 16 * n, moves := ph.moves + n } else ph

/-- R418: the cycles of a phase, with those of the transition lines that were not held, as many as the implementation says (R404
bounds no more than that none is read where no grammar moves). -/
def State.phaseCycles (s : State) (ph : Phase) : Nat × State :=
  let (seed, s) := s.takeFree
  (ph.cycles + (if ph.moves = 0 then 0 else 160 * (Config.transMisses seed).toNat), s)

/-- One decode slot of a DRAFT phase. -/
def State.draftSlot (d : Nat) (e : GrEntry) (v : Nat) (tainted : Bool) (bad : List Nat) (x : State × Phase) (sl : Nat) : State × Phase :=
  let (s, ph) := x
  let none_ := (s, { ph with out := ph.out ++ [0xFFFFFFFF] })
  match (s.getLnd d).inDecode e.replica sl with
  | none => none_
  | some r =>
    if r.eff ≤ e.pos ∨ r.drafts.length ≠ e.pos then none_
    else
      let o := s.objectOf d r.grammar
      let (s, y) := s.shadow o r.gstate r.drafts
      let (s, g) := s.grade d e r v sl (r.got + e.pos) 1 y
      let differ := bad.contains sl
      let s := s.noteGraded d e.replica sl r g differ
      let s := match g.tok with
        | some t => (s.updLive d r.arrival fun r => { r with drafts := r.drafts ++ [t] }).updGr d fun g =>
            { g with proposed := g.proposed.add 1 }
        | none => s
      (s, ({ ph with cycles := ph.cycles + g.cycles, suspect := ph.suspect || g.suspect || differ || tainted
                     differ := ph.differ || differ, out := ph.out ++ [g.tok.getD 0xFFFFFFFF] } : Phase).advances o (if e.pos = 0 then 0 else 1))

/-- GRADE_CHECK, once for a phase (R411). -/
def State.raiseCheck (s : State) (d : Nat) (ph : Phase) : State :=
  if ph.differ then s.raiseFail 0x020E d (hubUnit 1) (s.getCmp 19).loc 0 0 else s

/-- The output flits of a DRAFT phase: 128 slots a flit, on the phase's circuit from bridge port 46 (R413). -/
def State.draftFlits (s : State) (d : Nat) (e : GrEntry) (ph : Phase) (delay : Nat) : List Flit :=
  let n := cdiv ph.out.length 128
  (List.range n).map fun i =>
    let ws := (ph.out.drop (128 * i)).take 128
    { loc := .bridge, inPort := 46, ready := s.time + delay + i, due := (s.getCmp 19).loc + delay + i, fifo := true, ckt := e.ckt, seq := i
      last := i + 1 == n, suspect := ph.suspect, doff := e.doff + i, be := 2 ^ (cdiv ws.length 2) - 1, dtok := e.dtok
      payload := padTo 512 ((ws.map (leBytes 4 ·)).flatten ++ (if ws.length % 2 = 1 then leBytes 4 0xFFFFFFFF else []))
      dom := d, srcEnd := .unit 46 }

/-- DRAFT (R413): `bad` lists the slots at which the two datapaths differ (R411). -/
def draftPhase (d : Nat) (bad : List Nat) (s : State) : State :=
  match s.grReady d 1 with
  | none => s
  | some e =>
    match (s.getCtx d).replicaList[e.replica]? with
    | none => s
    | some rep =>
      let now := (s.getCmp 19).loc
      let (s, tainted) := s.grIssue d e
      let (s, ph) := (List.range rep.dslots).foldl (State.draftSlot d e rep.v tainted bad) (s, {})
      let (work, s) := s.phaseCycles ph
      let s := s.raiseCheck d ph
      let fs := s.draftFlits d e ph work
      let s : State := { s with net := { s.net with outbox := s.net.outbox ++ fs } }
      s.updGr d fun g => { g with due := some (now + work + fs.length + 8, 1) }

/-- Positions 0 to d of a decode slot graded in turn (R415): each with its shadow state. -/
def State.gradeAll (d : Nat) (e : GrEntry) (v base slot : Nat) (r : Serve) (bad : List Nat) (o : Option GObj) :
    List Nat → Nat → Nat → State × List Graded × Phase → State × List Graded × Phase
  | ds, i, 0, (s, gs, ph) =>
    let (s, y) := s.shadow o r.gstate (ds.take i)
    let (s, g) := s.grade d e r v (base + i) (r.got + i) 0 y
    let differ := bad.contains (base + i)
    let s := s.noteGraded d e.replica slot r g differ
    (s, gs ++ [{ g with suspect := g.suspect || differ }], { ph with cycles := ph.cycles + g.cycles, differ := ph.differ || differ })
  | ds, i, n + 1, x => State.gradeAll d e v base slot r bad o ds (i + 1) n (State.gradeAll d e v base slot r bad o ds i 0 x)

/-- R415, R410: tokens delivered from the graded positions: Ti up to the first that is not D(i + 1), or that reports END. The
result: tokens with log-probabilities, the last grammar state, END, SUSPECT, and a. -/
def State.deliverToks (s : State) (stops : List Nat) (o : Option GObj) : Nat → List Graded → List Nat →
    List (Nat × Nat) × Bool × Nat → State × Nat × List (Nat × Nat) × Bool × Bool × Nat
  | x, [], _, (ts, sus, a) => (s, x, ts, false, sus, a)
  | x, g :: gs, ds, (ts, sus, a) =>
    match g.tok with
    | none => (s, x, ts, true, sus || g.suspect, a)
    | some t =>
      let (s, y, fin, bad) := s.advance o x t
      let ts := ts ++ [(t, g.lp)]
      let sus := sus || g.suspect || bad
      if fin || stops.contains t then (s, y, ts, true, sus, if ds.head? = some t then a + 1 else a)
      else match ds with
        | dt :: ds => if dt = t then State.deliverToks s stops o y gs ds (ts, sus, a + 1) else (s, y, ts, false, sus, a)
        | [] => (s, y, ts, false, sus, a)

/-- R416: the next draft length and run; a step with no effective draft leaves both. -/
def nextDraft (d z eff a : Nat) (specStop : Bool) : Nat × Nat :=
  if eff = 0 then (d, z)
  else if a ≥ 1 then (d, 0)
  else if z + 1 < 16 ∨ !specStop then (max 1 (d / 2), z + 1)
  else (0, 16)

/-- One graded slot of a VERIFY phase: `base` its first record, `eff` its effective draft length, which a prefill slot does not have
(R413; DEDUCED, notes/assumptions/66.md). -/
def State.verifySlot (s : State) (d : Nat) (e : GrEntry) (rep : Replica) (tainted : Bool) (bad : List Nat) (ph : Phase)
    (base slot eff : Nat) (r : Serve) : State × Phase :=
  let o := s.objectOf d r.grammar
  let own := eff
  let eff := min eff r.drafts.length
  let (s, gs, ph) := State.gradeAll d e rep.v base slot r bad o r.drafts 0 eff (s, [], ph)
  let (s, y, ts, fin, sus, a) := s.deliverToks (rep.stop.take rep.nstop) o r.gstate gs (r.drafts.take eff) ([], tainted, 0)
  let nd := nextDraft r.d r.z own a (s.getQueue r.queue).specStop
  let s := s.updLive d r.arrival fun r =>
    { r with res := some { toks := ts, gstate := y, ended := fin, suspect := sus, d := nd.1, z := nd.2 } }
  (s.updGr d fun g => { g with accepted := g.accepted.add a }, ph.advances o ts.length)

/-- VERIFY (R415, R416): decode slots, then the prefill slots that carry a last prompt chunk, in record order. `bad` lists
the records at which the two datapaths differ. -/
def verifyPhase (d : Nat) (bad : List Nat) (s : State) : State :=
  match s.grReady d 2 with
  | none => s
  | some e =>
    match (s.getCtx d).replicaList[e.replica]? with
    | none => s
    | some rep =>
      let now := (s.getCmp 19).loc
      let (s, tainted) := s.grIssue d e
      let w := 1 + rep.draftMax
      let (s, ph) := (List.range rep.dslots).foldl (fun (x : State × Phase) sl =>
        match (x.1.getLnd d).inDecode e.replica sl with
        | some r => x.1.verifySlot d e rep tainted bad x.2 (sl * w) sl r.eff r
        | none => x) (s, {})
      let (s, ph) := (List.range rep.pslots).foldl (fun (x : State × Phase) q =>
        match (x.1.getLnd d).inPrefill e.replica q with
        | some r => if r.fed ≥ r.promptLen then
            x.1.verifySlot d e rep tainted bad x.2 (rep.dslots * w + q) (rep.dslots + q) 0 r else x
        | none => x) (s, ph)
      let (work, s) := s.phaseCycles ph
      let s := s.raiseCheck d ph
      s.updGr d fun g => { g with due := some (now + work + 8, 2) }

def execDraft (d : Nat) (bad : List Nat) (s : State) : Host.Outcome State Fault Refusal := .next (draftPhase d bad s)
def execVerify (d : Nat) (bad : List Nat) (s : State) : Host.Outcome State Fault Refusal := .next (verifyPhase d bad s)

/-- GRADER_PHASE_COMPLETE (R417, R418): the Landing's completion follows the step's last VERIFY. -/
def graderPhaseComplete (d : Nat) (s : State) : State :=
  let g := s.getGr d
  match g.due with
  | some (t, kind) =>
    if (s.getCmp 19).loc < t then s
    else
      let last := kind == 2 && !(((s.getCtx d).schedule.drop g.next).any fun e => e.kind == 2)
      s.updGr d fun g => { g with due := none, done := g.done || last }
  | none => s

def execGraderPhaseComplete (d : Nat) (s : State) : Host.Outcome State Fault Refusal := .next (graderPhaseComplete d s)

end Sys2Proof.Machine
end

