-- ==== Sys2Proof/Machine/Landing.lean ====
section
/-! DEFINITION. The Landing (chapter 13): the build of a step, its tickets (R437 to R441) and effects, and step records. -/

namespace Sys2Proof.Machine

/-- Replicas of the context's plan homed on this device, with their numbers (R369). -/
def State.homes (s : State) (d : Nat) : List (Nat × Replica) :=
  (enum (s.getCtx d).replicaList).filter fun p => p.2.home == s.logicalId d

/-! Pages (R377, R378). -/

/-- Pages per series of a request. -/
def pagesPer (rep : Replica) (r : Serve) : Nat := cdiv (r.promptLen + r.maxNew) (max rep.tpp 1)

/-- KV windows of a unit as (first frame, pages), ascending. -/
def State.kvRanges (s : State) (d u : Nat) : List (Nat × Nat) :=
  let ws := (s.getDom d).win.filter fun p => Config.kvWindow (ofLe (s.getCtx d).planId) d p.1
  let rs := (ws.filterMap fun p => winOf p.2).filter fun w => unitOf (w.1 * 65536) == u
  (rs.map fun w => (w.1, w.2.1)).foldl (fun acc x => ins x acc) []
where
  ins (x : Nat × Nat) : List (Nat × Nat) → List (Nat × Nat)
    | [] => [x]
    | y :: ys => if x.1 < y.1 then x :: y :: ys else y :: ins x ys

/-- The lowest `n` numbers of a range that are free. -/
def takeFreeIn (used : List Nat) : Nat → Nat → Nat → List Nat
  | _, 0, _ => []
  | _, _, 0 => []
  | a, c + 1, n + 1 => if used.contains a then takeFreeIn used (a + 1) c (n + 1) else a :: takeFreeIn used (a + 1) c n

/-- The lowest `n` free numbers of several ranges. -/
def takeFreeAll (used : List Nat) : List (Nat × Nat) → Nat → List Nat
  | [], _ => []
  | r :: rs, n => let xs := takeFreeIn used r.1 r.2 n; xs ++ takeFreeAll used rs (n - xs.length)

/-- Frames of the entries that are VALID, and their indices. -/
def usedFrames (pg : Tab PageEnt) : List Nat := (pg.filter (·.2.valid)).map (·.2.frame)
def usedIndices (pg : Tab PageEnt) : List Nat := (pg.filter (·.2.valid)).map (·.1)

/-- R395: LND_FREE, free pages in the domain's KV pools. -/
def State.freePages (s : State) (d : Nat) : Nat :=
  let us := dedup (((s.getCtx d).replicaList.map (·.units)).flatten)
  let used := usedFrames s.mem.page
  (us.map fun u => ((s.kvRanges d u).map fun r => r.2 - (used.filter fun f => decide (r.1 ≤ f ∧ f < r.1 + r.2)).length).foldl (· + ·) 0).foldl (· + ·) 0

/-- One series of a request reserved: `n` pages of unit `u`, with their page-map indices; none where the pool or the range
is short. -/
def State.reserveSeries (s : State) (d u q n : Nat) (rep : Replica) (pg : Tab PageEnt) : Option (Tab PageEnt × List Nat) :=
  let fs := takeFreeAll (usedFrames pg) (s.kvRanges d u) n
  let is := takeFreeIn (usedIndices pg) rep.pmFirst rep.pmCount n
  if fs.length < n ∨ is.length < n then none
  else some ((is.zip fs).foldl (fun pg p =>
    tput pg p.1 { valid := true, tier := if u < 16 then 0 else 1, gen := ((tget {} pg p.1).gen + 1) % 4096, queue := q, frame := p.2 }) pg, is)

/-- Every series of a request (R378): all or nothing. -/
def State.reserve (s : State) (d q n : Nat) (rep : Replica) : List Nat → Nat → Tab PageEnt → Option (Tab PageEnt × List (Nat × Nat))
  | [], _, pg => some (pg, [])
  | u :: us, k, pg =>
    match s.reserveSeries d u q n rep pg with
    | none => none
    | some (pg, is) => (State.reserve s d q n rep us (k + 1) pg).map fun x => (x.1, (is.map fun i => (k, i)) ++ x.2)

/-! Sets of the coming step (R348 to R353). -/

/-- A switch of a model takes effect at the step boundary whose ring is `a` (R348). -/
def State.switchedAt (s : State) (d m a : Nat) : Bool :=
  s.weight.switches.any fun w => w.dom == d && (s.getSet w.set).model == m && decide (w.ring + 2 ≤ a)

/-- A model held by DRAIN at that boundary (R348, R353). -/
def State.drainHeld (s : State) (d m a : Nat) : Bool :=
  (s.weight.drains.any fun h => h.dom == d && h.model == m) && !s.switchedAt d m a

/-- DRAINING and CURRENT set of a model at the step boundary whose ring is `a`, with these live requests. -/
def State.nextSets (s : State) (d m a : Nat) (live : List Serve) : Option Nat × Option Nat :=
  let held := fun (i : Nat) => live.any fun r => r.set == i
  let cur := s.currentSet d m
  let dr := (s.drainingSet d m).filter held
  match s.weight.switches.find? fun w => w.dom == d && (s.getSet w.set).model == m && decide (w.ring + 2 ≤ a) with
  | some w => (match cur with | some c => if held c then some c else dr | none => dr, some w.set)
  | none =>
    let drained := s.weight.drains.any fun h => h.dom == d && h.model == m
    match cur with
    | some c => if drained && !held c then (dr, none) else (dr, some c)
    | none => (dr, none)

/-! The working state of a build. -/

/-- What a build changes as its decisions are taken. -/
structure Work where
  live : List Serve
  pending : List Serve
  page : Tab PageEnt
  /-- entries written, by index, and how many for each replica -/
  wrote : List Nat := []
  ops : Tab Nat := []
  carried : List Nat := []
  notices : List RecEnt := []
  gone : List Serve := []
  codes : List Nat := []
  err : Option (Nat × Nat × Nat) := none
  admits : Nat := 0
  rejects : Nat := 0
  defers : Nat := 0
  late : Nat := 0
  cancels : Nat := 0
  retired : Nat := 0
  tight : Bool := false

/-- The replica whose range holds a page-map index. -/
def pageHome (reps : List (Nat × Replica)) (i : Nat) : Option (Nat × Replica) :=
  reps.find? fun p => decide (p.2.pmFirst ≤ i ∧ i < p.2.pmFirst + p.2.pmCount)

/-- R377: page-map entries released while the build has writes left for the replica; the others are carried. -/
def Work.release (reps : List (Nat × Replica)) : List Nat → Work → Work
  | [], w => w
  | i :: is, w =>
    Work.release reps is (match pageHome reps i with
      | none => { w with page := tput w.page i { tget {} w.page i with valid := false }, wrote := i :: w.wrote }
      | some (k, rep) =>
        if tget 0 w.ops k < rep.pageOps then
          { w with page := tput w.page i { tget {} w.page i with valid := false }, wrote := i :: w.wrote, ops := tupd 0 w.ops k (· + 1) }
        else { w with carried := w.carried ++ [i] })

/-- FLAGS of R392. -/
def entryFlags (final late suspect best cancelled ended lp : Bool) : Nat :=
  flag final 0 + flag late 1 + flag suspect 2 + flag best 3 + flag cancelled 4 + flag ended 5 + flag lp 6

/-- A NOTICE (R392). -/
def noticeOf (r : Serve) (flags status detail : Nat) : RecEnt :=
  { arrival := r.arrival, notice := true
    units := [layout 64 [(0, 1, 3), (2, 2, flags), (4, 2, r.queue), (6, 2, status), (8, 4, r.reqId), (12, 4, r.got),
      (16, 2, detail), (52, 4, r.gen), (56, 8, r.arrival)]] }

/-- A TOKENS entry, with its LOGPROB unit where asked for (R392). -/
def tokensOf (r : Serve) (flags : Nat) (ts : List (Nat × Nat)) : RecEnt :=
  let lp := bit r.flags 0
  { arrival := r.arrival, notice := false
    units := layout 64 ([(0, 1, 2), (1, 1, ts.length), (2, 2, flags + flag lp 6), (4, 2, r.queue), (8, 4, r.reqId), (12, 4, r.got)] ++
        ((enum ts).map fun p => (16 + 4 * p.1, 4, p.2.1)) ++ [(52, 4, r.gen), (56, 8, r.arrival)]) ::
      (if lp then [layout 64 ([(0, 1, 4), (1, 1, ts.length)] ++ (enum ts).map fun p => (4 + 4 * p.1, 4, p.2.2))] else []) }

/-- Tokens a request is delivered for the step just run (R383). -/
def Serve.fresh (r : Serve) : List (Nat × Nat) := match r.res with | some o => o.toks.take r.owed | none => []

/-- The request with the outcome of the step just run taken (R375, phase 1). -/
def Serve.take (r : Serve) : Serve :=
  match r.res with
  | none => { r with drafts := [] }
  | some o =>
    { r with got := r.got + r.fresh.length, lastTok := match r.fresh.getLast? with | some t => t.1 | none => r.lastTok
             gstate := o.gstate, d := o.d, z := o.z, dOwed := r.dOwed || o.d != r.d, drafts := [], res := none }

/-- END reported for a request in the step just run. -/
def Serve.atEnd (r : Serve) : Bool := match r.res with | some o => o.ended | none => false

/-- BITS of a RETIRE ticket at the boundary of ring `a`, 0 where the request stays (R383). -/
def Serve.retireBits (r : Serve) (a : Nat) : Nat :=
  let fin := decide (r.take.got ≥ r.maxNew) || r.atEnd
  flag fin 0 + flag r.atEnd 1 + flag (r.cancel && !fin) 2 + flag (decide (a > r.deadline)) 3

/-- A request taken away from the pending ones with a NOTICE. -/
def Work.drop (w : Work) (r : Serve) (flags status detail : Nat) : Work :=
  { w with pending := w.pending.filter (·.arrival != r.arrival), notices := w.notices ++ [noticeOf r flags status detail]
           gone := w.gone ++ [r] }

def Work.mark (w : Work) (code : Nat) (r : Serve) : Work :=
  { w with codes := if w.codes.contains code then w.codes else w.codes ++ [code]
           err := match w.err with | some e => some e | none => some (code, r.queue, r.reqId) }

/-- One decision takes effect (R375 to R385); `a` is the first ring of the step built. -/
def State.applyDec (s : State) (d a : Nat) (reps : List (Nat × Replica)) (w : Work) (x : Dec) : Work :=
  match x with
  | .arrival r => { w with pending := w.pending ++ [r] }
  | .cancel arr =>
    let w := { w with cancels := w.cancels + 1 }
    match w.pending.find? (·.arrival == arr) with
    | some r => w.drop r (entryFlags true false false false true false false) 0 0
    | none => w
  | .retire arr bits =>
    match w.live.find? (·.arrival == arr) with
    | none => w
    | some r =>
      let w := { w with live := w.live.filter (·.arrival != arr), retired := w.retired + 1, late := w.late + (if bit bits 3 then 1 else 0) }
      let w := if bit bits 3 then w.mark 0x0503 r else w
      let w := Work.release reps (r.pages.map (·.2)) w
      if r.fresh ≠ [] then w
      else { w with notices := w.notices ++ [noticeOf r.take (entryFlags true (decide (a > r.deadline)) false r.bestEffort (bit bits 2)
          (bit bits 1) false) (if bit bits 3 then 0x0503 else 0) 0] }
  | .draft arr dl z => { w with live := w.live.map fun r => if r.arrival = arr then
      { r with d := dl, z := z, dOwed := false, res := r.res.map fun o => { o with d := dl, z := z } } else r }
  | .reject arr code detail =>
    match w.pending.find? (·.arrival == arr) with
    | none => w
    | some r => ({ w with rejects := w.rejects + 1 }.mark code r).drop r (entryFlags true false false false false false false) code detail
  | .defer arr slots _ =>
    { w with defers := w.defers + 1
             pending := w.pending.map fun r => if r.arrival = arr then { r with deferCause := some (if slots then 1 else 0) } else r }
  | .accept arr _ gen adapter best =>
    match w.pending.find? (·.arrival == arr) with
    | none => w
    | some r =>
      match reps.find? (·.1 == r.replica) with
      | none => w
      | some (k, rep) =>
        let n := pagesPer rep r
        match s.reserve d r.queue n rep rep.units 0 w.page with
        | none => w
        | some (pg, pages) =>
          let set := match firstBelow (fun i => let e := s.getSet i
              decide (e.state ≥ 2) && e.state != 5 && e.domain == d && e.model == rep.model && e.gen == gen) 256 with | some i => i | none => 0
          let r' := { r with gen := gen, set := set, bound := adapter, bestEffort := best, pages := pages
                             gstate := match s.objectOf d r.grammar with | some o => o.start | none => 0 }
          { w with pending := w.pending.filter (·.arrival != arr), live := w.live ++ [r'], page := pg
                   wrote := (pages.map (·.2)).reverse ++ w.wrote, ops := tupd 0 w.ops k (· + pages.length), admits := w.admits + 1 }
  | .sitout arr => { w with live := w.live.map fun r => if r.arrival = arr then { r with sit := true } else r }

/-! Decisions (R374, R379, R380). -/

/-- R374: DETAIL of a request that breaks a limit, the lowest that applies; 0 for none. -/
def State.reqDetail (s : State) (d : Nat) (rep : Option Replica) (cur : Option Nat) (r : Serve) : Nat :=
  let temp := fmtFP32.decode r.temp
  let topP := fmtFP32.decode r.topP
  let e := cur.map s.getSet
  if r.promptLen = 0 ∨ r.maxNew = 0 then 1
  else if rep.any fun p => decide (r.promptLen + r.maxNew > p.maxCtx) then 2
  else if rep.any fun p => match r.prompt with | .ok ts => ts.any fun t => decide (t ≥ p.v) | .bad => false then 3
  else if rep.isSome ∧ r.prompt = .bad then 4
  else if !temp.isFinite || (temp.isNeg && !temp.isZero) || !(FV.lt (.zero false) topP && !FV.lt (.num 1 0) topP) then 5
  else if rep.any fun p => decide (r.draft > p.draftMax) then 6
  else if r.bound ≠ 0xFFFFFFFF ∧ (e.any fun e => decide (r.bound ≥ e.adCount) || !e.loaded.contains r.bound) then 7
  else if r.grammar ≠ 0xFFFFFFFF ∧ (s.objectOf d r.grammar).isNone then 8
  else if rep.isNone then 9 else 0

/-- Whether a request still has prompt positions to feed. -/
def Serve.prefills (r : Serve) : Bool := decide (r.fed < r.promptLen)

/-- Slots of a sub-batch in a step (R371): decode, prefill. -/
def Replica.slots (rep : Replica) (split : Bool) (sub : Nat) : Nat × Nat :=
  if !split then (rep.dslots, rep.pslots)
  else if sub = 0 then (rep.dsb0, rep.psb0) else (rep.dslots - rep.dsb0, rep.pslots - rep.psb0)

/-- The sub-batch of a live request (R351). -/
def subOf (dr : Option Nat) (r : Serve) : Nat := if dr = some r.set then 0 else 1

/-- R380: the decision on one pending request at the build for the step whose first ring is `a`; none where it waits for
room among the notices (R382). -/
def State.judge (s : State) (d a : Nat) (reps : List (Nat × Replica)) (w : Work) (r : Serve) : Option Dec :=
  let rep := (reps.find? (·.1 == r.replica)).map (·.2)
  let q := s.getQueue r.queue
  let rej := fun (code detail : Nat) => if w.notices.length ≥ 1024 then none else some (Dec.reject r.arrival code detail)
  let (dr, cur) := match rep with | some p => s.nextSets d p.model a w.live | none => (none, none)
  let det := s.reqDetail d rep cur r
  if r.cancel then (if w.notices.length ≥ 1024 then none else some (.cancel r.arrival))
  else if det ≠ 0 then rej 0x0508 det
  else match rep with
    | none => rej 0x0508 9
    | some p =>
      let infeasible := decide (a + (cdiv r.promptLen (max p.chunk 1) + r.maxNew - 1) * (s.getCtx d).ringsPerStep > r.deadline)
      let defer := fun (slots : Bool) =>
        if a - 1 ≥ r.ring + q.defer then rej (if slots then 0x050A else 0x0502) 0
        else some (.defer r.arrival slots (decide (r.deferCause ≠ some (if slots then 1 else 0))))
      let curGen := cur.map fun i => (s.getSet i).gen
      let split := dr.isSome
      let mine := w.live.filter fun x => x.replica == r.replica && (!split || subOf dr x == 1)
      let sl := p.slots split 1
      if r.pin ≠ 0 ∧ curGen ≠ some r.pin then rej 0x0505 0
      else if infeasible ∧ !q.dlPolicy then rej 0x0501 0
      else if s.drainHeld d p.model a || cur.isNone then defer false
      else if (mine.filter fun x => x.prefills && !x.sit).length ≥ sl.2 ∨ mine.length ≥ sl.1 then defer true
      else if tget 0 w.ops r.replica + pagesPer p r * p.series > p.pageOps ∨ (s.reserve d r.queue (pagesPer p r) p p.units 0 w.page).isNone then
        defer false
      else some (.accept r.arrival 1 (curGen.getD 0) r.bound infeasible)

/-- Phase 2 for the live requests in admission order (R382, R383): a cancelled one is ticketed, and one whose notice would be
the 1,025th sits out. -/
def State.retireAll (s : State) (d a : Nat) (reps : List (Nat × Replica)) : List Serve → Work × List Dec → Work × List Dec
  | [], x => x
  | r :: rs, (w, ds) =>
    let bits := r.retireBits a
    let new := if bits = 0 then []
      else if r.fresh = [] ∧ w.notices.length ≥ 1024 then [.sitout r.arrival]
      else (if bit bits 2 then [.cancel r.arrival] else []) ++ [.retire r.arrival bits]
    State.retireAll s d a reps rs (new.foldl (s.applyDec d a reps) w, ds ++ new)

/-- Phase 4 (R380). -/
def State.judgeAll (s : State) (d a : Nat) (reps : List (Nat × Replica)) : List Serve → Work × List Dec → Work × List Dec
  | [], x => x
  | r :: rs, (w, ds) =>
    match s.judge d a reps w r with
    | none => State.judgeAll s d a reps rs (w, ds)
    | some x => State.judgeAll s d a reps rs (s.applyDec d a reps w x, ds ++ [x])

/-- Slots given in ascending admission order from the first of each kind on; a request that finds none stays without. -/
def fillSlots (k dFrom dTo pFrom pTo : Nat) (mine : Serve → Bool) : List Serve → Nat → Nat → List Serve
  | [], _, _ => []
  | r :: rs, nd, np =>
    if r.replica ≠ k ∨ r.sit ∨ !mine r then r :: fillSlots k dFrom dTo pFrom pTo mine rs nd np
    else if r.prefills then
      if pFrom + np < pTo then { r with slot := .prefill (pFrom + np) } :: fillSlots k dFrom dTo pFrom pTo mine rs nd (np + 1)
      else { r with slot := .none } :: fillSlots k dFrom dTo pFrom pTo mine rs nd np
    else if dFrom + nd < dTo then { r with slot := .decode (dFrom + nd) } :: fillSlots k dFrom dTo pFrom pTo mine rs (nd + 1) np
    else { r with slot := .none } :: fillSlots k dFrom dTo pFrom pTo mine rs nd np

/-- R371: slots of the coming step for every replica. -/
def State.assignSlots (s : State) (d a : Nat) (reps : List (Nat × Replica)) (live : List Serve) : List Serve :=
  let none_ := live.map fun r => { r with slot := .none }
  reps.foldl (fun l kr =>
    let (k, rep) := kr
    match (s.nextSets d rep.model a live).1 with
    | none => fillSlots k 0 rep.dslots 0 rep.pslots (fun _ => true) l 0 0
    | some dr =>
      let l := fillSlots k 0 rep.dsb0 0 rep.psb0 (fun r => r.set == dr) l 0 0
      fillSlots k rep.dsb0 rep.dslots rep.psb0 rep.pslots (fun r => r.set != dr) l 0 0) none_

/-- The working state a build starts from: releases carried over first (R377). -/
def State.work0 (s : State) (d : Nat) (reps : List (Nat × Replica)) : Work :=
  let l := s.getLnd d
  Work.release reps l.carried { live := l.live.map fun r => { r with sit := false }, pending := l.pending, page := s.mem.page }

/-- The decisions of a build, in the order of its phases, and the working state that they lead to. -/
def State.decideBuild (s : State) (d a : Nat) (reps : List (Nat × Replica)) (w : Work) : Work × List Dec :=
  let (w, ds) := s.retireAll d a reps w.live (w, [])
  let drafts := (w.live.filter fun r => r.take.dOwed).map fun r => Dec.draft r.arrival r.take.d r.take.z
  let (w, ds) := s.judgeAll d a reps w.pending (w, ds ++ drafts)
  let sat := (s.assignSlots d a reps w.live).filter fun r => !r.sit && r.slot == .none
  let outs := sat.map fun r => Dec.sitout r.arrival
  (outs.foldl (s.applyDec d a reps) w, ds ++ outs)

/-! Tickets (R437, R438). -/

/-- A ticket before it has its TSEQ: kind, replica, queue, AUX, body. -/
structure Ticket where
  kind : Nat
  replica : Nat := 0xFF
  queue : Nat := 0
  aux : Nat := 0
  body : List (Nat × Nat × Nat) := []

/-- ARRIVAL, SAMPLING and PROMPT tickets of a request. -/
def arrivalTickets (r : Serve) : List Ticket :=
  let blocks := match r.prompt with
    | .ok ts => (List.range (cdiv ts.length 1024)).map fun b =>
      let xs := (ts.drop (1024 * b)).take 1024
      ({ kind := 3, replica := r.replica, queue := r.queue, aux := b
         body := [(16, 8, r.arrival), (24, 4, xs.length), (32, 32, num (sha512 ((xs.map (leBytes 4 ·)).flatten)) 0 32)] } : Ticket)
    | .bad => []
  { kind := 1, replica := r.replica, queue := r.queue, aux := r.reqId
    body := [(16, 8, r.arrival), (24, 8, r.ring), (32, 4, r.promptLen), (36, 4, r.maxNew), (40, 8, r.deadline), (48, 8, r.seed),
      (56, 4, r.bound), (60, 4, r.grammar)] } ::
  { kind := 2, replica := r.replica, queue := r.queue, aux := r.reqId
    body := [(16, 8, r.arrival), (24, 4, r.temp), (28, 4, r.topP), (32, 2, r.topK), (34, 1, r.draft), (35, 1, r.flags), (40, 8, r.promptAddr)] } ::
  blocks

/-- The ticket of a decision in the build for step `st`; a deferral of unchanged cause has none. -/
def decTicket (st : Nat) (reqs : List Serve) (reps : List (Nat × Replica)) (x : Dec) : List Ticket :=
  let get := fun (arr : Nat) => reqs.find? (·.arrival == arr)
  let mk := fun (arr kind aux : Nat) (body : List (Nat × Nat × Nat)) =>
    [({ kind := kind, replica := ((get arr).map (·.replica)).getD 0xFF, queue := ((get arr).map (·.queue)).getD 0, aux := aux
        body := (16, 8, arr) :: body } : Ticket)]
  match x with
  | .arrival _ => []
  | .cancel arr => mk arr 9 (((get arr).map (·.reqId)).getD 0) [(24, 8, st)]
  | .retire arr bits => mk arr 8 bits [(24, 8, st), (32, 4, ((get arr).map fun r => r.take.got).getD 0)]
  | .draft arr dl z => mk arr 10 0 [(24, 8, st), (32, 1, dl), (33, 1, z)]
  | .reject arr code detail => mk arr 7 code [(24, 8, st), (32, 2, detail)]
  | .defer arr slots fresh => if fresh then mk arr 6 (if slots then 1 else 0) [(24, 8, st)] else []
  | .accept arr sub gen adapter best =>
    let pages := match get arr with
      | some r => match reps.find? (·.1 == r.replica) with | some p => pagesPer p.2 r * p.2.series | none => 0
      | none => 0
    mk arr 5 sub [(24, 8, st), (32, 4, gen), (36, 4, adapter), (40, 4, pages), (44, 1, if best then 1 else 0)]
  | .sitout arr => mk arr 15 0 [(24, 8, st)]

/-- SWITCH and ADAPTER tickets of the boundary at which a step begins, with the live requests that it will have. -/
def State.setTickets (s : State) (d st a : Nat) (live : List Serve) : List Ticket :=
  let held := fun (i : Nat) => live.any fun r => r.set == i
  let gen := fun (i : Nat) => (s.getSet i).gen
  let sw := (s.weight.switches.filter fun w => w.dom == d && decide (w.ring + 2 ≤ a)).map fun w =>
    ({ kind := 11, aux := (s.getSet w.set).model, body := [(16, 8, st), (32, 4, ((s.currentSet d (s.getSet w.set).model).map gen).getD 0),
        (36, 4, gen w.set), (40, 4, 0)] } : Ticket)
  let drained := fun (m : Nat) => s.weight.drains.any fun h => h.dom == d && h.model == m
  let rel := ((List.range 256).filter fun i => let e := s.getSet i
      e.domain == d && !held i && (e.state == 4 || (e.state == 3 && (drained e.model || s.switchedAt d e.model a)))).map fun i =>
    ({ kind := 11, aux := (s.getSet i).model, body := [(16, 8, st), (32, 4, gen i), (40, 4, 1)] } : Ticket)
  let dn := (s.weight.drains.filter fun h => h.dom == d && !h.noted).map fun h =>
    ({ kind := 11, aux := h.model, body := [(16, 8, st), (32, 4, ((s.currentSet d h.model).map gen).getD 0), (40, 4, 2)] } : Ticket)
  let ad := (s.weight.adapters.filter (·.1 == d)).map fun x =>
    ({ kind := 12, aux := x.2.1, body := [(16, 8, st), (32, 4, x.2.2), (36, 4, gen x.2.1)] } : Ticket)
  ad ++ sw ++ rel ++ dn

/-- EPOCH tickets owed (R448). -/
def State.epochTicketsOf (s : State) (d : Nat) : List Ticket :=
  (s.getTally d).epochTickets.map fun p =>
    { kind := 13, aux := p.1, body := [(16, 8, p.2.ring), (24, 4, p.2.offset), (28, 4, p.2.sel), (32, 8, p.2.old), (40, 8, p.2.new), (48, 1, p.2.port)] }

def holdTicket (n last cause : Nat) : Ticket := { kind := 14, aux := n, body := [(16, 8, last), (32, 1, cause)] }

/-- Every ticket of a build but its last. -/
def State.buildTickets (s : State) (d st a : Nat) (reps : List (Nat × Replica)) (ds : List Dec) (w : Work) : List Ticket :=
  let l := s.getLnd d
  (if l.owedHolds = 0 then [] else [holdTicket l.owedHolds l.lastHeld l.owedCause]) ++ s.epochTicketsOf d ++ s.setTickets d st a w.live ++
  ((l.pending.filter fun r => !r.journalled).map arrivalTickets).flatten ++
  (ds.map (decTicket st (l.live ++ l.pending) reps)).flatten

/-- The BUILD ticket. -/
def buildTicket (n st a last : Nat) (w : Work) : Ticket :=
  { kind := 4, aux := n, body := [(16, 8, st), (24, 8, a), (32, 4, w.live.length - w.admits), (36, 4, w.admits), (40, 4, w.rejects),
      (44, 4, w.retired), (48, 8, last), (56, 4, w.defers)] }

def State.putTickets (s : State) (d : Nat) (ts : List Ticket) : State :=
  ts.foldl (fun s t => s.putTicket d t.kind t.replica t.queue t.aux t.body) s

/-! Entries of the step record (R390). -/

/-- Place of a slot in a step record (R390): replica, then decode slots, then prefill slots. -/
def Serve.order (r : Serve) : Nat := match r.slot with
  | .none => r.replica * 65536
  | .decode k => r.replica * 65536 + k
  | .prefill k => r.replica * 65536 + 8192 + k

def insOrder (key : RecEnt → Nat) (x : RecEnt) : List RecEnt → List RecEnt
  | [] => [x]
  | y :: ys => if key x < key y then x :: y :: ys else y :: insOrder key x ys

/-- TOKENS entries of the step that ends, in slot order, with the flags its build settles (R384, R392). -/
def tokenEntries (live : List Serve) (a : Nat) (ds : List Dec) : List RecEnt :=
  let bitsOf := fun (arr : Nat) => (ds.findSome? fun x => match x with | .retire b bits => if b = arr then some bits else none | _ => none).getD 0
  let es := (live.filter fun r => r.fresh ≠ []).map fun r =>
    let b := bitsOf r.arrival
    let e := tokensOf r (entryFlags (b != 0) (decide (a > r.deadline)) ((r.res.map (·.suspect)).getD false) r.bestEffort (bit b 2)
      r.atEnd false) r.fresh
    (r.order, e)
  ((es.foldl (fun (acc : List (Nat × RecEnt)) p => insP p acc) []).map (·.2))
where
  insP (p : Nat × RecEnt) : List (Nat × RecEnt) → List (Nat × RecEnt)
    | [] => [p]
    | q :: qs => if p.1 < q.1 then p :: q :: qs else q :: insP p qs

/-- Notices in arrival order. -/
def sortNotices (es : List RecEnt) : List RecEnt := es.foldl (fun acc e => insOrder (·.arrival) e acc) []

/-- R427: the sum of TOKENS entries and their LOGPROB units. -/
def State.tokenSum (s : State) (d : Nat) (es : List RecEnt) : Nat :=
  let key := grainKey (s.getCtx d).planId
  ((es.filter fun e => !e.notice).map fun e => (e.units.map fun u => grainLine key 0 (2 ^ 64 - 1) (padTo 512 u)).foldl (· ^^^ ·) 0).foldl (· ^^^ ·) 0

/-! Index tensors (R372, R334). -/

/-- The value of element `col` of slot `row` in an index tensor of a kind (R563); NULL where the slot is empty. -/
def tensorValue (rep : Replica) (k kind series row col : Nat) (live : List Serve) (old : List (Nat × Nat)) : Nat :=
  let slot : SlotAt := if row < rep.dslots then .decode row else .prefill (row - rep.dslots)
  match live.find? fun r => r.replica == k && r.slot == slot with
  | none => nullEntry
  | some r =>
    match kind with
    | 0 => if col = 0 then (Config.requestCode r.arrival).toNat else nullEntry
    | 1 => (((r.pages.filter (·.1 == series)).map (·.2))[col]?).getD nullEntry
    | 2 => if col = 0 then r.bound else nullEntry
    | 3 => if col = 0 ∧ r.grammar ≠ 0xFFFFFFFF then r.gstate else nullEntry
    | 4 => match r.prompt, slot with
      | .ok ts, .prefill _ =>
        let from_ := ((old.find? (·.1 == r.arrival)).map (·.2)).getD 0
        if col < rep.chunk then (ts[from_ + col]?).getD nullEntry else nullEntry
      | _, _ => nullEntry
    | 5 => match slot with | .decode _ => if col = 0 then r.lastTok else nullEntry | _ => nullEntry
    | _ => nullEntry

/-- The words that a line's byte enables touch, as a flit enables them (R227, R567). -/
def wordsOf (be : Nat) : Nat :=
  ((List.range 64).map fun w => if be / 2 ^ (8 * w) % 256 = 0 then 0 else 2 ^ w).foldl (· + ·) 0

/-- One line that the Landing writes to a stand (R142, R143, R567): it arrives through SK with whole words, the bytes that it does not
cover zero. The spec names no circuit for it: it lands in the cycle in which it is sent (DESIGN CHOICE, notes/assumptions/18.md). -/
def State.landLine (s : State) (d st : Nat) (l : Int) (img words : Nat) : State :=
  if (s.getStand st).ctx ≠ some d then s.fenced st (Loc.unit 45).srcCode
  else
    let (s, m) := s.writeLine st portSK (l * 512) (s.standNow st) true img (flitBE words)
    s.raiseMet st (standUnit st 3) m

/-- One index tensor written to its stand; its lines enter IN of the coming step (R427). -/
def State.writeTensor (s : State) (d st handle : Nat) (val : Nat → Nat → Nat) : State :=
  let ds := (s.getStand st).getDesc handle
  if !ds.valid then s
  else
    let ws : Writes := (((List.range ds.count).zip ds.elemBits).map fun p =>
      (enum (leBytes 4 (val (p.1 / max (ds.e 0) 1) (p.1 % max (ds.e 0) 1)))).map fun b => (p.2 / 8 + (b.1 : Int), b.2)).flatten
    let lines := (distinctLines (ws.map (·.1))).map fun l => let x := lineImage ws l; (l, x.1, wordsOf x.2)
    let key := grainKey (s.getCtx d).planId
    let h := (lines.map fun x => grainLine key (s.deckName d st x.1) x.2.2 (leBytes 512 x.2.1)).foldl (· ^^^ ·) 0
    let s := lines.foldl (fun s x => s.landLine d st x.1 x.2.1 x.2.2) s
    s.updTally d fun t => { t with nextIn := t.nextIn ^^^ h, twinSum := t.twinSum ^^^ h }

/-- The index tensors of a step's buffer (R372); `old` gives the prompt position each request's chunk starts at. -/
def State.writeTensors (s : State) (d st : Nat) (live : List Serve) (old : List (Nat × Nat)) : State :=
  (s.homes d).foldl (fun s kr =>
    (kr.2.bindings.filter fun b => b.2.2.2.1 == st % 2).foldl (fun s b =>
      s.writeTensor d b.1 b.2.1 fun row col => tensorValue kr.2 kr.1 b.2.2.1 b.2.2.2.2 row col live old) s) s

/-- The values of a preload span, NULLs apart (R334), as the index tensor holds them with the Landing's last writes in it. -/
def Stand.spanValues (t : Stand) (x : Span) : List Nat :=
  let t := t.later.foldl (fun t e => match e.2 with | .land _ a img be ms => t.land a img be ms | _ => t) t
  let ds := t.getDesc x.handle
  ((List.range x.count).map fun i =>
    let c := ds.coords (x.first + i)
    ofLe (memRead t.mem (ds.elemBit 0 (intCoords c) (c.headD 0) / 8).toNat 4)).filter (· != nullEntry)

/-- The bank of the page-map cache that serves ring `n`, from the spans of every running plan (R334): each value's entry read from
the home copy. -/
def State.buildBank (s : State) (n : Nat) : State :=
  let rows := (List.range 16).map fun d =>
    let c := s.getCtx d
    if !s.ctxRuns d then []
    else (((pieces 16 (sectBytes c.sects 0x13 0xFFFF)).map Span.read).filter fun x => x.ring == c.ringInStep).map fun x =>
      ((s.getStand x.st).spanValues x).map fun v => (d, v)
  let vs := distinct rows.flatten.flatten
  let r := vs.foldl (fun (r : State × Tab PageEnt) x => let y := r.1.readPage x.1 x.2; (y.1, tput r.2 x.2 y.2)) (s, [])
  let s := r.1
  { s with mem := if n % 2 = 0 then { s.mem with bank0 := r.2 } else { s.mem with bank1 := r.2 } }

/-! The build (R375). -/

/-- U of R387. -/
def recordMax (reps : List (Nat × Replica)) : Nat := 1 + 2 * (reps.map fun p => p.2.dslots + p.2.pslots).foldl (· + ·) 0 + 1024

def StepRec.units (r : StepRec) : Nat := 1 + (r.entries.map fun e => e.units.length).foldl (· + ·) 0

/-- R387: the cause that holds the step, if any: `own` units of the record of the step that ends, `n` tickets to write. -/
def State.holdCause (s : State) (d : Nat) (reps : List (Nat × Replica)) (own n : Nat) : Option Nat :=
  let l := s.getLnd d
  let owed := (l.recs.map StepRec.units).foldl (· + ·) 0 + (if l.stepHeld then 0 else own)
  if l.out.size = 0 then some 0
  else if l.out.free < owed + recordMax reps then some 1
  else if !s.host.up ∨ (!(s.getTally d).jrnReplay ∧ (s.getTally d).jrn.free ≤ n) then some 2
  else none

/-- Counters, events and the first record of a build (R382, R384, R395). -/
def State.noteBuild (s : State) (d : Nat) (w : Work) : State :=
  let cyc := (s.getCmp 19).loc
  let s := w.codes.foldl (fun s c => s.raiseAt c d (hubUnit 0) cyc 0 0) s
  s.updLnd d fun l =>
    { l with
      admits := l.admits.add w.admits, rejects := l.rejects.add w.rejects, defers := l.defers.add w.defers, late := l.late.add w.late
      cancels := l.cancels.add w.cancels
      err := match w.err with
        | some (code, q, id) =>
          let e := l.err.latch (at_ (code % 256) 48 + at_ q 32 + id) s.ring.count 0
          if w.rejects + w.late > 1 then { e with more := true } else e
        | none => l.err }

/-- LIVE of the domain's sets (R342), from its live requests. -/
def State.countLive (s : State) (d : Nat) : State :=
  let live := (s.getLnd d).live
  { s with weight := { s.weight with sets := tmap (fun i e =>
      if e.domain = d then { e with live := (live.filter fun r => r.set == i).length } else e) s.weight.sets } }

/-- The build's token, to every stand that the plan gives a counter for it (R375, phase 8). -/
def State.postBuild (s : State) (d : Nat) : State :=
  let id := ofLe (s.getCtx d).planId
  ((s.stand.filter fun e => e.2.ctx == some d).map (·.1)).foldl (fun s st => s.postTok st (Config.buildToken id st).toNat 1 false) s

/-- Phases 1, 7 and 8: outcomes taken, decisions in effect, entries and tensors written. A held build takes the outcomes
and makes every slot NULL. -/
def State.finishBuild (s : State) (d : Nat) (b : Build) : State :=
  let reps := s.homes d
  let l := s.getLnd d
  let now := (s.getCmp 19).loc
  let s := s.noteSlip d (hubUnit 0) (satAt 16 (now - (s.getCtx d).buildAt)) now
  let w0 := s.work0 d reps
  let w : Work := match b.held with
    | some _ => { live := l.live, pending := l.pending, page := s.mem.page, carried := l.carried }
    | none => b.decs.foldl (s.applyDec d b.ring reps) w0
  let toks := tokenEntries l.live b.ring (if b.held.isSome then [] else b.decs)
  let live := w.live.map Serve.take
  let placed : List Serve := match b.held with
    | some _ => live.map fun (r : Serve) => { r with slot := .none }
    | none => s.assignSlots d b.ring reps live
  let old := placed.map fun r => (r.arrival, r.fed)
  let chunk := fun (k : Nat) => ((reps.find? (·.1 == k)).map (·.2.chunk)).getD 0
  let fed := placed.map fun r => match r.slot with
    | .prefill _ => { r with fed := min r.promptLen (r.fed + chunk r.replica) }
    | _ => r
  let undo := (dedup w.wrote).map fun i => (i, tget {} s.mem.page i)
  let s := if b.held.isSome then s else s.noteBuild d w
  let ents := toks ++ sortNotices w.notices
  let s := s.updAcc d fun a => { a with tokHash := a.tokHash ^^^ s.tokenSum d toks
                                        suspectOut := a.suspectOut || l.live.any fun r => r.fresh ≠ [] && ((r.res.map (·.suspect)).getD false) }
  let s := { s with mem := { s.mem with page := w.page } }
  let s := s.updLnd d fun l =>
    { l with
      live := fed, chunks := old, carried := w.carried, entries := ents, build := none, posted := true
      pending := w.pending.map fun r => if r.arrival ≤ b.last then { r with journalled := true } else r
      held := b.held.isSome, holdCause := b.held.getD l.holdCause, heldCt := if b.held.isSome then l.heldCt.add 1 else l.heldCt
      hist := match l.hist with
        | h :: hs => { h with built := some b, undo := undo, gone := w.gone } :: hs
        | [] => [] }
  let s := s.countLive d
  let s := s.updTally d fun t => { t with nextTseq := b.tseq, nextHeld := b.held.isSome, nextIn := 0 }
  let s := s.writeTensors d b.step fed old
  let s := if b.held.isSome then s.raiseAt 0x0509 d (hubUnit 0) now 0 0 else s
  s.postBuild d

/-- What the build's tickets have recorded is owed no longer. -/
def State.noteTickets (s : State) (d : Nat) : State :=
  let mark := fun (h : Hold353) => if h.dom = d then { h with noted := true } else h
  let s : State := { s with weight := { s.weight with adapters := s.weight.adapters.filter (·.1 != d), drains := s.weight.drains.map mark } }
  let s := s.updTally d fun t => { t with epochTickets := [] }
  s.updLnd d fun l => { l with owedHolds := 0 }

/-- A held build (R387, R439): its HOLD ticket where one is free, else it is owed. -/
def State.holdBuild (s : State) (d st a cause : Nat) : State :=
  let l := s.getLnd d
  let b : Build := { step := st, ring := a, decs := [], held := some cause, tseq := 0, last := 0 }
  if s.host.up ∧ (s.getTally d).jrn.free > 0 ∧ !(s.getTally d).jrnReplay then
    let t := holdTicket (l.owedHolds + 1) st cause
    (s.putTickets d [t]).updLnd d fun l => { l with owedHolds := 0, build := some b }
  else (s.updLnd d fun l => { l with owedHolds := l.owedHolds + 1, lastHeld := st, owedCause := cause }).finishBuild d b

/-- R316, R331: what a build reads of the set table: the sets of its replicas' models and the bits of the adapters that pending
requests name. -/
def State.touchSets (s : State) (d : Nat) (reps : List (Nat × Replica)) : State :=
  let s := (dedup (reps.map (·.2.model))).foldl (fun s m =>
    ((s.currentSet d m).toList ++ (s.drainingSet d m).toList).foldl (fun s i => s.touchSet d i) s) s
  (s.getLnd d).pending.foldl (fun s r =>
    match if r.bound = 0xFFFFFFFF then none else (reps.find? (·.1 == r.replica)).bind fun p => s.currentSet d p.2.model with
    | some i => s.touchSlot d i r.bound
    | none => s) s

/-- A build that decides for itself (R375, phases 1 to 6). -/
def State.ownBuild (s : State) (d st a : Nat) : State :=
  let reps := s.homes d
  let s := s.touchSets d reps
  let l := s.getLnd d
  let (w, ds) := s.decideBuild d a reps (s.work0 d reps)
  let ts := s.buildTickets d st a reps ds w
  let own := 1 + ((tokenEntries l.live a ds ++ w.notices).map fun e => e.units.length).foldl (· + ·) 0
  match s.holdCause d reps own (ts.length + 1) with
  | some c => s.holdBuild d st a c
  | none =>
    let s := s.putTickets d (ts ++ [buildTicket (ts.length + 1) st a (l.nextArr - 1) w])
    (s.noteTickets d).updLnd d fun l =>
      { l with build := some { step := st, ring := a, decs := ds, held := none, tseq := (s.getTally d).tseq - 1, last := l.nextArr - 1 } }

/-! REPLAY (R440, R441). -/

/-- The request that an ARRIVAL ticket and the SAMPLING ticket behind it describe. -/
def replayServe (a b : List Byte) (p : Prompt) (q : Queue) : Serve :=
  { arrival := num a 16 8, ring := num a 24 8, replica := num a 1 1, queue := num a 2 2, reqId := num a 4 4, flags := num b 35 1
    topK := num b 32 2, promptLen := num a 32 4, maxNew := num a 36 4, deadline := num a 40 8, promptAddr := num b 40 8, seed := num a 48 8
    adapter := num a 56 4, grammar := num a 60 4, temp := num b 24 4, topP := num b 28 4, draft := num b 34 1, prompt := p
    model := q.model, pin := 0, journalled := true, bound := num a 56 4, d := num b 34 1 }

/-- A prompt read again in REPLAY: from device memory, or as the host read that came for its queue. -/
def State.replayPrompt (s : State) (d q addr n : Nat) : State × Prompt :=
  if n = 0 then (s, .ok [])
  else if !s.promptIn d addr n then (s, .bad)
  else if bit addr 63 then
    let (s, p) := s.unitRead d 19 (fld addr 62 0) (4 * n)
    (s, match p with | some bs => .ok (promptToks n bs) | none => .bad)
  else match s.hostRead (.prompt q) with
    | some (some bs) => (s.useRead (.prompt q), .ok (promptToks n bs))
    | _ => (s.useRead (.prompt q), .bad)

/-- What is read from the tickets of one build: decisions, step and ring of the BUILD ticket, prompt blocks that differ, sets
named by SWITCH and ADAPTER tickets that are not ready. -/
structure Replayed where
  decs : List Dec := []
  step : Nat := 0
  ring : Nat := 0
  tseq : Nat := 0
  last : Nat := 0
  bad : Bool := false
  notReady : Bool := false

/-- R441: a set of the domain with a model and generation that is READY. -/
def State.readySet (s : State) (d m gen : Nat) : Option Nat :=
  firstBelow (fun i => let e := s.getSet i; e.state == 2 && e.domain == d && e.model == m && e.gen == gen) 256

/-- One ticket taken in; `next` is the ticket behind it. -/
def State.replayTicket (d : Nat) (x : State × Replayed) (t next : List Byte) : State × Replayed :=
  let (s, r) := x
  let arr := num t 16 8
  let add := fun (y : Dec) => (s, { r with decs := r.decs ++ [y] })
  match num t 0 1 with
  | 1 =>
    let (s, p) := s.replayPrompt d (num t 2 2) (num next 40 8) (num t 32 4)
    (s, { r with decs := r.decs ++ [.arrival (replayServe t next p (s.getQueue (num t 2 2)))] })
  | 3 =>
    let ok := r.decs.any fun y => match y with
      | .arrival q => q.arrival == arr && (match q.prompt with
        | .ok ts => num (sha512 ((((ts.drop (1024 * num t 4 4)).take 1024).map (leBytes 4 ·)).flatten)) 0 32 == num t 32 32
        | .bad => false)
      | _ => false
    (s, { r with bad := r.bad || !ok })
  | 4 => (s, { r with step := arr, ring := num t 24 8, tseq := num t 8 8, last := num t 48 8 })
  | 5 => add (.accept arr (num t 4 4) (num t 32 4) (num t 36 4) (bit (num t 44 1) 0))
  | 6 => add (.defer arr (num t 4 4 == 1) true)
  | 7 => add (.reject arr (num t 4 4) (num t 32 2))
  | 8 => add (.retire arr (num t 4 4))
  | 9 => add (.cancel arr)
  | 10 => add (.draft arr (num t 32 1) (num t 33 1))
  | 11 =>
    let m := num t 4 4
    if num t 40 4 = 0 then
      match s.readySet d m (num t 36 4) with
      | some i => ({ s with weight := { s.weight with switches := s.weight.switches.filter (·.set != i) ++ [⟨d, i, 0⟩] } }, r)
      | none => (s, { r with notReady := true })
    else if num t 40 4 = 2 then
      ({ s with weight := { s.weight with drains := s.weight.drains ++ [{ dom := d, model := m, on := false, noted := true }] } }, r)
    else (s, r)
  | 12 =>
    let e := s.getSet (num t 4 4)
    (s, { r with notReady := r.notReady || !(e.domain == d && e.gen == num t 36 4 && e.loaded.contains (num t 32 4)) })
  | 15 => add (.sitout arr)
  | _ => (s, r)

/-- Tickets up to and including the next BUILD ticket. -/
def ticketsToBuild : List (List Byte) → List (List Byte)
  | [] => []
  | t :: ts => if num t 0 1 = 4 then [t] else t :: ticketsToBuild ts

/-- The decisions that have tickets of their own, for the comparison of R441. -/
def compared (ds : List Dec) : List Dec := ds.filter fun x => match x with
  | .arrival _ => false
  | .defer _ _ fresh => fresh
  | _ => true

/-- R441: a difference from the journal. -/
def State.replayMismatch (s : State) (d : Nat) : State := s.raiseFail 0x0604 d (hubUnit 0) (s.getCmp 19).loc 0 0

/-- The first `n` of the tickets read from the journal are taken, and LND's consumer index moves past them. -/
def State.takeTickets (s : State) (d : Nat) (all : List (List Byte)) (n : Nat) : State :=
  let s := s.useRead (.tickets d)
  let rest := (all.drop n).flatten
  let s := if rest = [] then s else { s with host := { s.host with reads := (.tickets d, some rest) :: s.host.reads } }
  s.updTally d fun t => { t with jrn := { t.jrn with cons := (t.jrn.cons + n) % t.jrn.size } }

/-- What this device would decide at a replayed build, with the arrivals and cancels that the tickets bring. -/
def State.ownDecisions (s : State) (d : Nat) (r : Replayed) : List Dec :=
  let reps := s.homes d
  let arrivals := r.decs.filter fun x => match x with | .arrival _ => true | _ => false
  let w0 := arrivals.foldl (s.applyDec d r.ring reps) (s.work0 d reps)
  let cancelled := r.decs.filterMap fun x => match x with | .cancel a => some a | _ => none
  let mark := fun (q : Serve) => if cancelled.contains q.arrival then { q with cancel := true } else q
  (s.decideBuild d r.ring reps { w0 with live := w0.live.map mark, pending := w0.pending.map mark }).2

/-- The replayed decisions held against the device's own, and a set that is not ready (R441). -/
def State.checkReplay (s : State) (d st : Nat) (r : Replayed) : State :=
  let s := if compared (s.ownDecisions d r) ≠ compared r.decs ∨ r.bad ∨ r.step ≠ st then s.replayMismatch d else s
  if r.notReady then
    (s.replayMismatch d).updCtx d fun c =>
      if c.halt.isSome then c else { c with halt := some { cause := 0x0604, ring := s.ring.count + 1, unit := hubUnit 0 } }
  else s

/-- A build in REPLAY: the tickets read from the journal in place of its own decisions. -/
def State.replayBuild (s : State) (d st a : Nat) : State :=
  match s.hostRead (.tickets d) with
  | some (some bs) =>
    let all := pieces 64 bs
    match all with
    | [] => s
    | t :: _ =>
      if num t 0 1 = 14 ∧ num t 16 8 < st + num t 4 4 ∧ st ≤ num t 16 8 then
        (if st = num t 16 8 then s.takeTickets d all 1 else s).finishBuild d
          { step := st, ring := a, decs := [], held := some (num t 32 1), tseq := 0, last := 0 }
      else
        let ts := ticketsToBuild all
        if (ts.getLast?.map fun t => num t 0 1) ≠ some 4 then s
        else
          let x := (ts.zip (ts.drop 1 ++ [[]])).foldl (fun x p => State.replayTicket d x p.1 p.2) (s.takeTickets d all ts.length, {})
          (x.1.checkReplay d st x.2).finishBuild d { step := st, ring := a, decs := x.2.decs, held := none, tseq := x.2.tseq, last := x.2.last }
  | _ => s

/-- Whether the build for the coming step may issue now (R375): last ring of a step of a running plan that has replicas
here, BUILD_AT reached, the Grader's completion posted, and no build yet. -/
def State.buildReady (s : State) (d : Nat) : Bool :=
  let c := s.getCtx d
  let l := s.getLnd d
  s.ctxRuns d && c.ringInStep + 1 == c.ringsPerStep && decide (c.buildAt ≤ (s.getCmp 19).loc) && (s.getCmp 19).keptNow &&
  !(s.homes d).isEmpty && l.build.isNone && !l.posted && ((s.getGr d).done || !(c.schedule.any fun e => e.kind == 2))

/-- BUILD (R375, R393, R440). -/
def build (d : Nat) (s : State) : State :=
  if !s.buildReady d then s
  else
    let c := s.getCtx d
    let l := s.getLnd d
    let st := c.step + 1
    let a := s.ring.count + 1
    match l.redo.find? (·.step == st) with
    | some b => (s.updLnd d fun l => { l with redo := l.redo.filter (·.step != st) }).finishBuild d { b with ring := a }
    | none => if (s.getTally d).jrnReplay then s.replayBuild d st a else s.ownBuild d st a

def execBuild (d : Nat) (s : State) : Host.Outcome State Fault Refusal := .next (build d s)

/-- TICKET_READBACK_COMPLETE (R376). -/
def ticketReadback (d : Nat) (s : State) : State :=
  match (s.getLnd d).build with
  | some b => if s.ctxRuns d then s.finishBuild d b else s
  | none => s

def execTicketReadbackComplete (d : Nat) (s : State) : Host.Outcome State Fault Refusal := .next (ticketReadback d s)

/-- R502: the read-back of R376 fails: the build holds, with HOLD_CAUSE 2. -/
def State.readbackFails (s : State) (d : Nat) : State :=
  match (s.getLnd d).build with
  | none => s
  | some b =>
    let s := if b.held.isSome then s else s.updLnd d fun l => { l with owedHolds := l.owedHolds + 1, lastHeld := b.step, owedCause := 2 }
    s.finishBuild d { b with decs := [], held := some 2, tseq := 0, last := 0 }

/-! Step boundaries and repeats (R393). -/

/-- At the first root edge of a step: the record of the step that ended is due, and what a repeat would need is kept. -/
def State.landingBoundary (s : State) (d step : Nat) : State :=
  let t := s.getTally d
  s.updLnd d fun l =>
    { l with posted := false, build := none, entries := [], stepHeld := t.nextHeld
             hist := { step := step, live := l.live, chunks := l.chunks, tseq := t.nextTseq, inHash := t.nextIn, held := t.nextHeld } :: l.hist }

/-- The record of a step (R390, R393): due once its tally closes. A held step has none. -/
def State.recordStep (s : State) (d step first : Nat) (aborted : Bool) : State :=
  let l := s.getLnd d
  if (s.homes d).isEmpty ∨ l.stepHeld then s
  else s.updLnd d fun l =>
    { l with recs := l.recs ++ [{ step := step, ring := first, aborted := aborted, again := (s.getTally d).acc.repeatFlag
                                  entries := if aborted then [] else l.entries }] }

/-- A request as it stood before its admission. -/
def Serve.unadmit (r : Serve) : Serve :=
  { r with gen := 0, set := 0, bestEffort := false, pages := [], slot := .none, sit := false, fed := 0, got := 0, lastTok := 0
           d := r.draft, z := 0, dOwed := false, gstate := 0, drafts := [], res := none }

def insArrival (r : Serve) : List Serve → List Serve
  | [] => [r]
  | x :: xs => if r.arrival < x.arrival then r :: x :: xs else if r.arrival = x.arrival then x :: xs else x :: insArrival r xs

/-- R54, R393: the Landing as step `r` began, with the builds that followed to be applied again. The index tensors of the step are still
in the Deck unless a later build has written their buffer: then they are written again. -/
def State.rewind (s : State) (d r : Nat) : State :=
  let l := s.getLnd d
  match l.hist.find? (·.step == r) with
  | none => s.updLnd d fun l => { l with live := l.live.map fun q => { q with drafts := [], res := none }, posted := false, build := none, entries := []
                                         hist := [] }
  | some h =>
    let newer := l.hist.filter fun x => decide (x.step ≥ r)
    let page := newer.foldl (fun pg x => x.undo.foldl (fun pg p => tput pg p.1 p.2) pg) s.mem.page
    let others := l.pending ++ (newer.map (·.gone)).flatten ++ (((newer.map (·.live)).flatten ++ l.live).map Serve.unadmit)
    let pend := (others.filter fun q => !(h.live.any fun x => x.arrival == q.arrival)).foldl (fun acc q => insArrival q acc) []
    let s := { s with mem := { s.mem with page := page } }
    let s := s.updLnd d fun l =>
      { l with live := h.live.map fun q => { q with drafts := [], res := none }, pending := pend, posted := false, build := none, entries := []
               redo := newer.filterMap (·.built), hist := l.hist.filter fun x => decide (x.step < r) }
    let s := if newer.any fun x => x.built.any fun b => decide (b.step > r) && b.step % 2 == r % 2 then s.writeTensors d r h.live h.chunks else s
    (s.updTally d fun t => { t with nextTseq := h.tseq, nextIn := h.inHash, nextHeld := h.held }).countLive d

/-- UNLOAD ends every request and releases every page, and writes nothing further (R393). -/
def State.unloadLanding (s : State) (d : Nat) : State :=
  let l := s.getLnd d
  let idx := (l.live.map fun r => r.pages.map (·.2)).flatten ++ l.carried
  let page := idx.foldl (fun pg i => tput pg i { tget {} pg i with valid := false }) s.mem.page
  let s := { s with mem := { s.mem with page := page } }
  (s.updLnd d fun l => { l with live := [], pending := [], staged := [], carried := [], build := none, posted := false, entries := []
                                recs := [], chunks := [], hist := [], redo := [] }).countLive d

/-! Step records (R389 to R394). -/

/-- The header of a record (R391). -/
def headerOf (d : Nat) (r : StepRec) (seq : Nat) (failed : Bool) (cause : Nat) : List Byte :=
  layout 64 [(0, 1, 1), (1, 1, if r.aborted then 2 else if failed then 1 else 0), (2, 2, cause), (4, 4, r.units), (8, 8, r.step), (16, 8, r.ring),
    (24, 8, seq), (32, 4, r.entries.length), (36, 1, flag r.again 0), (37, 1, d)]

/-- STEP_FAILED set in the entry units of a failed step (R392). -/
def failUnit (u : List Byte) : List Byte := if num u 0 1 = 4 then u else u.set 2 (BitVec.ofNat 8 (num u 2 1 ||| 128))

/-- Units written to the output ring one after another. -/
def State.putUnits (s : State) (d : Nat) : List (List Byte) → State
  | [] => s
  | u :: us =>
    let l := s.getLnd d
    State.putUnits ((s.hostWrite d (l.out.addr 64 l.out.prod) u).updLnd d fun l => { l with out := l.out.push }) d us

/-- STEP_RECORD (R394, R435): the oldest record, once its tally is in the tally ring. A twin that is no leader writes none
(R443). -/
def stepRecord (d : Nat) (s : State) : State :=
  let l := s.getLnd d
  match l.recs with
  | [] => s
  | r :: rest =>
    match r.closed with
    | none => s
    | some (seq, failed, cause) =>
      if (s.getTally d).twinEn && !(s.getTally d).twinLeader then s.updLnd d fun l => { l with recs := rest }
      else
      let units := headerOf d r seq failed cause :: (r.entries.map fun e => if failed then e.units.map failUnit else e.units).flatten
      let waits := (s.getTally d).backlog.any fun u => unitKind u == 0 && decide (unitSeq u ≤ seq)
      if waits || !s.host.up || decide (l.out.free < units.length) then s
      else
        let s := s.putUnits d units
        let l := s.getLnd d
        let s := if l.wb = 0 then s else s.hostWrite d l.wb (leBytes 4 l.out.prod)
        let s := if l.msi then s.sendMsi d l.vector else s
        s.updLnd d fun l => { l with recs := rest, records := l.records.add 1 }

def execStepRecord (d : Nat) (s : State) : Host.Outcome State Fault Refusal := .next (stepRecord d s)

/-! Registers with rows of their own (R395). -/

/-- A write to a register that R395 opens only in NONE or LOADED. -/
def State.lndCfg (s : State) (d off old new : Nat) (f : LndLd → LndLd) : State :=
  if !s.cfgOpen d then s else s.change d d (0x400000 + off) 0 old new fun s => s.updLnd d f

def lndOutBase (d v : Nat) (s : State) : State :=
  let l := s.getLnd d
  let b := fld v 63 6 * 64
  if !s.placed d b 64 l.out.size then s.hostDrop d 1 0x400000 else s.lndCfg d 0x00 l.out.base b fun l => { l with out := l.out.setBase b }

def LndLd.cfgWord (l : LndLd) : Nat := flag l.msi 63 + at_ l.vector 48 + l.out.size

def lndOutCfg (d v : Nat) (s : State) : State :=
  let l := s.getLnd d
  let n := fld v 24 0
  if !sizeOk 64 n then s
  else if !s.placed d l.out.base 64 n then s.hostDrop d 1 0x400008
  else s.lndCfg d 0x08 l.cfgWord (flag (bit v 63) 63 + at_ (fld v 58 48) 48 + n) fun l =>
    { l with out := l.out.setSize n, msi := bit v 63, vector := fld v 58 48 }

def lndOutIdx (d v : Nat) (s : State) : State := s.updLnd d fun l => { l with out := l.out.setCons (fld v 63 32) }

def lndOutWb (d v : Nat) (s : State) : State :=
  let a := fld v 63 3 * 8
  if a ≠ 0 ∧ !(s.getDom d).hosts a 4 then s.hostDrop d 1 0x400018 else s.lndCfg d 0x18 (s.getLnd d).wb a fun l => { l with wb := a }

def execLndOutBase (d v : Nat) (s : State) : Host.Outcome State Fault Refusal := .next (s.asLd d 0x400000 (lndOutBase d v))
def execLndOutCfg (d v : Nat) (s : State) : Host.Outcome State Fault Refusal := .next (s.asLd d 0x400008 (lndOutCfg d v))
def execLndOutIdx (d v : Nat) (s : State) : Host.Outcome State Fault Refusal := .next (s.asLd d 0x400010 (lndOutIdx d v))
def execLndOutWb (d v : Nat) (s : State) : Host.Outcome State Fault Refusal := .next (s.asLd d 0x400018 (lndOutWb d v))

end Sys2Proof.Machine
end

