-- ==== Sys2Proof/Machine/Aelel.lean ====
section
/-! DEFINITION. The Aelel links and ring time (chapter 09, R443 to R445, R518 to R524). -/

namespace Sys2Proof.Machine

def State.updAelSt (s : State) (f : AelSt → AelSt) : State := { s with ael := f s.ael }

/-- Every stand of a context changed. -/
def State.updStands (s : State) (d : Nat) (f : Nat → Stand → Stand) : State :=
  { s with stand := tmap (fun st t => if t.ctx = some d then f st t else t) s.stand }

/-- What a stand has entered into its Deck and what is not yet visible there: a write that has entered its port lands (R124), whatever
becomes of the plan. -/
def Stand.landings (t : Stand) : List (Nat × Later) := t.later.filter fun e => match e.2 with | .land .. => true | _ => false

/-- A stand stops its refill section. -/
def Stand.endRefill (t : Stand) : Stand :=
  if t.refillOn then { t with refillOn := false, jobs := [], ops := [], later := t.landings } else t

/-- A context returns to LOADED, its tag no longer armed (R36, R60, R61). -/
def State.toLoaded (s : State) (d : Nat) : State :=
  (s.updCtx d fun c => { c with state := .loaded, goHeld := false, disarmAtHalt := false }).updStands d fun _ t => t.endRefill

/-! Links. -/

/-- An event about a port: to the context of the granted domain, or to the device where the port is granted to none. -/
def State.raisePort (s : State) (code p i2 : Nat) : State :=
  match s.aelDom p with
  | some d => s.raiseAt code d noUnit s.ring.cycle p i2
  | none => s.raiseAll code noUnit s.ring.cycle p i2

/-- AEL_ERR0 (R284): KIND 0 codeword, 1 FCHK, 2 resend exhausted, 3 LINK_DOWN, 4 control block. -/
def State.noteAel (s : State) (p kind lseq ckt : Nat) : State :=
  s.updAel p fun a => { a with err := a.err.latch (at_ kind 59 + at_ lseq 32 + at_ ckt 20 + s.ring.cycle) s.ring.count 0 }

/-- R279: what drives the root clock without the reference: the first usable port of the recovery order, by default the
parent, or the local oscillator, which halts every running plan at the end of its step. -/
def State.chooseClock (s : State) : State :=
  let order := s.ael.recovery ++ (match s.ael.parent with | some p => [p] | none => [])
  match order.find? fun p => (s.getAel p).state == 2 with
  | some p => s.updAelSt fun a => { a with refDrives := false, recov := some p, freeRun := false }
  | none =>
    let s := s.updAelSt fun a => { a with refDrives := false, recov := none, freeRun := true }
    { s with ctx := tmap (fun _ c => if c.state == .running || c.state == .stopping then { c with haltAtStepEnd := if c.haltAtStepEnd = 0 then 0x0103 else c.haltAtStepEnd } else c) s.ctx }

/-- A port leaves service (R254). -/
def State.linkDown (s : State) (p : Nat) : State :=
  let s := (s.noteAel p 3 0 0).raisePort 0x0303 p 0
  let s := s.updAel p fun a => { a with state := 0, lanes := 0, half := none, pend := [], ctl := [], mark := none, fresh := false, downAsked := false }
  let s := if s.ael.parent = some p then s.updAelSt fun a => { a with parent := none } else s
  if s.ael.recov = some p then s.chooseClock else s

/-- A command on a port by LD `ld`, or by the management port where none is named (R254, R284). -/
def State.portCmd (s : State) (p : Nat) (ld : Option Nat) (f : State → State) : State :=
  match ld with
  | none => if p < 12 then f s else s
  | some d => if p < 12 ∧ s.aelDom p = some d ∧ s.ready then f s else s.hostDrop d 0 (0x700060 + 0x10000 * p)

/-- A context is ARMED, RUNNING or STOPPING. -/
def PlanCtx.engaged (c : PlanCtx) : Bool := c.state == .armed || c.state == .running || c.state == .stopping

/-- RETRAIN (R254). A disabled port has no mode to train in. -/
def retrain (p : Nat) (ld : Option Nat) (s : State) : State :=
  s.portCmd p ld fun s =>
    let busy := match s.aelDom p with | some d => (s.getCtx d).engaged | none => false
    if busy || (s.getAel p).mode == 0 then s else s.updAel p fun a => { a with state := 1, lanes := 0, half := none, pend := [], ctl := [] }

def execRetrain (p : Nat) (ld : Option Nat) (s : State) : Host.Outcome State Fault Refusal := .next (retrain p ld s)

/-- DOWN: at the next ring boundary (R254). -/
def execDown (p : Nat) (ld : Option Nat) (s : State) : Host.Outcome State Fault Refusal :=
  .next (s.portCmd p ld fun s => s.updAel p fun a => { a with downAsked := true })

/-- CONTROL_BLOCK_CHECK_FAIL (R258, R259): discarded, recorded and counted. -/
def execControlBlockCheckFail (p : Nat) (s : State) : Host.Outcome State Fault Refusal :=
  .next (if (s.getAel p).state = 2 then (s.noteAel p 4 0 0).updAel p fun a => { a with ctlFail := a.ctlFail.add 1 } else s)

/-- A control block that waits to be sent on a port. -/
def State.queueCtl (s : State) (p type : Nat) (fields : List Nat) (copies : Nat) : State :=
  if (s.getAel p).state = 2 then s.updAel p fun a => { a with ctl := a.ctl ++ [{ type := type, fields := fields, left := copies }] } else s

/-- R259: the order in which waiting control blocks are taken. -/
def ctlRank : Nat → Nat
  | 5 => 0 | 4 => 1 | 7 => 2 | 3 => 3 | 6 => 4 | 2 => 5 | _ => 6

/-- The waiting block that a slot takes: one whose copies have begun, which are consecutive, else the oldest of the lowest rank. -/
def nextCtl (l : List CtlItem) : Option CtlItem :=
  match l.find? (·.begun) with
  | some x => some x
  | none => l.foldl (fun b x => match b with | some y => if ctlRank x.type < ctlRank y.type then some x else b | none => some x) none

/-- The control block of the link slot that begins now on a port. A PROBE carries the time at which it is sent. -/
def State.sendBlock (s : State) (p : Nat) : State :=
  let a := s.getAel p
  if a.state ≠ 2 ∨ s.ring.cycle % a.slotWidth ≠ 0 ∨ s.ring.cycle = 0 then s
  else match nextCtl a.ctl with
    | none => s
    | some x =>
      let fields := if x.type = 2 then [s.ring.count % 65536, s.ring.cycle, 0] else x.fields
      (s.emit (.control p (s.ring.cycle / a.slotWidth) (ctlBlock x.type fields))).updAel p fun a =>
        { a with ctl := if x.left ≤ 1 then dropFirst (· == x) a.ctl
                        else a.ctl.map fun y => if y = x then { x with left := x.left - 1, begun := true } else y }

def State.sendBlocks (s : State) : State :=
  (s.ael.ports.filter fun e => e.2.ctl != []).foldl (fun s e => s.sendBlock e.1) s

/-! Frames (R262 to R269). -/

/-- A link resend slot is left on the port in this ring (R265, R267). -/
def State.linkSlotLeft (s : State) (p : Nat) : Bool :=
  let t := s.locNow .bridge
  (List.range (min 4096 (s.L - t))).any fun i => (s.conns .bridge (t + i)).any fun c => c.kind == 3 && c.out == 32 + p && c.ckt == 0

/-- The other frame of a flit (R264). -/
def Frame.pairLseq (f : Frame) : Nat := if f.half = 0 then (f.lseq + 1) % 65536 else (f.lseq + 65535) % 65536

/-- R267: the sender gives up. -/
def State.linkExhausted (s : State) (p lseq : Nat) : State :=
  let s := s.noteAel p 2 lseq 0
  match s.aelDom p with
  | some d => (s.raiseAt 0x0301 d noUnit s.ring.cycle p lseq).updCtx d fun c => { c with resendOut := c.resendOut.or (some noUnit) }
  | none => s.raiseAll 0x0301 noUnit s.ring.cycle p lseq

/-- RESEND_REQ (R265, R267). -/
def resendReq (p first count : Nat) (s : State) : State :=
  let a := s.getAel p
  if a.state ≠ 2 then s
  else
    let named := (List.range count).map fun i => (first + i) % 65536
    match named.find? fun n => !(a.replay.any fun f => f.lseq == n) with
    | some n => s.linkExhausted p n
    | none =>
      if !s.linkSlotLeft p then s.linkExhausted p first
      else
        let pairs := (a.replay.filter fun f => named.contains f.lseq && f.ftype != 2).map Frame.pairLseq
        let fs := a.replay.filter fun f => named.contains f.lseq || pairs.contains f.lseq
        s.updAel p fun a => { a with pend := a.pend ++ fs }

def execResendReq (p first count : Nat) (s : State) : Host.Outcome State Fault Refusal := .next (resendReq p first count s)

/-- LINK_RESEND: the frames of one flit, or one packet frame, in the link resend slot of the present entry (R265). -/
def linkResend (p : Nat) (s : State) : State :=
  let a := s.getAel p
  let slot := (s.conns .bridge (s.locNow .bridge)).any fun c => c.kind == 3 && c.out == 32 + p && c.ckt == 0
  match a.pend with
  | [] => s
  | f :: rest =>
    if !slot || a.state ≠ 2 then s
    else
      let two := f.ftype ≠ 2 && (match rest with | g :: _ => g.ckt == f.ckt && g.seq == f.seq && g.half == 1 | [] => false)
      let now := if two then f :: rest.take 1 else [f]
      let s := s.updAel p fun a => { a with pend := if two then rest.drop 1 else rest, resent := a.resent.add now.length }
      let s := (enum now).foldl (fun s g => s.sendFrame p (s.slotAt p + g.1) { g.2 with resent := true }) s
      match s.aelDom p with
      | some d => s.updAcc d fun x => { x with resends := satAt 32 (x.resends + 1) }
      | none => s

def execLinkResend (p : Nat) (s : State) : Host.Outcome State Fault Refusal := .next (linkResend p s)

/-- R269: the domain that a frame of a port is accepted for; none where it is dropped. A frame of CONTROL packets needs its
tag held in any state but NONE. -/
def State.frameDom (s : State) (p : Nat) (f : Frame) : Option Nat :=
  let isCtl := f.ftype == 2 && f.pkts.all fun q => match q.payload with | .control .. => true | _ => false
  match s.aelDom p with
  | none => if f.tag = 0 ∧ isCtl then some 0 else none
  | some d =>
    let c := s.getCtx d
    if f.tag = 0 then (if isCtl then some d else none)
    else if isCtl then (if c.state != .none && c.jobTag == f.tag then some d else none)
    else if c.jobTag == f.tag && (c.state == .running || c.state == .stopping) then some d else none

/-- R269: a frame dropped; the event once for a ring. -/
def State.tagDrop (s : State) (p tag : Nat) : State :=
  let first := !(s.getAel p).dropped
  let s := s.updAel p fun a => { a with tagDrop := a.tagDrop.add 1, dropped := true }
  if first then s.raisePort 0x0302 p tag else s

/-- The entry in which what a frame brings is released to the bridge: e + 120, or e + 160 in compatibility mode, where the flit's first
frame started on the wire at e + 24 (R260, R261, R281). `slot`: the link slot in which this frame started. -/
def State.releaseEntry (s : State) (p slot half : Nat) : Nat :=
  let a := s.getAel p
  let w := a.slotWidth
  (w * (slot + s.L / w - half) + (if a.mode = 2 then 136 else 96)) % s.L

/-- Root cycles until an entry of the receiver's own ring time; 0 where it is past: what comes late is released at once (R261). -/
def State.untilEntry (s : State) (e : Nat) : Nat :=
  let k := (e + s.L - s.ring.cycle) % s.L
  if 2 * k ≤ s.L then k else 0

/-- A flit that has come through a port waits in its deskew buffer, complete or damaged (R261, R263). -/
def State.putFlit (s : State) (p d slot half : Nat) (f : Flit) : State :=
  let e := s.releaseEntry p slot half
  let f := { f with loc := .bridge, inPort := 32 + p, ready := s.time + s.untilEntry e, due := e, fifo := true, srcEnd := .aelel p, dom := d }
  let f := { f with crc := f.check }
  let s := s.updAel p fun a => { a with half := none, cktSeq := tput a.cktSeq f.ckt (if f.last then 0 else (f.seq + 1) % 65536) }
  { s with net := { s.net with flits := s.net.flits ++ [f] } }

/-- The flit of its two frames; `bad` where a frame was lost or travels as VOID. -/
def flitOf (a b : Frame) (bad : Bool) : Flit :=
  { loc := .bridge, inPort := 0, ready := 0, due := 0, ckt := b.ckt, seq := b.seq, last := b.last, resent := b.resent, suspect := b.suspect
    doff := b.doff, be := a.be % 2 ^ 32 + at_ (b.be % 2 ^ 32) 32, dtok := b.dtok, payload := padTo 256 a.payload ++ padTo 256 b.payload
    dstDev := b.dstDev, dstStand := b.dstStand, bad := bad }

/-- A circuit frame taken in: half 0 waits for half 1; a half that is missing makes the flit incomplete. -/
def State.takeHalf (s : State) (p d slot : Nat) (f : Frame) : State :=
  if f.half = 0 then s.updAel p fun a => { a with half := some f }
  else match (s.getAel p).half with
    | some g => s.putFlit p d slot 1 (flitOf g f (g.ftype == 3 || f.ftype == 3 || g.ckt != f.ckt || (g.seq != f.seq && g.ftype != 3)))
    | none => s.putFlit p d slot 1 (flitOf f f true)

/-- R263: one lost frame of a circuit: what stands for half 0 waits with the SEQ that follows the circuit's last flit; with half 1 the
flit is incomplete. -/
def State.lostHalf (s : State) (p d slot : Nat) (f : Frame) : State :=
  let next := tget 0 (s.getAel p).cktSeq f.ckt
  if f.half = 0 then s.updAel p fun a => { a with half := some { f with ftype := 3, seq := next, last := false } }
  else
    let g := ((s.getAel p).half).getD { f with half := 0, seq := next, last := false }
    s.putFlit p d slot 1 (flitOf g { g with half := 1 } true)

/-- The circuit that the plan has in a link slot: half 0 of a flit that the bridge takes from the port in its entry. -/
def State.slotCkt (s : State) (p slot : Nat) : Option Nat :=
  ((s.conns .bridge (s.releaseEntry p slot 0)).find? fun c => c.inp == 32 + p && (c.kind == 1 || c.kind == 3)).map (·.ckt)

/-- R263: lost frames from a slot on. The first is `f`; of the others the plan's slots say what they carried. -/
def State.lostFrames (p d : Nat) (f : Frame) : Nat → Nat → State → State
  | _, 0, s => s
  | slot, n + 1, s =>
    let s := if f.ftype = 1 ∨ f.ftype = 3 then s.lostHalf p d slot f else s
    let next := (slot + 1) % (s.L / (s.getAel p).slotWidth)
    let g : Frame := match (s.getAel p).half with
      | some h => { h with half := 1, ftype := 3 }
      | none => match s.slotCkt p next with
        | some c => { tag := f.tag, ftype := 3, half := 0, ckt := c }
        | none => {}
    State.lostFrames p d g next n s

/-- R264: RESEND_REQ blocks for `n` frames from an LSEQ on, at most 64 in one (R258). -/
def State.askResend (s : State) (p lseq n : Nat) : State :=
  (List.range (cdiv n 64)).foldl (fun s i => s.queueCtl p 5 [(lseq + 64 * i) % 65536, min 64 (n - 64 * i)] 2) s

/-- Packets of an accepted frame at the bridge (R236). -/
def State.putPackets (s : State) (p d slot : Nat) (f : Frame) : State :=
  let wait := s.untilEntry (s.releaseEntry p slot f.half)
  { s with net := { s.net with pkts := s.net.pkts ++ f.pkts.map fun q =>
      { q with loc := .bridge, inPort := 32 + p, ready := s.time + wait, dom := d, op := none } } }

/-- R266: a frame that comes later than the last accepted, or is marked RESENT. -/
def AelPort.later (a : AelPort) (f : Frame) : Bool :=
  f.resent || match a.lseqRx with
    | none => true
    | some x => decide (0 < (f.lseq + 65536 - x) % 65536 ∧ (f.lseq + 65536 - x) % 65536 < 32768)

/-- R264: frames lost: counted, recorded, and asked for again; a circuit's flits are incomplete. `fec`: their codewords could not be
corrected, else the frame failed FCHK. -/
def State.frameLost (s : State) (p slot : Nat) (f : Frame) (n : Nat) (fec : Bool) : State :=
  let s := ((s.noteAel p (if fec then 0 else 1) f.lseq f.ckt).updAel p fun a => { a with fecUncorr := a.fecUncorr.add n }).askResend p f.lseq n
  match s.frameDom p f with
  | some d => State.lostFrames p d f slot n s
  | none => s

/-- A frame that came whole (R266, R269). -/
def State.takeFrame (s : State) (p slot : Nat) (f : Frame) : State :=
  if f.ftype = 0 ∨ f.ftype > 3 then s
  else if !(s.getAel p).later f then s
  else
    let s := s.updAel p fun a => { a with framesRx := a.framesRx.add 1, lseqRx := if a.later { f with resent := false } then some f.lseq else a.lseqRx }
    match s.frameDom p f with
    | none => s.tagDrop p f.tag
    | some d => if f.ftype = 2 then s.putPackets p d slot f else s.takeHalf p d slot f

/-- FRAME_RECEIVE (R254, R264, R266, R269): the frame of link slot `slot` decoded on port `p`, with `corr` codewords corrected and
`words` uncorrectable; `lost` frames from this one on are lost with them. -/
def frameReceive (p slot : Nat) (f : Frame) (lost corr words : Nat) (s : State) : State :=
  if (s.getAel p).state ≠ 2 then s
  else
    let s := s.updAel p fun a => { a with fecCorr := a.fecCorr.add corr, badWords := a.badWords + words }
    let s := if lost > 0 then s.frameLost p slot f lost true
      else if f.ftype ≠ 0 ∧ f.fchk ≠ f.check then s.frameLost p slot f 1 false
      else s.takeFrame p slot f
    if (s.getAel p).badWords > 16 then s.linkDown p else s

def execFrameReceive (p slot : Nat) (f : Frame) (lost corr words : Nat) (s : State) : Host.Outcome State Fault Refusal :=
  .next (frameReceive p slot f lost corr words s)

/-! Ring lock (R277). -/

/-- R478: READY, with the GENESIS tally of every context. -/
def State.becomeReady (s : State) : State :=
  if s.sec.stage = 9 then
    let (seed, s) := s.takeFree
    ({ s with sec := { s.sec with stage := 10, bootMs := (Config.bootMs seed).toNat } }).genesisAll 16
  else s

/-- R478: stage 8 ends once no port trains; a device that holds lock is then READY. -/
def State.linksDone (s : State) : State :=
  if s.sec.stage = 8 ∧ !(s.ael.ports.any fun p => p.2.state == 1) then
    let s : State := { s with sec := { s.sec with stage := 9 } }
    if s.ring.locked then s.becomeReady else s
  else s

/-- LANE_LOCK_LOSS (R254). -/
def execLaneLockLoss (p : Nat) (s : State) : Host.Outcome State Fault Refusal :=
  .next (if (s.getAel p).state = 0 then s else (s.linkDown p).linksDone)

/-- LINK_TRAINED: training ends (R254, R261): `ok` that every lane locked, `flight` the measured flight in 1/128 cycle. -/
def linkTrained (p flight : Nat) (ok : Bool) (s : State) : State :=
  if (s.getAel p).state ≠ 1 then s
  else if !ok || decide (flight > 3840) then (s.linkDown p).linksDone
  else (s.updAel p fun a => { a with state := 2, lanes := 0xFF, rtt := 2 * flight, flight := flight, lseqRx := none }).linksDone

def execLinkTrained (p flight : Nat) (ok : Bool) (s : State) : Host.Outcome State Fault Refusal := .next (linkTrained p flight ok s)

/-- RING_LOCKED (R277). -/
def State.lock (s : State) : State :=
  let s := { s with ring := { s.ring with locked := true, everLocked := true } }
  (s.raiseAll 0x0108 noUnit s.ring.cycle 0 0).becomeReady

/-- RING_UNLOCKED (R277): running plans halt at the next ring boundary, armed contexts return to LOADED. -/
def State.unlock (s : State) : State :=
  let s := { s with ring := { s.ring with locked := false } }
  let s := (s.raiseAll 0x0106 noUnit s.ring.cycle 0 0).updAelSt fun a => { a with inTol := 0 }
  (List.range 16).foldl (fun s d =>
    let c := s.getCtx d
    if c.state == .running || c.state == .stopping then s.askHalt d 0x0106 (s.ring.count + 1) noUnit
    else if c.state == .armed then s.toLoaded d
    else s) s

/-- One more ring of own time within tolerance; after 256 the device is locked (R277, R521). -/
def State.goodRing (s : State) : State :=
  let s := s.updAelSt fun a => { a with inTol := a.inTol + 1 }
  if s.ael.inTol ≥ 256 ∧ !s.ring.locked then s.lock else s

/-- A port whose mark may be taken for ring time (R522). -/
def State.acceptable (s : State) (p : Nat) : Bool :=
  let a := s.getAel p
  a.state == 2 && match a.mark with
    | some m => m.gm == s.ael.gm && m.locked && decide (m.hops ≤ 255)
    | none => false

/-- R275: the acceptable port of lowest HOPS, then lowest number. -/
def State.bestParent (s : State) : Option Nat :=
  ((List.range 12).filter s.acceptable).foldl (fun best p =>
    match best with
    | none => some p
    | some q => if ((s.getAel p).mark.map (·.hops)).getD 511 < ((s.getAel q).mark.map (·.hops)).getD 511 then some p else some q) none

/-- The phase error of the parent's estimate judged (R277), in 1/128 cycle: 80 is 0.5 ns, 480 is 3 ns, 1,024 is 8 cycles. -/
def State.judgePhase (s : State) (err : Int) : State :=
  let s := s.updAelSt fun a => { a with phase := err }
  let mag := err.natAbs
  if s.ring.locked then
    if mag > 480 then s.unlock else s.updAelSt fun a => { a with inTol := if mag ≤ 80 then a.inTol + 1 else 0 }
  else if s.ring.everLocked && s.ael.lost then s
  else if s.ring.everLocked && decide (mag > 1024) then
    (s.raiseAll 0x0106 noUnit s.ring.cycle 0 0).updAelSt fun a => { a with lost := true, inTol := 0 }
  else if mag ≤ 80 then s.goodRing
  else s.updAelSt fun a => { a with inTol := 0 }

/-- RING_MARK (R275 to R277, R522): `arr` is its arrival in 1/128 cycle after the boundary of the ring that runs here. -/
def ringMark (p ring gm hops : Nat) (locked : Bool) (arr : Int) (s : State) : State :=
  let a := s.getAel p
  if a.state ≠ 2 then s
  else
    let err : Int := arr - (a.rtt / 2 : Nat) - 54 * 128 - ((ring : Int) - s.ring.count) * (s.L * 128 : Nat)
    let s := s.updAel p fun a => { a with mark := some { ring := ring, gm := gm, hops := hops, locked := locked, err := err }, fresh := true }
    if s.ael.isGm then s
    else
      let best := s.bestParent
      let s := s.updAelSt fun x => { x with parent := best, hops := match best with
        | some q => ((s.getAel q).mark.map (·.hops)).getD 510 + 1
        | none => 511 }
      if best ≠ some p then s
      else if !s.ael.seeded then
        if s.ael.acqN < 128 then s.updAelSt fun x => { x with acqN := x.acqN + 1, acqSum := x.acqSum + err, acqRing := ring } else s
      else s.judgePhase err

def execRingMark (p ring gm hops : Nat) (locked : Bool) (arr : Int) (s : State) : Host.Outcome State Fault Refusal :=
  .next (ringMark p ring gm hops locked arr s)

/-- PROBE (R276): answered with an ECHO of its time and the turnaround, both in 1/128 cycle. -/
def execProbe (p time turn : Nat) (s : State) : Host.Outcome State Fault Refusal :=
  .next (s.queueCtl p 3 [time, turn] 1)

/-- ECHO (R261, R276): the round trip less the turnaround; a flight over 30 cycles takes the link down. -/
def echo (p sent arr turn : Nat) (s : State) : State :=
  if (s.getAel p).state = 0 then s
  else
    let rtt := arr - sent - turn
    let s := s.updAel p fun a => { a with rtt := rtt, flight := rtt / 2 }
    if rtt / 2 > 3840 then s.linkDown p else s

def execEcho (p sent arr turn : Nat) (s : State) : Host.Outcome State Fault Refusal := .next (echo p sent arr turn s)

/-! Discovery (R518 to R520). -/

/-- The physical ID that a sender's implies for the receiver on port `p`: one place from sender to receiver. -/
def stepId (nx ny p phys : Nat) : Nat :=
  let x := phys % 256
  let y := phys / 256 % 256
  match p / 3 with
  | 0 => (x + nx) % (nx + 1) + 256 * y
  | 1 => (x + 1) % (nx + 1) + 256 * y
  | 2 => x + 256 * ((y + ny) % (ny + 1))
  | _ => x + 256 * ((y + 1) % (ny + 1))

/-- The port in the opposite direction on the same rail (R252). -/
def oppositePort (p : Nat) : Nat := 3 * (if p / 3 % 2 = 0 then p / 3 + 1 else p / 3 - 1) + p % 3

/-- DISCOVER (R520). -/
def discover (p : Nat) (b : Discover) (s : State) : State :=
  let a := s.getAel p
  if a.state ≠ 2 then s
  else
    let ok := b.nx == s.ael.nx && b.ny == s.ael.ny && b.gm == s.ael.gm && b.lenLog2 == s.ring.lenLog2 && b.mode == a.mode && b.port == oppositePort p
    let id := stepId s.ael.nx s.ael.ny p b.phys
    if !ok || (b.known && s.ael.known && id != s.ael.id) then (s.raiseAll 0x0109 noUnit s.ring.cycle p 0).linkDown p
    else
      let s := s.updAel p fun a => { a with peer := if b.known then b.phys else a.peer, peerPort := b.port }
      if b.known && !s.ael.known then s.updAelSt fun x => { x with id := id, known := true } else s

def execDiscover (p : Nat) (b : Discover) (s : State) : Host.Outcome State Fault Refusal := .next (discover p b s)

/-! Twins (R443 to R445). -/

/-- TWIN: the peer's digest of a ring, for the context twinned on the port. -/
def twin (p ring dig : Nat) (s : State) : State :=
  match s.aelDom p with
  | some d =>
    let t := s.getTally d
    if (s.getAel p).state = 2 ∧ t.twinEn ∧ t.twinPort = p then s.updTally d fun t => { t with twinPeer := some (ring, dig) } else s
  | none => s

def execTwin (p ring dig : Nat) (s : State) : Host.Outcome State Fault Refusal := .next (twin p ring dig s)

/-- A tally kept back by twin mode closes (R429). -/
def State.closeWaiting (s : State) (d : Nat) : State :=
  match (s.getTally d).waiting with
  | some w => (s.updTally d fun t => { t with waiting := none }).chainStep d w.acc w.step w.ringLast
  | none => s

/-- R445: the step that contains the compared ring FAILED with TWIN_DIVERGE. -/
def StepAcc.diverge (a : StepAcc) : StepAcc :=
  { a with failed := true, cause := if a.cause = 0 then 0x0601 else a.cause, causeUnit := if a.cause = 0 then noUnit else a.causeUnit }

/-- TWIN_COMPARE (R445). -/
def twinCompare (d : Nat) (s : State) : State :=
  let t := s.getTally d
  match t.twinDue with
  | none => s
  | some n =>
    if s.ring.cycle < 256 then s
    else
      let s := s.updTally d fun t => { t with twinDue := none }
      if t.twinPeer = some (n, t.twinDig) then s.closeWaiting d
      else
        let s := s.raiseAt 0x0601 d noUnit s.ring.cycle n 0
        let s := s.updTally d fun t => match t.waiting with
          | some w => { t with waiting := some { w with acc := w.acc.diverge } }
          | none => { t with acc := t.acc.diverge }
        (s.closeWaiting d).askHalt d 0x0601 (n + 2) noUnit

def execTwinCompare (d : Nat) (s : State) : Host.Outcome State Fault Refusal := .next (twinCompare d s)

/-! The reference (R279, R280). -/

/-- REF_LOST (R279). -/
def refLost (s : State) : State :=
  if !s.ael.refDrives then s.updAelSt fun a => { a with restoreAt := none }
  else (s.updAelSt fun a => { a with restoreAt := none }).chooseClock.raiseAll 0x0103 noUnit s.ring.cycle 0 0

def execRefLost (s : State) : Host.Outcome State Fault Refusal := .next (refLost s)

/-- REFERENCE_RETURN (R280): 1 ms is 1,250,000 root cycles. -/
def execReferenceReturn (s : State) : Host.Outcome State Fault Refusal :=
  .next (if s.ael.refDrives then s else s.updAelSt fun a => { a with restoreAt := some (s.time + 1250000) })

/-! The map (R272, R285). -/

/-- AEL_MAP_DATA: the entry that AEL_MAP_SEL of LD `d` names. -/
def aelMapData (d v : Nat) (s : State) : State :=
  let lid := tget 0 s.ael.mapSel d
  let old := tget (false, 0) s.ael.map lid
  if !inRange (s.getDom d).lids lid || !(s.getDom d).valid || (s.getCtx d).engaged then s
  else s.change d d 0x7D0010 lid (flag old.1 16 + old.2) (fld v 16 0) fun s =>
    s.updAelSt fun a => { a with map := tput a.map lid (bit v 16, fld v 15 0) }

def execAelMapData (d v : Nat) (s : State) : Host.Outcome State Fault Refusal := .next (s.asLd d 0x7D0010 (aelMapData d v))

/-! What a ring boundary does to the links and to ring time. -/

/-- Ports taken down by command, and their counts for one ring (R254, R269). -/
def State.portBoundary (s : State) : Nat → State
  | 0 => s
  | p + 1 =>
    let s := s.portBoundary p
    let a := s.getAel p
    let s := if a.downAsked ∧ a.state ≠ 0 then s.linkDown p else s
    if a = {} then s else s.updAel p fun a => { a with dropped := false, badWords := 0, downAsked := false, fresh := false }

/-- R522, step 2: the ring counter and root cycle loaded from the average, once. -/
def State.acquire (s : State) : State :=
  if s.ael.seeded || s.ael.isGm || decide (s.ael.acqN < 128) || s.ring.everLocked then s
  else
    let off : Int := (s.ael.acqSum / 128 + 64) / 128
    let now : Int := (s.time : Int) - off
    let t := now.toNat
    ({ s with ring := { s.ring with count := t / s.L, cycle := t % s.L } }).updAelSt fun a => { a with seeded := true, inTol := 0 }

/-- R521: the grandmaster seeds ring time at its first ring boundary after stage 9 begins, and locks after 256 rings. -/
def State.seedRing (s : State) : State :=
  if !s.ael.isGm || decide (s.sec.stage < 9) then s
  else if !s.ael.seeded then
    ({ s with ring := { s.ring with count := 0 } }).updAelSt fun a => { a with seeded := true, hops := 0, inTol := 0 }
  else if s.ring.locked then s else s.goodRing

/-- R524: a device without an acceptable parent for 16 rings loses lock. -/
def State.orphanRing (s : State) (heard : Bool) : State :=
  if s.ael.isGm || heard then s.updAelSt fun a => { a with orphan := 0 }
  else
    let s := s.updAelSt fun a => { a with orphan := a.orphan + 1 }
    if s.ael.orphan ≥ 16 ∧ s.ring.locked then s.unlock else s

/-- R280: the reference taken again. -/
def State.restoreRef (s : State) : State :=
  match s.ael.restoreAt with
  | some t =>
    if s.time < t then s
    else (s.updAelSt fun a => { a with restoreAt := none, refDrives := true, recov := none, freeRun := false }).raiseAll 0x0107 noUnit s.ring.cycle 0 0
  | none => s

/-- Control blocks of a ring (R258, R259, R519, R521): RING_MARK in the slot of cycle 0; DISCOVER from stage 8 on and PROBE wait for
theirs. One DISCOVER is sent in a ring, since PROBE ranks below it (DESIGN CHOICE, notes/assumptions/29.md). -/
def State.sendMarks (s : State) : Nat → State
  | 0 => s
  | p + 1 =>
    let s := s.sendMarks p
    let a := s.getAel p
    if a.state ≠ 2 then s
    else
      let x := s.ael
      let hops := if x.seeded then x.hops else 511
      let s := s.emit (.control p 0 (ctlBlock 1 [s.ring.count, x.gm, hops, if s.ring.locked then 1 else 0]))
      let s := if s.sec.stage ≥ 8 then
          s.queueCtl p 6 [x.id, flag x.known 0 + flag x.isGm 1, p, a.mode, x.nx, x.ny, x.gm, s.ring.lenLog2] 1
        else s
      s.queueCtl p 2 [] 1

/-- R444: the digest of the ring that ended, sent to the twin. -/
def State.twinBoundary (s : State) (d : Nat) : State :=
  let t := s.getTally d
  if !t.twinEn || !((s.getCtx d).state == .running || (s.getCtx d).state == .stopping) then s.updTally d fun t => { t with twinSum := 0 }
  else
    let dig := t.twinSum % 2 ^ 64 ^^^ t.twinSum / 2 ^ 64
    let ended := s.ring.count - 1
    let s := s.updTally d fun t => { t with twinDig := dig, twinSum := 0, twinDue := some ended }
    s.queueCtl t.twinPort 7 [ended, dig] 2

end Sys2Proof.Machine
end

