-- ==== Sys2Proof/Machine/Plan.lean ====
section
/-! DEFINITION. Plan contexts (chapter 02): what LOAD writes and UNLOAD takes back, the commands of R60 in the order of
refusals of R559, the ends of rings and steps, and the stop of R52. -/

namespace Sys2Proof.Machine

/-- Stands that a context holds. -/
def State.ctxStands (s : State) (d : Nat) : List Nat := (s.stand.filter fun e => e.2.ctx == some d).map (·.1)

/-! Tables that plans of several domains share (R248, R320). -/

/-- Field `i` of 32 bits. -/
def field32 (w i : Nat) : Nat := fld w (32 * i + 31) (32 * i)

def setField32 (w i v : Nat) : Nat := w - at_ (field32 w i) (32 * i) + at_ v (32 * i)

/-- Connection `f` placed at position `i` of an entry of `n`, or where that is taken at the first idle one (DESIGN CHOICE,
notes/assumptions/25.md). -/
def placeConn (n w i f : Nat) : Nat :=
  if field32 w i = 0 then setField32 w i f
  else match firstBelow (fun j => field32 w j == 0) n with
    | some j => setField32 w j f
    | none => w

/-- An entry with the connections that `mine` owns taken out, and those of `new` that it owns put in. -/
def mergeEntry (n : Nat) (mine : Conn → Bool) (old new : Nat) : Nat :=
  let own := fun (w i : Nat) => (wideConn w i).kind != 0 && mine (wideConn w i)
  let kept := (List.range n).foldl (fun w i => if own w i then setField32 w i 0 else w) old
  (List.range n).foldl (fun w i => if own new i then placeConn n w i (field32 new i) else w) kept

/-- A table of entries without the ones that are zero. -/
def putEntry (t : Tab Nat) (k v : Nat) : Tab Nat := if v = 0 then tdel t k else tput t k v

/-- A whole table merged. -/
def mergeTable (n : Nat) (mine : Nat → Conn → Bool) (old new : Tab Nat) : Tab Nat :=
  (distinct (old.map (·.1) ++ new.map (·.1))).foldl (fun t k => putEntry t k (mergeEntry n (mine k) (tget 0 old k) (tget 0 new k))) old

/-- R248: the bridge connections that a domain owns, in the entry of an index. -/
def Dom.ownsConn (g : Dom) (e : Nat) (c : Conn) : Bool := ownsPort g e c.inp && ownsPort g e c.out

/-- R320: the connections of the controllers granted to a domain, at edge switch `k`. -/
def Dom.ownsEdge (g : Dom) (k : Nat) (c : Conn) : Bool :=
  (decide (16 ≤ c.inp) && bit g.hbm (3 * k + (c.inp - 16) / 2)) || (decide (16 ≤ c.out) && bit g.hbm (3 * k + (c.out - 16) / 2))

/-- The slot table of a unit (R323): both bytes of an HBM3E entry, one byte of an LPDDR5X entry. -/
def unitSlots (bs : List Byte) (u : Nat) : Tab Nat :=
  (List.range 4096).filterMap fun t =>
    let v := if u < 16 then ctlEntry bs u 0 t + 256 * ctlEntry bs u 1 t else ctlEntry bs u 0 t
    if v = 0 then none else some (t, v)

/-- The tables of the bridge, the edge switches and the controllers written with a domain's own parts from the sections of
an image; with no sections, its parts become idle. -/
def State.writeDevice (s : State) (g : Dom) (ss : List Sect) : State :=
  let edge := sectBytes ss 0x11 0xFFFF
  let mem := sectBytes ss 0x12 0xFFFF
  let edges : Tab (Tab Nat) := (List.range 4).foldl (fun e k =>
    tput e k (mergeTable 6 (fun _ => g.ownsEdge k) (tget [] s.net.edge k) (numTab 32 ((edge.drop (131072 * k)).take 131072)))) s.net.edge
  let units : Tab MemUnit := ((List.range 32).filter fun u => isUnit u && (if u < 16 then bit g.hbm u else bit g.lp (u - 16))).foldl
    (fun t u => tupd {} t u fun m => { m with slots := unitSlots mem u }) s.mem.unit
  { s with net := { s.net with bridge := mergeTable 16 g.ownsConn s.net.bridge (numTab 64 (sectBytes ss 0x10 0xFFFF)), edge := edges }
           mem := { s.mem with unit := units } }

/-! What LOAD writes to a stand (R146, R157, R187, R223, R235). -/

/-- R146: a bank takes its class; where that changes it, the bank is cleared to zero. -/
def Stand.setClass (t : Stand) (b k : Nat) : Stand :=
  if t.cls_ b = k then t else { t.loseBank b with cls := tput t.cls b k }

def Stand.setClasses (i : StandImg) : Nat → Stand → Stand
  | 0, t => t
  | n + 1, t => (Stand.setClasses i n t).setClass n (i.bank n).1

/-- Instruction words written to the store from a slot on. -/
def putWords (cuts : Tab Nat) (slot : Nat) : List Nat → Tab Nat
  | [] => cuts
  | w :: ws => putWords (if w = 0 then tdel cuts slot else tput cuts slot w) (slot + 1) ws

/-- The slots of a refill section written to its four areas (R562). -/
def putRefill (cuts : Tab Nat) : List (Nat × Nat) → List (List Byte) → Tab Nat
  | [], _ => cuts
  | a :: as, bs => putRefill (putWords cuts a.1 ((bs.take a.2).map ofLe)) as (bs.drop a.2)

/-- A stream at the start of its area. -/
def startStream (a : Nat × Nat) : Stream := { base := a.1, len := a.2, pc := a.1, sect := a.1, nextSect := a.1 }

def startStreams (areas : List (Nat × Nat)) : Tab Stream := (enum areas).map fun p => (p.1, startStream p.2)

/-- Store, tables, classes and areas from an image. -/
def Stand.writeImg (t : Stand) (i : StandImg) : Stand :=
  let cuts := match i.refill with | some (as, bs) => putRefill i.cuts as bs | none => i.cuts
  { Stand.setClasses i 32 t with
    cuts := cuts, desc := i.desc, streams := startStreams i.areas
    arOwner := (List.range 16).map fun r => (r, i.arOwner r)
    refill := match i.refill with | some (as, _) => enum as | none => [] }

def State.writeNode (s : State) (i : StandImg) : State :=
  s.updNode (.node i.st) fun n => { n with slots := i.slots, routes := i.routes, nRoutes := i.nRoutes }

/-- LOAD of one stand of the stand set, switched on (R466) and held by the context. -/
def State.loadStand (s : State) (d : Nat) (i : StandImg) : State :=
  (s.updStand i.st fun t => { t.writeImg i with ctx := some d, moved := false, refillOn := false }).writeNode i

/-- UNLOAD of a stand: its banks OFF and the stand switched off (R153, R466); its stores and tables become empty. -/
def Stand.unload (t : Stand) : Stand :=
  { t with
    ctx := none, refill := [], refillOn := false, moved := false, cuts := [], desc := [], ar := [], arOwner := [], streams := []
    mem := [], flip := [], bad := [], pwr := [], pwrTo := [], quiet := [], busy := [], jobs := [], later := [], acc := [], buf := [] }

/-! LOAD and UNLOAD (R60, R67, R429, R564). -/

/-- MODEL of a LOAD or UNLOAD tally (R429). -/
def planModel (reps : List Replica) : Nat :=
  let ms := dedup (reps.map (·.model))
  if ms.length = 1 then ms.headD 0 else 0xFFFF

/-- The context as LOAD leaves it. -/
def PlanCtx.loaded (c : PlanCtx) (im : PlanImg) (planId : List Byte) (tag stands : Nat) : PlanCtx :=
  let h := im.hdr
  { start := c.start, image := c.image, haltCause := c.haltCause, slipLast := c.slipLast, stretchLast := c.stretchLast
    unitLast := c.unitLast, ovr := c.ovr
    state := .loaded, jobTag := tag, debug := h.debug, mode := h.mode, policy := bit h.flags 0, minStands := h.minStands
    stands := stands, ringsPerStep := h.rings, slipLimit := h.slipLimit, slack := h.slack, canonSplit := bit h.flags 2
    resendW := h.resendW, rf := h.rf, replicas := h.replicas, buildAt := h.buildAt, planId := planId, sects := im.sects }

/-- LOAD applied. -/
def State.loadPlan (s : State) (d tag c : Nat) : State :=
  let x := s.getCtx d
  let im := s.readImg x.image
  let g := s.getDom d
  let planId := (sha512 (memRead s.mem.mem x.image im.hdr.length)).take 16
  let s := s.updCtx d fun x => x.loaded im planId tag c
  let stands := (List.range 512).filter (planStand g c)
  let pass := ((im.sects.filter fun e => e.type == 7).map (·.target)).filter (passNode g c)
  let s := stands.foldl (fun s st => s.loadStand d (standImg im.sects st)) s
  let s := pass.foldl (fun s st => s.writeNode (standImg im.sects st)) s
  let s := (s.writeDevice g im.sects).updTally d fun t => { t with lastStep := 0 }
  s.chainPlan d 2 (planModel (s.getCtx d).replicaList)

/-- The context as UNLOAD leaves it. -/
def PlanCtx.unloaded (c : PlanCtx) : PlanCtx :=
  { start := c.start, image := c.image, haltCause := c.haltCause, slipLast := c.slipLast, stretchLast := c.stretchLast
    unitLast := c.unitLast, ovr := c.ovr }

/-- UNLOAD applied. -/
def State.unloadPlan (s : State) (d : Nat) : State :=
  let c := s.getCtx d
  let g := s.getDom d
  let nodes := s.ctxStands d ++ ((c.sects.filter fun e => e.type == 7).map (·.target))
  let s := (s.chainPlan d 3 (planModel c.replicaList)).oweSignature d
  let s := nodes.foldl (fun s st => s.updNode (.node st) fun n => { n with slots := [], routes := [], nRoutes := 0 }) s
  let s := ((s.updStands d fun _ => Stand.unload).writeDevice g []).unloadLanding d
  let s := (List.range 16).foldl (fun s k =>
    if bit g.stands k ∧ (s.getCmp k).op ≠ 0 then s.updCmp k fun c => { c with nextOp := some 0 } else s) s
  s.updCtx d (·.unloaded)

/-! Refusals and the commands (R36, R60, R62, R470, R527, R528, R539, R559). -/

/-- R527: a row shift holds a domain's stand set until DONE. -/
def State.shifting (s : State) (d : Nat) : Bool := (s.repair.shState == 1 || s.repair.shState == 2) && bit (s.getDom d).stands (s.repair.shRow / 2)

/-- A stand of the context runs on another physical stand than the one that its Deck was filled on (R528). -/
def State.movedStands (s : State) (d : Nat) : Bool := s.stand.any fun e => e.2.ctx == some d && e.2.moved

/-- Rings before N in which a resuming ARM runs the refill section (R528). -/
def State.refillRings (s : State) (d : Nat) (resume : Bool) : Nat := if resume && s.movedStands d then (s.getCtx d).rf else 0

/-- The status of LOAD. -/
def State.statusLoad (s : State) (d tag c : Nat) : Nat :=
  if !s.ready || s.repair.refuses || (s.getCtx d).state != .none then 1 else s.loadStatus d tag c

/-- The status of ARM for start ring `n`. A context that must be reloaded after ROW_DEGRADED (R61), and every plan command that R539
refuses under PWR_WARN, is answered WRONG_STATE, and the former comes before NO_RESUME: the spec gives neither a status (DESIGN
CHOICE, notes/assumptions/57.md). -/
def State.statusArm (s : State) (d n : Nat) (resume : Bool) : Nat :=
  let c := s.getCtx d
  if !s.ready || !s.ring.locked || s.repair.refuses || s.therm.tripPin || s.shifting d then 1
  else match c.state with
    | .armed => if c.armStart = n ∧ c.armResume = resume then 0 else 1
    | .loaded | .halted =>
      if c.reload then 1
      else if resume && (!c.policy || !c.resumeValid || (s.movedStands d && c.rf == 0)) then 5
      else if n < s.ring.count + 2 + s.refillRings d resume then 2
      else 0
    | _ => 1

/-- The status of GO. -/
def State.statusGo (s : State) (d : Nat) : Nat :=
  let c := s.getCtx d
  if !s.ready || !s.ring.locked || s.repair.refuses then 1
  else match c.state with
    | .running => 0
    | .armed => if s.ring.count + 1 ≥ c.armStart then 3 else 0
    | _ => 1

/-- The status of UNLOAD. -/
def State.statusUnload (s : State) (d : Nat) : Nat :=
  if !s.ready then 1
  else match (s.getCtx d).state with
    | .none => 0
    | .loaded | .halted => if (s.getTally d).room < 2 then 8 else 0
    | _ => 1

def State.statusStop (s : State) : Nat := if s.ready then 0 else 1

/-- A command's status, and its effect where that is OK. -/
def State.command (s : State) (d st : Nat) (f : State → State) : State :=
  (if st = 0 then f s else s).updCtx d fun c => { c with lastStatus := st }

/-- R153: a bank of the stand set starts toward the plan's initial state; one in transition goes on from where that ends, and one that
was on its way to OFF has lost its contents by then (R150). -/
def Stand.armBank (i : StandImg) (fin : Nat → Nat) (b : Nat) (t : Stand) : Stand :=
  let dst := (i.bank b).2.1
  if t.power b = 3 then
    match tfind? t.pwrTo b with
    | some (mid, end_) => if mid = dst then t
                           else { (if mid = 0 then t.loseBank b else t) with pwrTo := tput t.pwrTo b (dst, end_ + pwrTime mid dst) }
    | none => t
  else t.startPwr dst (fin (pwrTime (t.power b) dst)) b

def Stand.armBanks (i : StandImg) (fin : Nat → Nat) : Nat → Stand → Stand
  | 0, t => t
  | n + 1, t => Stand.armBank i fin n (Stand.armBanks i fin n t)

/-- ARM applied in LOADED or HALTED. -/
def State.armPlan (s : State) (d n : Nat) (resume : Bool) : State :=
  if (s.getCtx d).state = .armed then s
  else
    let ss := (s.getCtx d).sects
    let s := s.updCtx d fun c => { c with state := .armed, armStart := n, armResume := resume, goHeld := false }
    let s := (s.ctxStands d).foldl (fun s st =>
      s.updStand st (Stand.armBanks (standImg ss st) (fun k => s.after st (s.standNow st) (1 + k)) 32)) s
    s.leaveSelfRefresh d

def load (d tag c : Nat) (s : State) : State := s.command d (s.statusLoad d tag c) fun s => s.loadPlan d tag c

/-- ARM by a write of RING_PLAN_CMD, with N from RING_PLAN_START (R62). -/
def arm (d : Nat) (resume : Bool) (s : State) : State :=
  let n := (s.getCtx d).start
  s.command d (s.statusArm d n resume) fun s => s.armPlan d n resume

def go (d : Nat) (s : State) : State :=
  s.command d (s.statusGo d) fun s => s.updCtx d fun c => { c with goHeld := c.goHeld || c.state == .armed }

def stop (d : Nat) (s : State) : State :=
  s.command d s.statusStop fun s =>
    match (s.getCtx d).state with
    | .armed => s.toLoaded d
    | .running => s.updCtx d fun c => { c with state := .stopping }
    | _ => s

def disarm (d : Nat) (s : State) : State :=
  s.command d s.statusStop fun s =>
    match (s.getCtx d).state with
    | .armed | .halted => s.toLoaded d
    | .running | .stopping => s.updCtx d fun c => { c with state := .stopping, disarmAtHalt := true }
    | _ => s

def unload (d : Nat) (s : State) : State :=
  s.command d (s.statusUnload d) fun s => if (s.getCtx d).state = .none then s else s.unloadPlan d

def execLoad (d tag c : Nat) (s : State) : Host.Outcome State Fault Refusal := .next (s.asPlanLd d (0x101008 + 0x40 * d) (load d tag c))
def execArm (d : Nat) (resume : Bool) (s : State) : Host.Outcome State Fault Refusal := .next (s.asPlanLd d (0x101008 + 0x40 * d) (arm d resume))
def execGo (d : Nat) (s : State) : Host.Outcome State Fault Refusal := .next (s.asPlanLd d (0x101008 + 0x40 * d) (go d))
def execStop (d : Nat) (s : State) : Host.Outcome State Fault Refusal := .next (s.asPlanLd d (0x101008 + 0x40 * d) (stop d))
def execDisarm (d : Nat) (s : State) : Host.Outcome State Fault Refusal := .next (s.asPlanLd d (0x101008 + 0x40 * d) (disarm d))
def execUnload (d : Nat) (s : State) : Host.Outcome State Fault Refusal := .next (s.asPlanLd d (0x101008 + 0x40 * d) (unload d))

/-! HALTED (R44, R78, R100, R106, R199, R246, R295). -/

def Packet.of (d : Nat) (p : Packet) : Bool := p.dom == d
def Sent.dom : Sent → Nat
  | .flit f => f.dom
  | .pkt p => p.dom

/-- R246: what the Flume and the controllers hold for a domain is discarded. -/
def State.dropTraffic (s : State) (d : Nat) : State :=
  let mine := s.ctxStands d
  let clean := fun (e : Nat) (n : Node) =>
    if e < 512 ∧ mine.contains e then { n with tracks := [], log := [], resends := [], heldCh := [], kept := [] }
    else { n with log := n.log.filter (fun x => x.item.dom != d), resends := n.resends.filter (fun x => x.1.item.dom != d)
                  kept := n.kept.filter (fun p => p.dom != d) }
  let port := fun (_ : Nat) (q : CtrlPort) =>
    { q with reads := q.reads.filter (fun r => r.dom != d), writes := q.writes.filter (fun r => r.dom != d)
             data := q.data.filter (fun f => f.dom != d) }
  { s with net := { s.net with flits := s.net.flits.filter (fun f => f.dom != d), outbox := s.net.outbox.filter (fun f => f.dom != d), pkts := s.net.pkts.filter (fun p => p.dom != d)
                               node := tmap clean s.net.node }
           mem := { s.mem with port := tmap port s.mem.port } }

/-- A stand at the entry into HALTED: counts 0, flags clear, nothing in flight, slots and queue empty; the accumulators
then hold what `seed` names. -/
def Stand.halted (t : Stand) (seed : Nat) : Stand :=
  { t with
    tok := [], cred := [], ops := [], jobs := [], later := t.landings, ixSeen := [], waits := 0, acc := [], accSeed := seed, rowDue := []
    buf := [], drains := [], slots := [], ftq := [], ftqReserved := 0, refillOn := false
    streams := tmap (fun _ q => { startStream (q.base, q.len) with slipLast := q.slipLast }) t.streams }

/-- Entry into HALTED. `cause` is 0 after a requested stop. A signature is owed for the chain head (R434). -/
def State.enterHalted (s : State) (d cause : Nat) : State :=
  let again := (s.getCtx d).disarmAtHalt
  let (seed, s) := s.takeFree
  let s := (s.dropTraffic d).updStands d fun st t => t.halted (512 * seed + st)
  let s := (s.freeWaiters d).updGr d fun g => { g with tok := [], next := 0, due := none, done := false }
  let s := s.updCtx d fun c =>
    { c with state := .halted, haltCause := cause, goHeld := false, halt := none, haltAtStepEnd := 0, resendOut := none
             slip := 0, slipUnit := 0, slipWarned := false }
  let s := s.updLnd d fun l => { l with build := none }
  let s := if (s.getTally d).waiting.isSome then s else s.oweSignature d
  if again then s.toLoaded d else s

/-- R52, R53: the step-abort flag sent on the ports armed with the context's tag. -/
def State.sendAbort (s : State) (d step : Nat) (except_ : Option Nat) : State :=
  (List.range 12).foldl (fun s p =>
    if s.aelDom p = some d ∧ except_ ≠ some p then s.queueCtl p 4 [(s.getCtx d).jobTag, step] 3 else s) s

/-- R52, R53: the plan stops: the step's tally closes FAILED, its record is ABORTED, the resume step is the step or the lowest one that
a step-abort flag has named, and the context is HALTED. `last` is the last ring run; `flag` where the flag is this device's own. -/
def State.stopStep (s : State) (d cause unit : Nat) (flag : Bool) (last : Nat) : State :=
  let c := s.getCtx d
  let s := (s.closeWaiting d).failStep d cause unit
  let s := s.recordStep d c.step (s.getTally d).acc.ringFirst true
  let s := s.closeStep d c.step last true
  let s := s.updCtx d fun c =>
    { c with resumeStep := c.abortSeen.foldl min c.step
             resumeValid := true }
  let s := s.updTally d fun t => { t with twinDue := none }
  (if flag then s.sendAbort d c.step none else s).enterHalted d cause

/-- A plan halted at once (R471, R539). -/
def State.haltNow (s : State) (d cause : Nat) : State :=
  if s.ctxRuns d then s.stopStep d cause noUnit true s.ring.count else s

/-- ABORT (R53): forwarded, and the plan stops at the next ring boundary. A further flag for a step is ignored. -/
def abort (p tag step : Nat) (s : State) : State :=
  match s.aelDom p with
  | some d =>
    let c := s.getCtx d
    if (s.getAel p).state ≠ 2 ∨ c.jobTag ≠ tag ∨ !s.ctxRuns d ∨ c.abortSeen.contains step then s
    else ((s.updCtx d fun c => { c with abortSeen := step :: c.abortSeen }).sendAbort d step (some p)).askHalt d 0x0105 (s.ring.count + 1) noUnit
  | none => s

def execAbort (p tag step : Nat) (s : State) : Host.Outcome State Fault Refusal := .next (abort p tag step s)

/-! The sets of a step (R344, R351). -/

/-- The model that a stand of the context serves: that of the first replica which binds it, else of the first replica, else
the lowest model of the domain with a CURRENT set (DEDUCED, notes/assumptions/26.md). -/
def State.standModel (s : State) (d st : Nat) : Option Nat :=
  let reps := (s.getCtx d).replicaList
  match (reps.find? fun r => r.bindings.any fun b => b.1 == st).or reps.head? with
  | some r => some r.model
  | none => (((List.range 256).filter fun i => (s.getSet i).state == 3 && (s.getSet i).domain == d).map fun i => (s.getSet i).model).min?

def State.setSlot (s : State) (i : Nat) : SetSlot :=
  let e := s.getSet i
  { model := e.model, gen := e.gen, entry := i, ext := e.ext }

def putSlot (t : Tab SetSlot) (k : Nat) : Option SetSlot → Tab SetSlot
  | some x => tput t k x
  | none => tdel t k

/-- The set maps of the step that begins. -/
def State.writeSetMaps (s : State) (d : Nat) : State :=
  (s.ctxStands d).foldl (fun s st =>
    let m := s.standModel d st
    let cur := m.bind (s.currentSet d)
    let dr := (m.bind (s.drainingSet d)).or cur
    { s with weight := { s.weight with map := putSlot (putSlot s.weight.map (2 * st) (dr.map s.setSlot)) (2 * st + 1) (cur.map s.setSlot) } }) s

/-! Entry into RUNNING (R44, R61, R78, R100, R125, R199, R204, R463). -/

/-- Initial counts of a COUNTERS section. -/
def initCounts (bs : List Byte) (from_ n : Nat) : Tab Cnt :=
  ((List.range n).map fun i => (i + 1, ({ n := num bs (from_ + 2 * i) 2 } : Cnt))).filter fun p => p.2.n != 0

/-- A stand at the entry into RUNNING. -/
def Stand.start (t : Stand) (ss : List Sect) (st seed : Nat) : Stand :=
  let i := standImg ss st
  let ct := sectBytes ss 4 st
  { t with
    tok := initCounts ct 0 31, cred := initCounts ct 62 15
    ar := (List.range 16).map fun r => (r, num i.aregs (16 * r) 8)
    own := (List.range 32).map fun b => (b, (i.bank b).2.2)
    streams := tmap (fun k q => { q with filled := (t.getStream k).filled }) (startStreams i.areas)
    ops := [], jobs := [], later := t.landings, ixSeen := [], waits := 0, acc := [], accSeed := seed, rowDue := [], buf := [], drains := []
    slots := [], ftq := [], ftqReserved := 0, refillOn := false, moved := false }

/-- R463: a compartment that a point is asked for. -/
def State.askPoint (s : State) (k p : Nat) : State := s.updCmp k fun c => { c with nextOp := some p }

/-- Initial points of the stand set's compartments. -/
def State.initPoints (s : State) (d : Nat) : State :=
  let g := s.getDom d
  let bs := sectBytes (s.getCtx d).sects 0x16 0xFFFF
  (List.range 16).foldl (fun s k => if bit g.stands k then s.askPoint k (num bs k 1) else s) s

/-- Scheduled points of the ring that begins. -/
def State.schedPoints (s : State) (d : Nat) : State :=
  let c := s.getCtx d
  ((opSched (sectBytes c.sects 0x16 0xFFFF)).filter fun e => e.1 == c.ringInStep).foldl (fun s e =>
    (List.range 16).foldl (fun s k => if e.2.1.testBit k then s.askPoint k e.2.2 else s) s) s

/-- A step begins at this boundary: sets, Landing, tally and Grader. -/
def State.beginStep (s : State) (d : Nat) : State :=
  let c := s.getCtx d
  let s := ((s.writeSetMaps d).landingBoundary d c.step).openStep d (decide (c.step < c.stepsBegun))
  let s := s.updGr d fun g => { g with next := 0, due := none, done := false }
  s.updCtx d fun c => { c with stepsBegun := max c.stepsBegun (c.step + 1) }

/-- ENTER_RUNNING. -/
def State.enterRunning (s : State) (d : Nat) : State :=
  let c := s.getCtx d
  let first := if c.armResume then c.resumeStep else 0
  let (seed, s) := s.takeFree
  let s := s.updCtx d fun c =>
    { c with state := .running, goHeld := false, runRing := s.ring.count, runStep := first, step := first, ringInStep := 0
             resumeValid := c.resumeValid && c.armResume, stepsBegun := if c.armResume then c.stepsBegun else 0
             disarmAtHalt := false, haltAtStepEnd := if s.ael.freeRun then 0x0103 else 0, halt := none, resendOut := none
             abortSeen := []
             slip := 0, slipUnit := 0, slipWarned := false }
  let s := s.updStands d fun st t => t.start c.sects st (512 * seed + st)
  let s := s.updGr d fun g => { g with tok := [], next := 0, due := none, done := false }
  let s := if c.armResume then s.rewind d first else (s.writeTensors d 0 [] []).updLnd d fun l => { l with hist := [], chunks := [] }
  (((s.setBoundary d s.ring.count).initPoints d).schedPoints d).beginStep d

/-! The end of a ring (R47, R51, R57, R190). -/

/-- The first unit of a context's plan that has not finished the ring (R51, R190): a stand's stream that has not reached
CL_RING or has work in flight, the Grader with entries of the ring left, the Landing without its build. -/
def State.lateUnit (s : State) (d : Nat) : Option Nat :=
  let c := s.getCtx d
  let stream := fun (st : Nat) => (List.range 4).findSome? fun k =>
    let t := s.getStand st
    let q := t.getStream k
    if q.len != 0 && (!q.ended || t.ops.any fun o => o.stream == k) then some (standUnit st k) else none
  let gr := (s.getGr d).due.isSome || (c.schedule.drop (s.getGr d).next).any fun e => e.ring == c.ringInStep
  let lnd := c.ringInStep + 1 == c.ringsPerStep && !(s.homes d).isEmpty && !(s.getLnd d).posted
  match (s.ctxStands d).findSome? stream with
  | some u => some u
  | none => if gr then some (hubUnit 1) else if lnd then some (hubUnit 0) else none

/-- A stream at the start of a ring: it continues with the section that CL_RING settled (R189, R190). -/
def Stream.nextRing (q : Stream) : Stream :=
  { q with pc := q.nextSect, sect := q.nextSect, sectRing := q.nextSectRing, loops := [], ended := false, slipLast := q.slip
           slip := 0, free := 0, next := 0 }

/-- At a step boundary each stream starts at its first section. -/
def Stream.nextStep (q : Stream) : Stream := { startStream (q.base, q.len) with slipLast := q.slip, filled := q.filled }

def State.startRing (s : State) (d : Nat) (step : Bool) : State :=
  s.updStands d fun _ t => { t with streams := tmap (fun _ q => if step then q.nextStep else q.nextRing) t.streams }

/-- RING_PLAN_SLIP of the ring that ended, and the largest stretch counts for the tally (R69, R460). -/
def State.noteRing (s : State) (d : Nat) : State :=
  let g := s.getDom d
  let worst := ((List.range 16).map fun k => if bit g.stands k then (s.getCmp k).stretch else 0).foldl max 0
  let s := s.updCtx d fun c =>
    { c with slipLast := c.slip, stretchLast := worst, unitLast := c.slipUnit, slip := 0, slipUnit := 0, slipWarned := false }
  s.updAcc d fun a => { a with stretch := (List.range 20).foldl (fun t k =>
    let n := (s.getCmp k).stretch
    if n > tget 0 t k then tput t k n else t) a.stretch }

/-- R61, R435, R452: a context without 6 free units of backlog, or whose tally ring was written with SIZE 0, stops at the end
of the step that begins. -/
def State.tallyFull (s : State) (d : Nat) : State :=
  if (s.getCtx d).state == .running && ((s.getTally d).ringZero || decide ((s.getTally d).room < 6)) then
    (s.raiseAt 0x0603 d noUnit s.ring.cycle 0 0).updCtx d fun c => { c with state := .stopping, haltAtStepEnd := 0x0603 }
  else s

/-- The step ends in good order (R57, R61, R429). -/
def State.endStep (s : State) (d : Nat) : State :=
  let c := s.getCtx d
  let s := s.recordStep d c.step (s.getTally d).acc.ringFirst false
  let s := s.closeStep d c.step (s.ring.count - 1) false
  let s := s.setBoundary d s.ring.count
  if c.state = .stopping ∨ c.haltAtStepEnd ≠ 0 then s.enterHalted d c.haltAtStepEnd
  else
    let s := s.updCtx d fun c => { c with step := c.step + 1, ringInStep := 0 }
    (((s.startRing d true).beginStep d).tallyFull d).schedPoints d

/-- RING_OVERRUN (R51, R52). -/
def State.overrun (s : State) (d unit : Nat) : State :=
  let s := (s.raiseAt 0x0101 d unit s.ring.cycle 0 0).updCtx d fun c => { c with ovr := c.ovr.add 1 }
  s.stopStep d 0x0101 unit true (s.ring.count - 1)

/-- Nothing stops the plan: the step ends, or its next ring begins. -/
def State.goOn (s : State) (d : Nat) : State :=
  let c := s.getCtx d
  if c.ringInStep + 1 ≥ c.ringsPerStep then s.endStep d
  else ((s.updCtx d fun c => { c with ringInStep := c.ringInStep + 1 }).startRing d false).schedPoints d

/-- A ring boundary for a running context; the ring counter already names the ring that begins. Where several causes stop the plan at
one boundary, 0x0301 is the one recorded, then the overrun, then the halt asked for (DESIGN CHOICE, notes/assumptions/56.md). -/
def State.runBoundary (s : State) (d : Nat) : State :=
  let late := s.lateUnit d
  let out := (s.getCtx d).resendOut
  let s := s.noteRing d
  let c := s.getCtx d
  match late, out, c.halt with
  | _, some u, _ => s.stopStep d 0x0301 u true (s.ring.count - 1)
  | some u, none, _ => s.overrun d u
  | none, none, some h =>
    if h.ring ≤ s.ring.count then
      let s := if h.cause = 0x0105 then s.raiseAt 0x0105 d noUnit s.ring.cycle 0 0 else s
      s.stopStep d h.cause h.unit (h.cause != 0x0105) (s.ring.count - 1)
    else s.goOn d
  | none, none, none => s.goOn d

/-! ARMED (R61, R62, R528). -/

/-- The refill section starts on the stands that have moved. -/
def State.startRefill (s : State) (d : Nat) : State :=
  s.updStands d fun _ t =>
    if t.moved then
      { t with refillOn := true
               streams := tmap (fun _ q => { q with filled := true }) (startStreams ((List.range 4).map fun k => tget (0, 0) t.refill k)) }
    else t

/-- R191: the sequencers fill their windows for ring N during ring N − 1. -/
def State.fillWindows (s : State) (d : Nat) : State :=
  s.updStands d fun _ t => { t with streams := tmap (fun _ q => { q with filled := true }) t.streams }

/-- Whether a refilling stand has left work of the ring undone. -/
def State.refillLate (s : State) (d : Nat) : Option Nat :=
  (s.ctxStands d).findSome? fun st =>
    let t := s.getStand st
    if t.refillOn then (List.range 4).findSome? fun k =>
      if (t.getStream k).len != 0 && (!(t.getStream k).ended || t.ops.any fun o => o.stream == k) then some (standUnit st k) else none
    else none

/-- A refill ring that overruns: no step has begun, so there is no tally to close; the context is HALTED as R52 has it
(DESIGN CHOICE, notes/assumptions/27.md). -/
def State.refillOverrun (s : State) (d unit : Nat) : State :=
  let s := (s.raiseAt 0x0101 d unit s.ring.cycle 0 0).updCtx d fun c => { c with ovr := c.ovr.add 1 }
  s.enterHalted d 0x0101

/-- A ring boundary for an ARMED context. -/
def State.armedBoundary (s : State) (d : Nat) : State :=
  let c := s.getCtx d
  let n := s.ring.count
  let s := if n + 1 = c.armStart ∧ c.goHeld then s.fillWindows d else s
  match s.refillLate d with
  | some u => s.refillOverrun d u
  | none =>
    if n + 1 ≥ c.armStart ∧ !c.goHeld then (s.raiseAt 0x0104 d noUnit s.ring.cycle 0 0).toLoaded d
    else if n ≥ c.armStart then s.enterRunning d
    else if s.refillRings d c.armResume ≠ 0 then
      if n + c.rf = c.armStart then s.startRefill d
      else if n + c.rf > c.armStart then
        s.updStands d fun _ t => if t.refillOn then { t with streams := tmap (fun _ q => q.nextRing) t.streams } else t
      else s
    else s

/-- R41, R57, R61: what a ring boundary does to a plan context. -/
def State.ctxBoundary (s : State) (d : Nat) : State :=
  match (s.getCtx d).state with
  | .armed => s.armedBoundary d
  | .running | .stopping => s.runBoundary d
  | _ => s

end Sys2Proof.Machine
end

