-- ==== Sys2Proof/Machine/Broadcast.lean ====
section
/-! DEFINITION. Starting a job over its broadcast tree (R531 to R535, R542): the root's commands and the CONTROL packets, which
hub unit 0 of each device takes. -/

namespace Sys2Proof.Machine

def State.getBc (s : State) (d : Nat) : Bcast := tget {} s.bcast d
def State.updBc (s : State) (d : Nat) (f : Bcast → Bcast) : State := { s with bcast := tupd {} s.bcast d f }

/-! The tree (R532). -/

/-- Neighbours along a line of `n` places that lie away from `a0`; at `a0`, both. -/
def awayFrom (a a0 n : Nat) : List Nat :=
  (if a ≤ a0 ∧ 0 < a then [a - 1] else []) ++ (if a0 ≤ a ∧ a + 1 < n then [a + 1] else [])

/-- Children of the place (x, y) of a tree. -/
def Ctl.kidsAt (c : Ctl) (x y : Nat) : List (Nat × Nat) :=
  let row := (awayFrom x c.rootX c.lw).map fun a => (a, y)
  let col := (awayFrom y c.rootY c.lh).map fun b => (x, b)
  if c.order then (if x = c.rootX then col ++ row else row) else (if y = c.rootY then row ++ col else col)

/-- Logical ID at a place. -/
def Ctl.lidAt (c : Ctl) (x y : Nat) : Nat := c.first + y * c.lw + x

/-- Logical IDs of the children of a device. -/
def Ctl.kids (c : Ctl) (lid : Nat) : List Nat :=
  (c.kidsAt ((lid - c.first) % c.lw) ((lid - c.first) / c.lw)).map fun p => c.lidAt p.1 p.2

/-- A CONTROL packet to a device by its logical ID, from hub unit 0 to hub unit 0 (R532, R273). -/
def State.sendCtl (s : State) (d : Nat) (c : Ctl) (lid : Nat) : State :=
  match s.compose [] [7, 0] lid with
  | .inl r => s.newPacket 0 (.unit 45) r c.rail false d (.control c) none
  | .inr code => s.raiseFail code d (hubUnit 0) (s.locNow (.unit 45)) 0 lid

def State.sendCtls (s : State) (d : Nat) (c : Ctl) (lids : List Nat) : State := lids.foldl (fun s l => s.sendCtl d c l) s

/-! GO and the root's answer (R535). -/

/-- GO applied to the own context and forwarded. -/
def State.giveGo (s : State) (d : Nat) (c : Ctl) : State :=
  (go d s).sendCtls d { c with cmd := 2, count := 0, ok := false } (c.kids (s.logicalId d))

/-- The root holds every confirmation, or it has failed. -/
def State.rootDone (s : State) (d : Nat) (c : Ctl) : State :=
  let b := s.getBc d
  if b.count = c.lw * c.lh ∧ s.ring.count + b.margin < c.start then (s.updBc d fun b => { b with state := 2 }).giveGo d c
  else s.updBc d fun b => { b with state := 3, failLid := 0xFFFF }

/-- A device whose children have all confirmed. -/
def State.subtreeDone (s : State) (d : Nat) : State :=
  let b := s.getBc d
  match b.ctl with
  | none => s
  | some c =>
    match b.parent with
    | none => s.rootDone d c
    | some p => s.sendCtl d { c with cmd := 3, count := 1 + b.below, ok := true, failLid := 0 } p

/-- An ARM in force: the children are told, and a device without children confirms at once. -/
def State.spreadArm (s : State) (d : Nat) (c : Ctl) (parent : Option Nat) : State :=
  let kids := c.kids (s.logicalId d)
  let s := s.updBc d fun b => { b with ctl := some c, waitFor := kids, below := 0, parent := parent }
  if kids.isEmpty then s.subtreeDone d else s.sendCtls d { c with cmd := 1, count := 0, ok := false, failLid := 0 } kids

/-! The root's commands (R531, R542). -/

/-- The ARM that a root sends. -/
def State.rootCtl (s : State) (d : Nat) (resume : Bool) : Ctl :=
  let b := s.getBc d
  let c := s.getCtx d
  { cmd := 1, tag := c.jobTag, start := c.start, plan := num c.planId 0 8, first := b.first, lw := b.lw + 1, lh := b.lh + 1, rootX := b.rootX
    rootY := b.rootY, order := b.order, rail := b.rail, resume := resume }

/-- R542: the grid lies within the domain's logical-ID range and the root stands where the tree has it. -/
def State.rootOk (s : State) (d : Nat) (c : Ctl) : Bool :=
  s.logicalId d == c.lidAt c.rootX c.rootY && inRange (s.getDom d).lids c.first && inRange (s.getDom d).lids (c.first + c.lw * c.lh - 1)

def bcastStart (d : Nat) (resume : Bool) (s : State) : State :=
  let c := s.rootCtl d resume
  let refuse := fun (s : State) => s.updBc d fun b => { b with state := 3, failLid := s.logicalId d }
  if !s.rootOk d c then refuse s
  else
    let s := arm d resume s
    if (s.getCtx d).lastStatus ≠ 0 then refuse s
    else (s.updBc d fun b => { b with state := 1, count := 1, failLid := 0 }).spreadArm d c none

def execStart (d : Nat) (resume : Bool) (s : State) : Host.Outcome State Fault Refusal := .next (s.asLd d (0x102008 + 0x20 * d) (bcastStart d resume))

/-- ABANDON: the root sends no GO. -/
def bcastAbandon (d : Nat) (s : State) : State := if (s.getBc d).state = 1 then s.updBc d fun b => { b with state := 4 } else s

def execAbandon (d : Nat) (s : State) : Host.Outcome State Fault Refusal := .next (s.asLd d (0x102008 + 0x20 * d) (bcastAbandon d))

/-! CONTROL packets. -/

/-- The Aelel port that a packet came by, from the last hop of its RETURN. -/
def Packet.port (p : Packet) : Nat := match p.ret.getLast? with | some [k] => 3 * k + p.rail | _ => 0

/-- R63, R534: a CONTROL packet that is dropped counts in AEL_TAGDROP. -/
def State.dropCtl (s : State) (p : Packet) : State := s.updAel p.port fun a => { a with tagDrop := a.tagDrop.add 1 }

/-- R63: the context that holds a job tag. -/
def State.ctlCtx (s : State) (c : Ctl) : Option Nat := firstBelow (fun d => (s.getCtx d).state != .none && (s.getCtx d).jobTag == c.tag) 16

/-- A CONTROL packet of a command taken at hub unit 0; one whose tag no context holds is dropped. -/
def takeCtl (cmd : Nat) (corrupt : Bool) (f : Nat → Packet → Ctl → State → State) (s : State) : State :=
  match s.takePacket (.unit 45) corrupt fun pl => match pl with | .control c => c.cmd == cmd | _ => false with
  | (s, some p) =>
    match p.payload with
    | .control c => match s.ctlCtx c with
      | some d => f d p c s
      | none => s.dropCtl p
    | _ => s
  | (s, none) => s

/-- CONTROL_ARM (R63, R534). -/
def controlArm (corrupt : Bool) (s : State) : State :=
  takeCtl 1 corrupt (fun d p c s =>
    let x := s.getCtx d
    let st := if x.state == .halted then 1 else s.statusArm d c.start c.resume
    if x.state == .armed && x.armStart != c.start then s.dropCtl p
    else if num x.planId 0 8 ≠ c.plan ∨ st ≠ 0 then
      let s := if num x.planId 0 8 = c.plan then s.command d st id else s
      s.sendCtl d { c with cmd := 3, count := 0, ok := false, failLid := s.logicalId d } p.srcDev
    else (s.command d 0 fun s => s.armPlan d c.start c.resume).spreadArm d c (some p.srcDev)) s

def execControlArm (corrupt : Bool) (s : State) : Host.Outcome State Fault Refusal := .next (controlArm corrupt s)

/-- A packet that names the start ring the context is armed with. -/
def State.armedWith (s : State) (d : Nat) (c : Ctl) : Bool := (s.getCtx d).state == .armed && (s.getCtx d).armStart == c.start

/-- CONTROL_GO (R60, R63, R534, R535): dropped where it names another start ring than the armed one; else it is a GO to the context, and
one that is applied is forwarded. -/
def controlGo (corrupt : Bool) (s : State) : State :=
  takeCtl 2 corrupt (fun d p c s =>
    if (s.getCtx d).state == .armed && (s.getCtx d).armStart != c.start then s.dropCtl p
    else if s.statusGo d ≠ 0 || (s.getCtx d).state != .armed then go d s
    else s.giveGo d c) s

def execControlGo (corrupt : Bool) (s : State) : Host.Outcome State Fault Refusal := .next (controlGo corrupt s)

/-- CONFIRM (R534, R535). -/
def confirm (corrupt : Bool) (s : State) : State :=
  takeCtl 3 corrupt (fun d p c s =>
    let b := s.getBc d
    if !s.armedWith d c then s.dropCtl p
    else if !c.ok then
      match b.parent with
      | some q => s.sendCtl d c q
      | none => if b.state = 1 then s.updBc d fun b => { b with state := 3, failLid := c.failLid } else s
    else if !b.waitFor.contains p.srcDev then s
    else
      let s := s.updBc d fun b =>
        { b with waitFor := b.waitFor.filter (· != p.srcDev), below := b.below + c.count
                 count := if b.parent.isNone then b.count + c.count else b.count }
      if (s.getBc d).waitFor.isEmpty ∧ (b.parent.isSome ∨ b.state = 1) then s.subtreeDone d else s) s

def execConfirm (corrupt : Bool) (s : State) : Host.Outcome State Fault Refusal := .next (confirm corrupt s)

/-- BCAST_CONFIRM_DEADLINE (R535): at the first root edge of ring N − MARGIN. -/
def State.bcastBoundary (s : State) (d : Nat) : State :=
  let b := s.getBc d
  match b.ctl with
  | some c => if b.state = 1 ∧ s.ring.count + b.margin ≥ c.start then s.updBc d fun b => { b with state := 3, failLid := 0xFFFF } else s
  | none => s

end Sys2Proof.Machine
end

