-- ==== Sys2Proof/Machine/Power.lean ====
section
/-! DEFINITION. Droop, temperatures, failing input power and row repair (R459, R468 to R471, R526 to R529, R539, R552, R553). -/

namespace Sys2Proof.Machine

/-- STRETCH (R459): a droop sensor of a compartment reads low on a kept edge; during an operating-point stop droop is not
acted on (R462). -/
def stretch (k : Nat) (s : State) : State :=
  let c := s.getCmp k
  if k < 20 ∧ c.keptNow ∧ !c.stop ∧ (c.on || decide (16 ≤ k)) then s.updCmp k fun c => { c with droop := true } else s

def execStretch (k : Nat) (s : State) : Host.Outcome State Fault Refusal := .next (stretch k s)

/-! Temperatures (R468 to R471). -/

def State.updTherm (s : State) (f : Therm → Therm) : State := { s with therm := f s.therm }

/-- A condition after a sample: it begins where a sensor reaches its threshold, and ends where every one of its kind reads at
least 5 °C below the warn threshold. -/
def condition (was : Bool) (most threshold warn : Nat) : Bool := decide (threshold ≤ most) || (was && !decide (most + 5 ≤ warn))

/-- The readings taken, and the conditions of both kinds. -/
def Therm.sample (t : Therm) (tj hbm : List Nat) : Therm :=
  let j := tj.foldl max 0
  let h := hbm.foldl max 0
  let t := { t with
    hbm := enum hbm
    warnTj := condition t.warnTj j t.tjWarn t.tjWarn, warnHbm := condition t.warnHbm h t.hbmWarn t.hbmWarn
    tripTj := condition t.tripTj j 95 t.tjWarn, tripHbm := condition t.tripHbm h 85 t.hbmWarn
    critTj := condition t.critTj j 105 t.tjWarn, critHbm := condition t.critHbm h 90 t.hbmWarn }
  { t with warnSeen := t.warnSeen || t.warn, tripSeen := t.tripSeen || t.trip, critSeen := t.critSeen || t.crit, burnt := t.burnt || t.crit }

/-- R61: every running plan asked to halt at the next ring boundary. -/
def State.askHaltAll (s : State) (cause : Nat) : State :=
  (List.range 16).foldl (fun s d => if s.ctxRuns d then s.askHalt d cause (s.ring.count + 1) noUnit else s) s

/-- Every running plan halted at once (R471, R539). -/
def State.haltAllNow (s : State) (cause : Nat) : State := (List.range 16).foldl (fun s d => s.haltNow d cause) s

/-- R471: stand compartments stop and switch off, and every Deck is lost. -/
def State.burnStands (s : State) : State :=
  let off := fun (k : Nat) (c : Cmp) => if k < 16 then { c with on := false, vout := 0, keptNow := false, droop := false } else c
  { s with cmp := tmap off s.cmp
           stand := tmap (fun _ t => { t with mem := [], flip := [], bad := [], pwr := [], pwrTo := [], later := [], jobs := [] }) s.stand }

/-- A sample of a rail in mV: lowest, highest, latest (R517). -/
def railSample (r : Option (Nat × Nat × Nat)) (v : Nat) : Nat × Nat × Nat :=
  match r with
  | none => (v, v, v)
  | some x => (min x.1 v, max x.2.1 v, v)

/-- The rails sampled, as every 10 µs the temperatures are (R468, R517). -/
def State.sampleRails (s : State) (rails : List Nat) : State :=
  { s with mgmt := { s.mgmt with rails := (enum rails).foldl (fun t p => tput t p.1 (railSample (tfind? t p.1) p.2)) s.mgmt.rails } }

/-- TEMP_SAMPLE: `tj` the readings of compartments 0 to 19, `hbm` those of stacks 0 to 11, `rails` those of the rails of R517. -/
def tempSample (tj hbm rails : List Nat) (s : State) : State :=
  let s := s.sampleRails rails
  let old := s.therm
  let s := s.updTherm fun t => t.sample tj hbm
  let s := { s with cmp := (enum tj).foldl (fun t p => tupd {} t p.1 fun c => { c with tj := p.2 }) s.cmp }
  let s := if s.therm.warn && !old.warn then s.raiseAll 0x0801 noUnit s.ring.cycle 0 0 else s
  let s := if s.therm.trip && !old.trip then (s.raiseAll 0x0802 noUnit s.ring.cycle 0 0).askHaltAll 0x0802 else s
  if s.therm.crit && !old.crit then ((s.haltAllNow 0x0802).burnStands).raiseAll 0x0802 noUnit s.ring.cycle 0 1 else s

def execTempSample (tj hbm rails : List Nat) (s : State) : Host.Outcome State Fault Refusal := .next (tempSample tj hbm rails s)

/-! Failing input power (R539, R552). -/

def State.updRepair (s : State) (f : Repair → Repair) : State := { s with repair := f s.repair }

/-- Chain heads signed until none is owed, at most `n`. -/
def State.signAll (s : State) (d : Nat) : Nat → State
  | 0 => s
  | n + 1 => if (s.getTally d).owed = [] then s else State.signAll (s.sign d) d n

/-- Records written until none can be, at most `n`. -/
def State.recordAll (s : State) (d : Nat) : Nat → State
  | 0 => s
  | n + 1 => State.recordAll (stepRecord d s) d n

/-- The flush of R539 for one LD: the chain head signed, units and records written as their rings have room. -/
def State.flushLd (s : State) (d : Nat) : State :=
  let s := (s.oweSignature d).flushTally d
  let s := s.signAll d (s.getTally d).owed.length
  s.recordAll d (s.getLnd d).recs.length

/-- The flush, once every plan has halted; CMP_PWR then shows STOPPED and FLUSHED. -/
def State.flushIfStopped (s : State) : State :=
  if !s.repair.refuses || s.repair.flushed || (List.range 16).any s.ctxRuns then s
  else ((List.range 16).foldl State.flushLd s).updRepair fun r => { r with stopped := true, flushed := true }

/-- PWR_WARN: the device acts on PWR_WARN_N. -/
def pwrWarn (s : State) : State :=
  if s.repair.warn then s
  else
    let s := s.updRepair fun r => { r with warn := true, stopped := false, flushed := false, warnTime := s.time }
    let s := s.raiseAll 0x0803 noUnit s.ring.cycle 0 0
    if s.ready then (s.askHaltAll 0x0803).flushIfStopped else s

/-- RESET in MODE 1 (R515): the stop and the flush that PWR_WARN_N starts; the reset follows the flush. -/
def stopForReset (e : BootEnv) (s : State) : State :=
  ((s.updRepair fun r => { r with stopped := false, flushed := false, warnTime := s.time, resetEnv := some e }).askHaltAll 0x0803).flushIfStopped

def execPwrWarn (s : State) : Host.Outcome State Fault Refusal := .next (pwrWarn s)

/-- PWR_WARN_HALT: 14 µs after acting, 17,500 root cycles, a plan that no ring boundary has halted is halted. -/
def pwrWarnHalt (s : State) : State :=
  if s.repair.warnTime + 17500 ≤ s.time ∧ (s.repair.refuses || (s.ctx.any fun c => c.2.halt.any fun h => h.cause == 0x0803)) then
    ((List.range 16).foldl (fun s d =>
      if (s.getCtx d).halt.any fun h => h.cause == 0x0803 then s.haltNow d 0x0803 else s) s).flushIfStopped
  else s

def execPwrWarnHalt (s : State) : Host.Outcome State Fault Refusal := .next (pwrWarnHalt s)

/-- PWR_WARN_RELEASE: the plans stay HALTED, and commands are no longer refused. -/
def execPwrWarnRelease (s : State) : Host.Outcome State Fault Refusal := .next (s.updRepair fun r => { r with warn := false })

/-! Row repair (R526 to R529, R541). -/

def State.getRow (s : State) (row : Nat) : RowSt := tget {} s.repair.rows row
def State.updRow (s : State) (row : Nat) (f : RowSt → RowSt) : State := s.updRepair fun r => { r with rows := tupd {} r.rows row f }

/-- R526: the logical stand at position `q` of a physical row whose columns are not shifted. -/
def standAt (row q : Nat) : Nat := 32 * (row % 16) + (if row / 16 = 0 then 15 - q else 16 + q)

/-- Contexts whose stand set holds the compartment of a physical row. -/
def State.rowCtxs (s : State) (row : Nat) : List Nat :=
  (List.range 16).filter fun d => bit (s.getDom d).stands (row / 2) && (s.getCtx d).state != .none

/-- ROW_DEGRADED (R61, R529): a context left with fewer working stands than C/2 must be loaded again, and halts at the next
ring boundary where it runs. -/
def State.rowDegraded (s : State) (row : Nat) : State :=
  let w := min (s.working row) 16
  let s := s.raiseAll 0x0702 noUnit s.ring.cycle row w
  (s.rowCtxs row).foldl (fun s d =>
    if w < (s.getCtx d).stands / 2 then
      let s := s.updCtx d fun c => { c with reload := true }
      if s.ctxRuns d then s.askHalt d 0x0702 (s.ring.count + 1) noUnit else s
    else s) s

/-- ROW_POS of a command (R541). -/
def rowPos (row pos : Nat) : Nat := at_ row 5 + pos

/-- SHIFT: CMP_SHIFT_CMD written by LD `d` for physical row 16 × die + row and position `pos` (R527, R538). A row of a
compartment that the domain does not hold is refused with BAD_ARG. -/
def shift (d row pos : Nat) (s : State) : State :=
  let r := s.repair
  let answer := fun (st status : Nat) (s : State) => s.updRepair fun r => { r with shState := st, shStatus := status, shRowPos := rowPos row pos }
  if !(s.getDom d).valid || !bit (s.getDom d).stands (row / 2) || decide (pos > 15) then
    if r.shState = 1 ∨ r.shState = 2 then s.updRepair fun r => { r with shStatus := 3 } else answer r.shState 3 s
  else if r.shState = 1 ∨ r.shState = 2 then s.updRepair fun r => { r with shStatus := 1 }
  else if (s.getRow row).shift = pos then answer 3 0 s
  else if (s.rowCtxs row).any fun e => (s.getCtx e).engaged then answer r.shState 1 s
  else if (s.getRow row).failed ≠ 0 then
    s.change d d 0x203000 0 0 (rowPos row pos) fun s =>
      ((answer 3 2 s).updRow row fun x => { x with failed := x.failed ||| 2 ^ pos }).rowDegraded row
  else
    s.change d d 0x203000 0 0 (rowPos row pos) fun s =>
      (answer 1 0 s).updRepair fun r => { r with shRow := row, shPos := pos, shDom := d, shRing := s.ring.count + 1 }

def execShift (d row pos : Nat) (s : State) : Host.Outcome State Fault Refusal := .next (s.asLd d 0x203000 (shift d row pos))

/-- The first ring boundary after acceptance: the shift starts (R527). -/
def State.shiftBoundary (s : State) : State :=
  if s.repair.shState = 1 ∧ s.repair.shRing ≤ s.ring.count then s.updRepair fun r => { r with shState := 2, shRing := s.ring.count } else s

/-- R527, stages 3 and 4, for one stand of the shifted row: its stores from the plan image; `lost` the column of the failed
position, whose banks take the states the plan gives at LOAD with every line zero. -/
def State.reloadStand (s : State) (st : Nat) (lost : Bool) : State :=
  match (s.getStand st).ctx with
  | none => s
  | some d =>
    let i := standImg (s.readImg (s.getCtx d).image).sects st
    (s.updStand st fun t =>
      let t := if lost then { t with mem := [], flip := [], bad := [], pwrTo := [], later := [], cls := [], own := [] } else t
      let t := { t.writeImg i with moved := true }
      if lost then { t with pwr := (List.range 32).map fun b => (b, (i.bank b).2.1) } else t).writeNode i

/-- ROW_SHIFTED: the stages end by 32,768 cycles after the shift's first ring boundary. -/
def rowShifted (s : State) : State :=
  let r := s.repair
  if r.shState ≠ 2 ∨ s.time < r.shRing * s.L + 32768 then s
  else
    let s := (List.range 16).foldl (fun s q => if r.shPos ≤ q then s.reloadStand (standAt r.shRow q) (q == r.shPos) else s) s
    let s := s.updRow r.shRow fun x => { x with failed := x.failed ||| 2 ^ r.shPos, shift := r.shPos }
    (s.updRepair fun r => { r with shState := 3, shStatus := 0 }).raiseAt 0x0703 r.shDom noUnit s.ring.cycle r.shRow r.shPos

def execRowShifted (s : State) : Host.Outcome State Fault Refusal := .next (rowShifted s)

end Sys2Proof.Machine
end

