-- ==== Sys2Proof/Machine/Clock.lean ====
section
/-! DEFINITION. The root clock: one root edge in every compartment (R37, R41, R455 to R463), and the ring boundary, at which every
chapter's rules for it act. -/

namespace Sys2Proof.Machine

/-! One root edge (R455). -/

/-- A compartment at the root edge of cycle `cyc`, after the first of the ring. -/
def Cmp.edge (c : Cmp) (cyc : Nat) : Cmp :=
  let c := if c.stop ∧ 320 ≤ cyc then { c with stop := false } else c
  if c.stop || skips c.op (c.loc + 1) then { c with loc := c.loc + 1, keptNow := false }
  else if c.droop then { c with droop := false, keptNow := false, stretch := satAt 16 (c.stretch + 1), stretches := c.stretches.add 1 }
  else { c with loc := c.loc + 1, kept := c.kept + 1, keptNow := true }

/-- A compartment has a running clock: a hub compartment always, a stand compartment while it is on. -/
def Cmp.clocked (c : Cmp) (k : Nat) : Bool := c.on || decide (16 ≤ k)

/-- Whether stream `k` of a held stand gates itself on a kept edge (R465): it has nothing in flight, has issued nothing in this cycle,
and its head cannot issue. -/
def State.gates (s : State) (st k : Nat) : Bool :=
  let t := s.getStand st
  !(t.ops.any fun o => o.stream == k) && decide ((t.getStream k).next ≤ s.standNow st) && s.waitOf st k != .go

/-- The gated units of a compartment (R465): streams of its stands; in compartment 19 the Landing and the Grader, which are idle
without a build or a phase in work. Compartments 16 to 18 hold no unit with a stream (DEDUCED, notes/assumptions/61.md). -/
def State.gatedUnits (s : State) (k : Nat) : Nat :=
  if k < 16 then
    ((s.stand.filter fun e => standCmp e.1 == k && e.2.ctx.isSome).map fun e => ((List.range 4).filter (s.gates e.1)).length).foldl (· + ·) 0
  else if k = 19 then
    (if s.hub.lnd.any fun e => e.2.build.isSome then 0 else 1) + (if s.hub.gr.any fun e => e.2.due.isSome then 0 else 1)
  else 0

/-- CMP_GATED of every compartment whose edge was kept. -/
def State.countGated (s : State) : State :=
  { s with cmp := tmap (fun k c => if c.keptNow then { c with gated := c.gated.add (s.gatedUnits k) } else c) s.cmp }

/-! The end of a cycle. -/

/-- Rows of a stand's drains that have reached their comparison, at most `n`. -/
def State.checkRows (st : Nat) : Nat → State → State
  | 0, s => s
  | n + 1, s => if (s.drainDue st).isNone then s else State.checkRows st n (drainRowCheck st s)

/-- Operations of a stand whose time has come complete (R203). -/
def State.settleStand (s : State) (st : Nat) : State :=
  ((s.getStand st).ops.filter fun o => o.done (s.standNow st)).foldl (fun s o => s.completeOp st o) s

/-- The Grader's counters of a domain: posts of the cycle counted in (R198, R417). -/
def State.settleGrader (s : State) (d : Nat) : State :=
  let g := s.getGr d
  let now := s.time
  let full := (g.tok.filter fun e => e.2.overflows now).map (·.1)
  let s := s.updGr d fun g => { g with tok := tmap (fun _ c => c.settle now) g.tok }
  full.foldl (fun s i => s.raiseFail 0x020A d (hubUnit 1) (s.getCmp 19).loc i 0) s

/-- What ends with the present cycle: rows compared and operations completed whose time has come, posts counted in (R196, R197),
cycles in which a stream was held (R218), gated edges (R465), and flits taken by the Aelel ports (R262). -/
def State.endCycle (s : State) : State :=
  let s := (s.stand.filter fun e => e.2.drains != []).foldl (fun s e => State.checkRows e.1 32 s) s
  let s := (s.stand.filter fun e => e.2.ops != []).foldl (fun s e => s.settleStand e.1) s
  let s := (s.stand.filter fun e => e.2.tok.any (·.2.posts != []) || e.2.cred.any (·.2.posts != [])).foldl (fun s e => s.settleStandCounters e.1) s
  let s := (s.hub.gr.filter fun e => e.2.tok.any (·.2.posts != [])).foldl (fun s e => s.settleGrader e.1) s
  let s := (s.stand.filter fun e => e.2.ctx.isSome).foldl (fun s e => s.countHeld e.1) s
  s.countGated.egressAll

/-! The start of a cycle. -/

/-- Stages of every engine's jobs. -/
def standStage : Stage := fun st j a s =>
  match j.stream with
  | 0 => hrStage st j a s
  | 1 => edStage st j a s
  | _ => skStage st j a s

/-- Transitions of a stand's banks that end now (R151). -/
def State.endTransitions (s : State) (st : Nat) : State :=
  s.updStand st fun t => t.pwrTo.foldl (fun t e => t.endPwr e.1 (s.standNow st)) t

/-- A kept cycle of a stand begins: what takes effect in it, then the line read again for a resend, then its jobs' accesses. -/
def State.standCycle (s : State) (st : Nat) : State :=
  let s := s.takeLaters st (fun now state mask => Stand.setPwr mask state (fun k => s.after st now k) 32) fun id s => s.releaseTrack st id
  let s := if (s.getStand st).pwrTo = [] then s else s.endTransitions st
  State.runJobs standStage (s.rereadNow st) st

/-- Whether something happens of itself at a stand in a cycle. -/
def Stand.active (t : Stand) : Bool := t.jobs != [] || t.later != [] || t.pwrTo != []

/-- What begins with the present cycle, in every compartment whose edge is kept. -/
def State.beginCycle (s : State) : State :=
  let s := s.enterFifos
  let s := if (s.getCmp 18).keptNow then s.landDram else s
  let s := if (s.getCmp 19).keptNow then s.unitsTake.notchCycle else s
  let sts := distinct ((s.stand.filter fun e => e.2.active).map (·.1) ++
    (s.net.node.filter fun e => decide (e.1 < 512) && e.2.resends != []).map (·.1))
  (sts.filter fun st => (s.getCmp (standCmp st)).keptNow).foldl State.standCycle s

/-- The root count and every compartment advance by one edge. -/
def State.nextEdge (s : State) : State :=
  let cyc := s.ring.cycle + 1
  { s with ring := { s.ring with cycle := cyc }
           cmp := (List.range 20).foldl (fun t k =>
             let c := tget ({} : Cmp) t k
             if c.clocked k then tput t k (c.edge cyc) else t) s.cmp }

/-- One root edge: the cycle ends and the next begins. The last cycle of a ring waits for RING_BOUNDARY (DESIGN CHOICE,
notes/assumptions/28.md). -/
def tick (s : State) : State :=
  if s.ring.cycle + 1 ≥ s.L then s else s.endCycle.nextEdge.sendBlocks.beginCycle

/-! What a boundary does to compartments and stands (R37, R41, R458 to R463). -/

/-- Voltage of an operating point in a compartment (R456, R472). -/
def Cmp.volts (c : Cmp) : Nat → Nat
  | 0 => c.v0 | 1 => c.v1 | 2 => c.v2 | _ => c.v3

/-- A compartment at the first root edge of a ring: kept, but in an operating-point stop. -/
def Cmp.boundary (c : Cmp) (k : Nat) : Cmp :=
  let c := { c with loc := 0, kept := 0, stretchLast := c.stretch, stretch := 0, stop := false, keptNow := c.clocked k }
  match c.nextOp with
  | some p => if p ≠ c.op ∧ c.clocked k then { c with nextOp := none, op := p, vout := c.volts p, changes := c.changes.add 1, stop := true, keptNow := false }
              else { c with nextOp := none }
  | none => c

/-- Times of the ring that ended leave a stand's units; what is still to come is counted from the new ring's first edge, `n` local
counts after that of the old one. -/
def Stand.boundary (t : Stand) (n : Nat) : Stand :=
  { t with
    acc := tmap (fun _ rows => (rows.take 1).map fun r => { r with lastWrite := 0 }) t.acc
    buf := tmap (fun _ b => { b with lastRead := 0, landed := 0, lastEntry := 0 }) t.buf
    rowDue := [], passFree := 0, hwFree := 0, drainFree := 0, haFree := 0, haRead := 0, ftqTaken := 0, laneFree := 0, lineAt := []
    ftq := t.ftq.map fun e => { e with cycle := e.cycle - n }
    later := t.later.map fun e => (e.1 - n, e.2)
    quiet := tmap (fun _ c => c - n) t.quiet
    busy := (t.busy.filter fun e => decide (n ≤ e.2)).map fun e => (e.1, e.2 - n)
    pwrTo := tmap (fun _ p => (p.1, p.2 - n)) t.pwrTo
    streams := tmap (fun _ q => { q with free := 0, next := 0 }) t.streams }

/-- R41: local counts restart at 0. `l` gives the local counts of the compartments' rings. -/
def State.cmpBoundary (s : State) (l : Nat → Nat) : State :=
  { s with cmp := (List.range 20).foldl (fun t k => tput t k ((tget ({} : Cmp) t k).boundary k)) s.cmp
           stand := tmap (fun st t => t.boundary (l (standCmp st))) s.stand
           notch := { s.notch with sets := [], adds := [] }
           net := { s.net with gone := [] }
           mem := { s.mem with unit := tmap (fun _ m => m.boundary (l 18)) s.mem.unit } }

/-- R234: circuit flits on links, at nodes, in crossing FIFOs and kept for a resend are discarded. What has come to a memory
controller or a hub unit is in no FIFO and stays. -/
def State.dropFlits (s : State) : State :=
  { s with net := { s.net with
      flits := s.net.flits.filter fun f => match f.loc with | .ctrl _ | .unit _ => !f.fifo | _ => false
      outbox := []
      node := tmap (fun _ n => if n.resends = [] then n else { n with resends := n.resends.filter (·.1.item.isPkt) }) s.net.node } }

/-- The Grader's phases whose time has come end before the ring is judged. -/
def State.settlePhases (s : State) : State := (s.ctx.filter fun e => s.ctxRuns e.1).foldl (fun s e => graderPhaseComplete e.1 s) s

/-- R524: some port has carried an acceptable mark in the ring that ended. -/
def State.heardParent (s : State) : Bool := (List.range 12).any fun p => (s.getAel p).fresh && s.acceptable p

/-! The boundary (R41). -/

/-- The ring counter advances and the root count restarts (R34, R35). -/
def State.nextRing (s : State) : State := { s with ring := { s.ring with count := (s.ring.count + 1) % 2 ^ 64, cycle := 0 } }

/-- Each context in turn. -/
def State.eachCtx (s : State) (f : State → Nat → State) : State := (List.range 16).foldl f s

/-- The ring pulse pin, from the end of boot on. -/
def State.pulseRing (s : State) : State :=
  { s with pins := { s.pins with pulse := s.pins.pulse || decide (9 ≤ s.sec.stage ∧ s.sec.stage ≤ 10) } }

/-- RING_BOUNDARY: the first root edge of a ring. -/
def ringBoundary (s : State) : State :=
  let heard := s.heardParent
  let l := fun k => (s.getCmp k).loc + 1
  let s := s.endCycle.settlePhases.nextRing
  let s := ((s.eachCtx State.twinBoundary).portBoundary 12).linksDone
  let s := ((s.acquire.seedRing).orphanRing heard).restoreRef
  let s := (s.dropFlits.eachCtx State.ctxBoundary).cmpBoundary l
  let s := (s.eachCtx State.bcastBoundary).shiftBoundary
  let s := (s.buildBank s.ring.count).flushIfStopped
  (s.pulseRing.sendMarks 12).beginCycle

/-- RING_PULSE as the root edges find it (R550, R555): it rises 2.0 ns after the first root edge of a ring and stays high for 8
cycles. -/
def State.ringPulse (s : State) : Bool := s.pins.pulse && decide (3 ≤ s.ring.cycle ∧ s.ring.cycle ≤ 10)

def execRingBoundary (s : State) : Host.Outcome State Fault Refusal := .next (ringBoundary s)

end Sys2Proof.Machine
end

