-- ==== Sys2Proof/Machine/Boot.lean ====
section
/-! DEFINITION. The blaze image, boot, the protection table, resets and image updates (chapter 17, R503, R515, R526 to R529, R549 to
R551, R556). -/

namespace Sys2Proof.Machine

/-! The flash (R473). -/

/-- `n` bytes of the flash from an offset; an erased byte reads 0xFF. -/
def State.flashRead (s : State) (off n : Nat) : List Byte := (memRead s.flash off n).map fun b => ~~~b

/-- Programming clears bits and sets none (PRESUMED of a NOR flash, notes/assumptions/32.md). -/
def flashProgram (m : Mem) (off : Nat) : List Byte → Mem
  | [] => m
  | b :: bs => flashProgram (memPut m off (memGet m off ||| ~~~b)) (off + 1) bs

/-- Offset of copy 0 (A) or 1 (B). -/
def copyBase (c : Nat) : Nat := c * 2 ^ 25

/-! Headers and sections (R474, R475). -/

/-- A row of the section table. -/
structure ImgSect where
  type : Nat
  off : Nat
  len : Nat
  zero : Bool
  deriving DecidableEq, Repr

def imgTable (h : List Byte) : List ImgSect := (List.range 16).map fun i =>
  let b := slice h (128 + 16 * i) 16
  { type := num b 0 4, off := num b 4 4, len := num b 8 4, zero := num b 12 4 == 0 }

def allZero (bs : List Byte) : Bool := bs.all (· == 0)

/-- R474. -/
def headerOk (h : List Byte) : Bool :=
  num h 0 4 == 0x5A424A46 && num h 4 4 == 1 && decide (1 ≤ num h 8 8 ∧ num h 8 8 ≤ 0xFFFFFFFFFFFFFFFE) &&
  decide (8192 ≤ num h 16 4 ∧ num h 16 4 ≤ 33554432) && num h 20 4 == 8 && allZero (slice h 24 40) && allZero (slice h 256 128) &&
  allZero (slice h 384 3712)

/-- Largest size of a section of each type. -/
def sectMax : Nat → Nat
  | 1 => 8 * 2 ^ 20 | 2 => 64 * 1024 | 3 => 128 | 4 => 256 | 5 => 512 | 6 => 4096 | 7 => 8192 | 8 => 16384 | _ => 0

def imgApart : List ImgSect → Bool
  | [] => true
  | e :: es => es.all (fun f => decide (e.off + e.len ≤ f.off) || decide (f.off + f.len ≤ e.off)) && imgApart es

/-- R475: each section exactly once, in its size, within LENGTH, apart from the others. -/
def sectionsOk (length : Nat) (es : List ImgSect) : Bool :=
  ((List.range 8).all fun i => (es.filter (·.type == i + 1)).length == 1) && imgApart es &&
  es.all fun e => e.zero && e.off % 4096 == 0 && decide (4096 ≤ e.off) && decide (e.off + e.len ≤ length) && decide (e.len ≤ sectMax e.type)

/-- A copy: its header and its sections by type. -/
structure Copy where
  hdr : List Byte
  sects : Tab (List Byte)
  deriving DecidableEq, Repr

def Copy.sect (c : Copy) (t : Nat) : List Byte := tget [] c.sects t
def Copy.seq (c : Copy) : Nat := num c.hdr 8 8

/-- The copy at a flash offset, with its header as given. -/
def State.readCopy (s : State) (base : Nat) (hdr : List Byte) : Copy :=
  { hdr := hdr, sects := ((imgTable hdr).take 8).foldl (fun t e => tput t e.type (s.flashRead (base + e.off) e.len)) [] }

/-- The DIGEST of a copy (R474). -/
def State.copyDigest (s : State) (base : Nat) (hdr : List Byte) : List Byte :=
  sha512 (slice hdr 0 64 ++ slice hdr 128 3968 ++ s.flashRead (base + 4096) (num hdr 16 4 - 4096))

/-! Ranges of the sections (R456, R468, R477, R486, R487). -/

/-- Domain `d` of a PROT section, which is the image of the PROT_ registers from 0x0030_0000 on (R486). -/
def protDom (b : List Byte) (d : Nat) : Dom :=
  let w := fun (o : Nat) => num b (0x1000 + 0x400 * d + o) 8
  let range := fun (o : Nat) => (fld (w o) 15 0, fld (w o) 48 32)
  { valid := bit (w 0) 63, stands := fld (w 0) 15 0, aelel := fld (w 0) 27 16, hbm := fld (w 0) 39 28, lp := fld (w 0) 55 40
    queues := range 0x08, notches := range 0x10, lids := range 0x18, hub := fld (w 0x20) 15 0
    hostBase := fld (w 0x28) 63 12, hostLast := fld (w 0x30) 63 12
    win := (List.range 16).filterMap fun i =>
      let p := (w (0x100 + 16 * i), w (0x108 + 16 * i))
      if p = (0, 0) then none else some (i, p) }

def Dom.empty (g : Dom) : Bool := g == {}

/-- Two ranges given by first number and count. -/
def rangesApart (a b : Nat × Nat) : Bool := decide (a.1 + a.2 ≤ b.1 ∨ b.1 + b.2 ≤ a.1) || a.2 == 0 || b.2 == 0

/-- R487 for two valid domains. -/
def domsApart (g h : Dom) : Bool :=
  (g.stands &&& h.stands) == 0 && (g.aelel &&& h.aelel) == 0 && (g.hbm &&& h.hbm) == 0 && (g.lp &&& h.lp) == 0 &&
  (g.hub &&& h.hub) == 0 && rangesApart g.queues h.queues && rangesApart g.notches h.notches && rangesApart g.lids h.lids &&
  rangesApart (g.hostBase, g.hostLast + 1 - g.hostBase) (h.hostBase, h.hostLast + 1 - h.hostBase)

/-- R318: a window lies in the populated range of one unit granted to the domain, clear of the system window (4,096 pages). -/
def windowOk (g : Dom) (lpGb mask : Nat) (w : Nat × Nat × Nat × Bool) : Bool :=
  let u := unitOf (w.1 * 65536)
  let first := u * (apertureBytes / 65536)
  decide (1 ≤ w.2.1) && (!w.2.2.2 || w.2.2.1 == 1) &&
  ((decide (u < 12) && bit g.hbm u) || (decide (16 ≤ u ∧ u < 32) && bit g.lp (u - 16) && bit mask (u - 16))) &&
  decide (w.1 + w.2.1 ≤ first + pagesOf u lpGb) && rangesApart (w.1, w.2.1) (0, 4096)

def windowsApart : List (Nat × Nat × Nat × Bool) → Bool
  | [] => true
  | w :: ws => ws.all (fun x => rangesApart (w.1, w.2.1) (x.1, x.2.1)) && windowsApart ws

def domPairs : List Dom → Bool
  | [] => true
  | g :: gs => gs.all (domsApart g) && domPairs gs

/-- R487. -/
def protOk (b : List Byte) (lpGb mask : Nat) : Bool :=
  let ds := (List.range 16).map (protDom b)
  let vs := ds.filter (·.valid)
  (List.range 16).all (fun d => (protDom b d).valid == bit (num b 0 8) d) &&
  ds.all (fun g => g.valid || g.empty) && domPairs vs &&
  vs.all (fun g => [g.queues, g.notches, g.lids].all (fun r => decide (r.1 + r.2 ≤ 65536)) && decide (g.hostBase ≤ g.hostLast) &&
    g.windows.all (windowOk g lpGb mask)) &&
  windowsApart (vs.map Dom.windows).flatten

def linkField (b : List Byte) (i : Nat) : Nat := (Config.linkField (BitVec.ofNat 2048 (ofLe b)) i).toNat
def memField (b : List Byte) (i : Nat) : Nat := (Config.memField (BitVec.ofNat 32768 (ofLe b)) i).toNat
def warnField (b : List Byte) (i : Nat) : Nat := (Config.warnField (BitVec.ofNat 4096 (ofLe b)) i).toNat

/-- The ports of RECOVERY up to its end (R477). -/
def recoveryOf (b : List Byte) : Nat → List Nat
  | 0 => []
  | n + 1 => let p := linkField b (16 + (11 - n)); if p = 0xF then [] else p :: recoveryOf b n

/-- R477. -/
def linkOk (b : List Byte) : Bool :=
  decide (12 ≤ linkField b 0 ∧ linkField b 0 ≤ 20) && decide (linkField b 1 ≤ 255) && decide (linkField b 2 ≤ 255) &&
  (List.range 12).all (fun p => decide (linkField b (4 + p) ≤ 2)) && (recoveryOf b 12).all fun p => decide (p < 12)

/-- R456, R468: voltages and thresholds. -/
def cmpOk (b : List Byte) : Bool :=
  (List.range 20).all (fun k =>
    let w := num b (8 * k) 8
    let v := fun (x lo hi : Nat) => decide (lo ≤ x ∧ x ≤ hi)
    v (fld w 9 0) 720 800 && v (fld w 25 16) 670 750 && v (fld w 41 32) 630 710 && v (fld w 57 48) 570 650) &&
  decide (80 ≤ warnField b 0 ∧ warnField b 0 ≤ 94) && decide (75 ≤ warnField b 1 ∧ warnField b 1 ≤ 84)

/-- The repair map: 32 words of 4 bytes (R475). -/
def repairWord (b : List Byte) (row : Nat) : Nat := num b (4 * row) 4

def Copy.rangesOk (c : Copy) : Bool :=
  let m := c.sect 6
  (c.sect 3).length == 128 && (List.range 32).all (fun r => decide (repairWord (c.sect 3) r < 2 ^ 17)) && linkOk (c.sect 4) && cmpOk (c.sect 5) &&
  decide (1 ≤ memField m 0 ∧ memField m 0 ≤ 96) && protOk (c.sect 2) (memField m 0) (memField m 1)

/-- R475: the BOOT section's signature. -/
def Copy.signed (c : Copy) : Bool :=
  let b := c.sect 1
  decide (64 ≤ b.length) && ed25519Verify (leBytes 32 Config.vendorKey.toNat) (b.take (b.length - 64)) (b.drop (b.length - 64))

/-! Identity (R489, R491). -/

/-- The private key of a PUF seed: HKDF-SHA-512, empty salt, info "FJX40 attest". -/
def attestSeed (puf : List Byte) : List Byte :=
  hkdf512 [] puf [0x46#8, 0x4A#8, 0x58#8, 0x34#8, 0x30#8, 0x20#8, 0x61#8, 0x74#8, 0x74#8, 0x65#8, 0x73#8, 0x74#8] 32

/-- Bytes of the first DER element of a chain: the leaf certificate. -/
def derFirst (bs : List Byte) : List Byte :=
  let l := num bs 1 1
  if l < 128 then bs.take (2 + l) else bs.take (2 + (l - 128) + ofBe (slice bs 2 (l - 128)))

/-- A string occurs in another. -/
def occurs (p : List Byte) : List Byte → Bool
  | [] => p.isEmpty
  | b :: bs => (b :: bs).take p.length == p || occurs p bs

/-- R491: the leaf certificate carries an Ed25519 public key, in the encoding of RFC 8410 (PRESUMED, notes/assumptions/33.md). -/
def certCarries (cert pub : List Byte) : Bool :=
  occurs ([0x30#8, 0x2A#8, 0x30#8, 0x05#8, 0x06#8, 0x03#8, 0x2B#8, 0x65#8, 0x70#8, 0x03#8, 0x21#8, 0x00#8] ++ pub) (derFirst cert)

def Copy.identityOk (c : Copy) (seed : Option (List Byte)) : Bool :=
  match seed with
  | some p => certCarries (c.sect 8) (ed25519Public (attestSeed p))
  | none => false

/-- R476: the first condition that a copy fails, numbered as they are listed, 0 where it is valid. -/
def State.checkCopy (s : State) (base : Nat) (hdr : List Byte) (seed : Option (List Byte)) : Nat :=
  let c := s.readCopy base hdr
  if !headerOk hdr then 1
  else if s.copyDigest base hdr ≠ slice hdr 64 64 then 2
  else if !sectionsOk (num hdr 16 4) ((imgTable hdr).take 8) then 3
  else if !c.signed then 4
  else if !c.rangesOk then 5
  else if !c.identityOk seed then 6
  else 0

/-! Reset (R482, R503, R515, R550, R551). -/

/-- Every state but the flash discarded; what has left the device, the commands that wait and the pins are no state of it. -/
def State.resetBy (s : State) (cause : Nat) : State :=
  { State.reset with flash := s.flash, out := s.out, free := s.free, pending := s.pending
                     pins := { s.pins with pulse := false }, sec := { cause := cause } }

/-- The device is held in reset (R550, R551, R556). -/
def Pins.held (p : Pins) : Bool := p.cold || p.perstHeld || p.railHeld || p.tap == 3

/-! Boot (R478 to R481). -/

def State.updSec (s : State) (f : Sec → Sec) : State := { s with sec := f s.sec }

def State.bootFail (s : State) (code : Nat) : State := s.updSec fun x => { x with stage := 15, failCode := code }

/-- The state code of a copy by its header and check: 0 valid, 1 erased, 2 invalid. -/
def copyState (hdr : List Byte) (check : Nat) : Nat := if check = 0 then 0 else if num hdr 0 4 = 0xFFFFFFFF then 1 else 2

/-- SEC_BOOT and SEC_IMAGE of a copy that has been checked. -/
def State.noteCopy (s : State) (c : Nat) (hdr : List Byte) (check : Nat) : State :=
  let st := copyState hdr check
  let q := if check = 0 then num hdr 8 8 else 0
  s.updSec fun x => if c = 0 then { x with aState := st, seqA := q } else { x with bState := st, seqB := q }

/-- Stages 2 and 3 (R476, R479): copies tried in order; the copy to boot, or the last failing condition. -/
def State.verify (s : State) (e : BootEnv) : List Nat → Nat → State × Option Nat × Nat
  | [], last => (s, none, last)
  | c :: cs, _ =>
    let hdr := s.flashRead (copyBase c) 4096
    let k := s.checkCopy (copyBase c) hdr (if c = 0 then e.seedA else e.seedB)
    let s := s.noteCopy c hdr k
    if k = 0 then (s, some c, 0) else State.verify s e cs k

/-- The copy tried first: the higher SEQ of the headers that keep R474, copy A at equal SEQ. -/
def State.candidates (s : State) : List Nat :=
  let a := s.flashRead 0 4096
  let b := s.flashRead (copyBase 1) 4096
  if headerOk b ∧ (!headerOk a ∨ num a 8 8 < num b 8 8) then [1, 0] else [0, 1]

/-- A copy whose header is erased is known to be so from stage 2 on, tried or not. -/
def State.noteErased (s : State) (c : Nat) : State :=
  let hdr := s.flashRead (copyBase c) 4096
  if num hdr 0 4 = 0xFFFFFFFF ∨ !headerOk hdr then s.noteCopy c hdr 1 else s

/-- Positions set in a mask of 17. -/
def positions (m : Nat) : List Nat := (List.range 17).filter (bit m)

/-- R480: an event of the self-test: to the management log at once, and held for the event rings (R450). -/
def State.bootEvent (s : State) (code i1 i2 : Nat) : State :=
  let r := evtRecord code 0xFF noUnit s.ring.count s.ring.cycle i1 i2
  let s := s.putLog r
  if s.ledger.bootEvents.length < 576 then { s with ledger := { s.ledger with bootEvents := s.ledger.bootEvents ++ [r] } } else s

/-- Stage 4 for one physical row: stands failed in the image and in the test; one failed stand is shifted past, two or more
leave the row degraded. -/
def State.repairRow (s : State) (map : List Byte) (e : BootEnv) (row : Nat) : State :=
  let img := repairWord map row
  let test := ((e.failed.filter (·.1 == row)).foldl (fun m p => m ||| p.2) 0) % 2 ^ 17
  let added := test &&& (2 ^ 17 - 1 - img)
  let bad := positions (img ||| added)
  let s := s.updSec fun x => { x with image := tput x.image row img, tested := tput x.tested row test }
  let s := (positions added).foldl (fun s q => s.bootEvent 0x0701 (rowPos row q) 0) s
  let s := s.updRow row fun _ =>
    { known := true, failed := img ||| added, shift := if bad.length = 1 ∧ bad ≠ [16] then bad.headD 31 else 31 }
  if bad.length ≥ 2 then s.bootEvent 0x0702 row (min (s.working row) 16) else s

/-- Stage 5: the protection table, CMP_CFG, CMP_THERM_CFG, the LINK and MEM parameters; stage 6 locks them. -/
def State.protect (s : State) (c : Copy) (gm : Bool) : State :=
  let k := c.sect 5
  let l := c.sect 4
  let s : State := { s with
    prot := (List.range 16).filterMap fun d => let g := protDom (c.sect 2) d; if g.valid then some (d, g) else none
    cmp := (List.range 20).map fun i =>
      let w := num k (8 * i) 8
      (i, { opMax := fld w 63 62, v0 := fld w 9 0, v1 := fld w 25 16, v2 := fld w 41 32, v3 := fld w 57 48
            on := decide (16 ≤ i), vout := if 16 ≤ i then fld w 9 0 else 0 })
    therm := { s.therm with tjWarn := warnField k 0, hbmWarn := warnField k 1 }
    ring := { s.ring with lenLog2 := linkField l 0 }
    mem := { s.mem with lpGb := memField (c.sect 6) 0 }
    ael := { s.ael with nx := linkField l 1, ny := linkField l 2, gm := linkField l 3, recovery := recoveryOf l 12, isGm := gm
                        known := gm, id := if gm then linkField l 3 else 0
                        ports := (List.range 12).map fun p => (p, { mode := linkField l (4 + p) }) } }
  s.updSec fun x => { x with locked := true }

/-- Stage 7: the stacks, and the packages that the MEM section expects, that train (R481); those granted to no domain stay in
self-refresh, but for stack 0 (R339). -/
def State.trainMemory (s : State) (c : Copy) (e : BootEnv) : State :=
  let have_ := fun (u : Nat) => if u < 12 then bit e.hbmTrained u else decide (16 ≤ u) && bit e.lpTrained (u - 16) && bit (memField (c.sect 6) 1) (u - 16)
  { s with mem := { s.mem with unit := (List.range 32).filterMap fun u => if have_ u then some (u, { present := true, selfRefresh := u != 0 && !s.granted u }) else none } }

/-- Stages 4 to 8 of a device that boots a copy. -/
def State.bootCopy (s : State) (e : BootEnv) (cp : Nat) (seed : List Byte) : State :=
  let hdr := s.flashRead (copyBase cp) 4096
  let c := s.readCopy (copyBase cp) hdr
  let key := attestSeed seed
  let s := s.updSec fun x =>
    { x with stage := 3, copy := cp, attSeed := key, pubKey := ed25519Public key, sects := c.sects
             imageDigest := sha512 (s.flashRead (copyBase cp) (num hdr 16 4)) }
  if !e.hub then s.bootFail 4
  else
    let s := (List.range 32).foldl (fun s r => s.repairRow (c.sect 3) e r) s
    let s := (s.protect c e.gm).trainMemory c e
    if !bit e.hbmTrained 0 then s.bootFail 5
    else
      let s := { s with ael := { s.ael with ports := tmap (fun _ a => if a.mode = 0 then a else { a with state := 1 }) s.ael.ports } }
      (s.updSec fun x => { x with stage := 8 }).linksDone

/-- Boot from stage 1 (R478, R479). -/
def State.boot (s : State) (e : BootEnv) : State :=
  let s : State := { s with host := { s.host with link := if s.pins.perst then 0 else 1 } }
  if !e.ref then s.bootFail 3
  else
    let s : State := { s with ael := { s.ael with refDrives := true } }
    let (s, got, last) := ((s.noteErased 0).noteErased 1).verify e s.candidates 0
    match got with
    | none => s.bootFail (if last = 6 then 2 else 1)
    | some cp => s.bootCopy e cp ((if cp = 0 then e.seedA else e.seedB).getD [])

/-- Boot where nothing holds the device in reset. -/
def State.bootIf (s : State) (e : BootEnv) : State := if s.pins.held then s else s.boot e

def State.updPins (s : State) (f : Pins → Pins) : State := { s with pins := f s.pins }

/-- RESET_RELEASE: COLD_RST_N deasserts. -/
def resetRelease (e : BootEnv) (s : State) : State :=
  if s.pins.cold || s.pins.railHeld then (s.updPins fun p => { p with cold := false, railHeld := false }).bootIf e else s

/-- COLD_RESET: COLD_RST_N asserts (R550). -/
def coldReset (s : State) : State := (s.resetBy 0).updPins fun p => { p with cold := true, perstHeld := false }

/-- RAIL_UNDERVOLT (R551): the rail's voltage enters its monitor's samples only with the reset, which discards them. -/
def railUndervolt (s : State) : State := if s.pins.cold then s else (s.resetBy 0).updPins fun p => { p with railHeld := true, perstHeld := false }

/-- PERST_N asserts (R503, R550). -/
def perstN (s : State) : State :=
  if s.pins.perst then s
  else if s.pins.cold then s.updPins fun p => { p with perst := true }
  else (s.resetBy 1).updPins fun p => { p with perst := true, perstHeld := true }

/-- PERST_N deasserts: the CXL port trains, and boot restarts where the assertion was a reset. -/
def perstNDeassert (e : BootEnv) (s : State) : State :=
  if !s.pins.perst then s
  else
    let was := s.pins.perstHeld
    let s := s.updPins fun p => { p with perst := false, perstHeld := false }
    if was then s.bootIf e
    else if s.pins.held then s else { s with host := { s.host with link := 1 } }

/-- A reset that the pins do not hold, and the boot that follows at once. -/
def State.restart (s : State) (cause : Nat) (e : BootEnv) : State := if s.pins.held then s else (s.resetBy cause).bootIf e

def execResetRelease (e : BootEnv) (s : State) : Host.Outcome State Fault Refusal := .next (resetRelease e s)
def execColdReset (s : State) : Host.Outcome State Fault Refusal := .next (coldReset s)
def execRailUndervolt (s : State) : Host.Outcome State Fault Refusal := .next (railUndervolt s)
def execPerstN (s : State) : Host.Outcome State Fault Refusal := .next (perstN s)
def execPerstNDeassert (e : BootEnv) (s : State) : Host.Outcome State Fault Refusal := .next (perstNDeassert e s)
def execHotReset (e : BootEnv) (s : State) : Host.Outcome State Fault Refusal := .next (s.restart 1 e)

/-! The test access port (R556). -/

/-- The pins as SAMPLE/PRELOAD takes them; their order in the boundary scan is the model's (DESIGN CHOICE,
notes/assumptions/34.md). -/
def State.pinWord (s : State) : Nat :=
  flag (!s.pins.cold) 0 + flag (!s.pins.perst) 1 + flag (!s.repair.warn) 2 + flag (!s.therm.warn) 3 + flag (!s.therm.tripPin) 4 + flag s.ringPulse 5

/-- A TAP instruction other than EXTEST: the hold that EXTEST imposed ends. -/
def State.tapLeave (s : State) (n : Nat) (e : BootEnv) : State :=
  let was := s.pins.tap == 3
  let s := s.updPins fun p => { p with tap := n }
  if was then s.bootIf e else s

def extest (s : State) : State := if s.pins.tap = 3 then s else (s.resetBy s.sec.cause).updPins fun p => { p with tap := 3, perstHeld := false }
def bypass (e : BootEnv) (s : State) : State := s.tapLeave 0 e
def idcode (e : BootEnv) (s : State) : State := (s.tapLeave 1 e).emit (.tdo 0x1F4040F3)
def samplePreload (e : BootEnv) (s : State) : State :=
  let w := s.pinWord
  ((s.tapLeave 2 e).updPins fun p => { p with sample := w }).emit (.tdo w)

def execExtest (s : State) : Host.Outcome State Fault Refusal := .next (extest s)
def execBypass (e : BootEnv) (s : State) : Host.Outcome State Fault Refusal := .next (bypass e s)
def execIdcode (e : BootEnv) (s : State) : Host.Outcome State Fault Refusal := .next (idcode e s)
def execSamplePreload (e : BootEnv) (s : State) : Host.Outcome State Fault Refusal := .next (samplePreload e s)
/-- TRST_N: the port returns to IDCODE, its state after reset (IEEE 1149.1). -/
def execTrstN (e : BootEnv) (s : State) : Host.Outcome State Fault Refusal := .next (s.tapLeave 1 e)

end Sys2Proof.Machine
end

