-- ==== Sys2Proof/Machine/HostPort.lean ====
section
/-! DEFINITION. The host port: link and function resets, CXL.mem, reads of host memory, MSI-X, IDE, Fabric Manager commands (R497 to
R509). -/

namespace Sys2Proof.Machine

def State.updHost (s : State) (f : HostSt → HostSt) : State := { s with host := f s.host }

/-- HOST_LINK_UP: the CXL link comes up at a speed code of 1 to 6 and a width of 2^`width` lanes; tallies that waited for it are
written (R503, R516). -/
def hostLinkUp (speed width : Nat) (s : State) : State :=
  if s.pins.held || s.pins.perst then s
  else
    let s := s.updHost fun h => { h with link := 2, speed := min speed 6, width := min width 4 }
    (List.range 16).foldl State.flushTally s

def execHostLinkUp (speed width : Nat) (s : State) : Host.Outcome State Fault Refusal := .next (hostLinkUp speed width s)

/-- HOST_LINK_DOWN (R503): no reset. -/
def execHostLinkDown (s : State) : Host.Outcome State Fault Refusal :=
  .next (s.updHost fun h => { h with link := 0, speed := 0, width := 0, ideCm := false, contained := false })

/-- FLR of LD `d` (R503): its queues RESET, then DISARM and UNLOAD of its context, each by its own rules; the function's MSI-X
table returns to its reset value. -/
def flr (d : Nat) (s : State) : State :=
  let s := (s.queue.ctx.filter fun e => s.queueDom e.1 == some d).foldl (fun s e => resetQueue d e.1 s) s
  let s := unload d (disarm d s)
  s.updHost fun h => { h with msix := tdel h.msix d, ideIo := h.ideIo.filter (· != d) }

def execFlr (d : Nat) (s : State) : Host.Outcome State Fault Refusal := .next (flr d s)

/-! CXL.mem (R500). -/

/-- R500: the device address that an offset in an LD's HDM range stands for: its domain's windows in table order. -/
def hdmAddr : List (Nat × Nat × Nat × Bool) → Nat → Option Nat
  | [], _ => none
  | w :: ws, o => if o < w.2.1 * 65536 then some (w.1 * 65536 + o) else hdmAddr ws (o - w.2.1 * 65536)

/-- An access that is not served: poisoned zeros, or a dropped write. -/
def State.refuseCxl (s : State) (d off : Nat) (write : Bool) : State :=
  let s := s.updHost fun h => { h with memDrop := tupd {} h.memDrop d fun c => c.add 1 }
  if write then s else s.emit (.cxlData d off (zeros 64) true)

/-- A CXL.mem access that its controller refuses (R317). -/
def State.refuseHostMem (s : State) (d a cls cause : Nat) : State :=
  (s.noteMem d 2 cls a cause 0 0 a).raiseAt 0x020C d noUnit (s.getCmp 18).loc a cause

/-- The word enables of R317 for a 64-byte segment at `a`: whole where every byte is enabled. -/
def segEnables (a be : Nat) : Nat := at_ (if be = 2 ^ 64 - 1 then 255 else 1) (8 * (a % 512 / 64))

/-- A read of 64 bytes from device memory for a host: what an uncorrectable unit leaves is poisoned. -/
def State.hostMemRead (s : State) (d off a cls : Nat) : State :=
  let r := s.readDram d 0 cls (a / 512 * 512)
  let s := if r.2.2 then r.1.raiseAt (0x0202 + cls) d noUnit (s.getCmp 18).loc (if unitOf a < 16 then 0 else 1) a else r.1
  s.emit (.cxlData d off (slice r.2.1 (a % 512) 64) r.2.2)

/-- A write of the enabled bytes of 64. -/
def State.hostMemWrite (s : State) (a be : Nat) (bs : List Byte) : State :=
  { s with mem := { s.mem with
      mem := memWriteBE s.mem.mem a (padTo 64 bs) (bit be)
      flip := (List.range 64).foldl (fun m i => if bit be i then memClear m (a + i) (a + i + 1) else m) s.mem.flip } }

/-- CXL_MEM_ACCESS by LD `d` to an offset of its HDM range, 64-byte aligned (R500). -/
def cxlMemAccess (d off : Nat) (write : Bool) (be : Nat) (bs : List Byte) (s : State) : State :=
  let g := s.getDom d
  match hdmAddr g.windows (off / 64 * 64) with
  | none => s.refuseCxl d off write
  | some a =>
    if !s.seen d || (s.getCtx d).engaged then s.refuseCxl d off write
    else
      let cls := ((g.window (a / 65536)).map fun w => w.2.2.1).getD 0
      match s.memRefusal d a cls write false (if write then segEnables a be else 0) with
      | some cause =>
        let s := s.refuseHostMem d a cls cause
        if write then s else s.emit (.cxlData d off (zeros 64) true)
      | none => if write then s.hostMemWrite a be bs else s.hostMemRead d off a cls

def execCxlMemAccess (d off : Nat) (write : Bool) (be : Nat) (bs : List Byte) (s : State) : Host.Outcome State Fault Refusal :=
  .next (cxlMemAccess d off write be bs s)

/-- SNOOP (R499): the device holds no lines. -/
def execSnoop (s : State) : Host.Outcome State Fault Refusal := .next (if s.host.up then s.emit .rspIHitI else s)

/-! Reads of host memory (R502). -/

/-- The LD whose host memory a read is made from. -/
def State.readLd (s : State) : HostRead → Nat
  | .entry q | .prompt q => (s.queueDom q).getD 0
  | .template d | .job d | .source d | .scales d | .tickets d | .readback d => d

/-- A read that fails: it counts, and fails the structure that it was made for. What a job, a prompt or a template does of it comes
with the command that uses it. -/
def State.readFails (s : State) (w : HostRead) : State :=
  let s := s.updHost fun h => { h with rdFail := tupd {} h.rdFail (s.readLd w) fun c => c.add 1 }
  match w with
  | .entry q => match s.queueDom q with
    | some d => if (s.getQueue q).state = 1 then s.faultQueue d q 6 (s.getQueue q).cons else s
    | none => s
  | .readback d => s.readbackFails d
  | _ => { s with host := { s.host with reads := s.host.reads ++ [(w, none)] } }

/-- HOST_READ_COMPLETION: with data, or with an error. -/
def hostReadCompletion (w : HostRead) (data : Option (List Byte)) (s : State) : State :=
  match data with
  | none => s.readFails w
  | some bs => { s with host := { s.host with reads := s.host.reads ++ [(w, some bs)] } }

def execHostReadCompletion (w : HostRead) (data : Option (List Byte)) (s : State) : Host.Outcome State Fault Refusal :=
  .next (hostReadCompletion w data s)

/-- HOST_READ_TIMEOUT: no completion within 50 ms. -/
def execHostReadTimeout (w : HostRead) (s : State) : Host.Outcome State Fault Refusal := .next (s.readFails w)

/-! MSI-X (R505, R509). -/

/-- MSIX_UNMASK: a pending vector sends one message. -/
def msixUnmask (ld v : Nat) (s : State) : State :=
  let was := s.getMsix ld v
  let s := s.updMsix ld v fun e => { e with masked := false }
  if was.masked ∧ was.pend then s.sendMsi ld v else s

def execMsixUnmask (ld v : Nat) (s : State) : Host.Outcome State Fault Refusal := .next (msixUnmask ld v s)

/-- A 64-bit write to BAR2: the address of a table entry, or its data and mask (R505). -/
def bar2Write (ld off v : Nat) (s : State) : State :=
  if off ≥ 0x8000 ∨ off % 8 ≠ 0 then s
  else if off % 16 = 0 then s.updMsix ld (off / 16) fun e => { e with addr := fld v 63 2 * 4 }
  else
    let s := s.updMsix ld (off / 16) fun e => { e with data := fld v 31 0, masked := e.masked || bit v 32 }
    if bit v 32 then s else msixUnmask ld (off / 16) s

/-! IDE and the Fabric Manager (R498, R504). -/

/-- IDE_CHECK_FAIL: what the failed flit carried is not applied; link IDE enters containment. What CXL 3.1 lays down beyond that is
no part of the spec. -/
def execIdeCheckFail (s : State) : Host.Outcome State Fault Refusal := .next (s.updHost fun h => { h with contained := h.contained || h.ideCm })

/-- FABRIC_MANAGER_COMMAND: `binding` asks for the binding of LDs, otherwise for LD counts: 16 LDs, LD n bound to domain n (R498).
The FM-owned LD answers no other command. -/
def execFabricManagerCommand (binding : Bool) (s : State) : Host.Outcome State Fault Refusal :=
  .next (if s.host.up then s.emit (.fabric (if binding then List.range 16 else [16])) else s)

end Sys2Proof.Machine
end

