-- ==== Sys2Proof/Machine/Regs.lean ====
section
/-! DEFINITION. The register space: what each register reads as, what a write to it does, and who sees it (R8, R9, R13, R20, R472,
R482, R485, R486, R505 to R508, R557, R558). `d` names the instance where a register has one for each LD. -/

namespace Sys2Proof.Machine

/-- A register's COUNT and OVF by R95, in a table of counters. -/
def ctrIn (t : Tab Ctr) (d : Nat) : Nat := (tget ({} : Ctr) t d).read

/-- Bits of `p` for numbers below `n`. -/
def maskOf (p : Nat → Bool) : Nat → Nat
  | 0 => 0
  | n + 1 => maskOf p n + flag (p n) n

/-- Fields of `w` bits for numbers below `n`. -/
def packOf (w : Nat) (f : Nat → Nat) : Nat → Nat
  | 0 => 0
  | n + 1 => packOf w f n + at_ (trunc w (f n)) (w * n)

def boolNum (b : Bool) : Nat := if b then 1 else 0

/-! Identification (R20). -/

def idDevice : Nat := at_ 0x1F4A 48 + at_ 0x0040 32 + at_ 0x01 24 + at_ 40 16
def idGeom : Nat := at_ 12 40 + at_ 16 32 + at_ 12 24 + at_ 20 16 + at_ 16 8 + 32

/-- ID_STATE for LD `d`, or for the management port where none is named. -/
def State.idState (s : State) (reader : Option Nat) : Nat :=
  at_ (reader.getD 0) 60 + flag reader.isNone 59 + flag (match reader with | some d => (s.getDom d).valid | none => true) 58 +
  at_ (if s.ael.known then s.ael.id else 0) 32 + flag (s.sec.stage == 15) 7 + flag s.ready 6 + flag s.ring.locked 5 + s.sec.stage

/-! Ring block (R69, R286, R542). -/

def State.ringPos (s : State) : Nat := flag s.ring.locked 32 + at_ s.ring.lenLog2 24 + s.ring.cycle

def State.ringAlign (s : State) : Nat :=
  at_ s.ael.gm 48 + at_ (min s.ael.hops 511) 39 + at_ (s.ael.parent.getD 0) 32 + flag s.ael.refDrives 31 + flag s.ael.recov.isSome 30 +
  flag s.ael.freeRun 29 + wrapInt 20 s.ael.phase

/-- State code of R59. -/
def PState.code : PState → Nat
  | .none => 0 | .loaded => 1 | .armed => 2 | .running => 3 | .stopping => 4 | .halted => 5

def PlanCtx.reg (c : PlanCtx) : Nat → Nat
  | 0x00 => at_ c.haltCause 48 + at_ c.jobTag 32 + at_ c.lastStatus 16 + flag c.resumeValid 8 + flag c.goHeld 3 + c.state.code
  | 0x10 => c.start
  | 0x18 => c.image
  | 0x20 => flag c.debug 63 + at_ c.mode 61 + flag c.policy 60 + at_ c.minStands 54 + at_ c.stands 48 + at_ c.ringsPerStep 36 +
            at_ c.slipLimit 20 + c.slack
  | 0x28 => if c.resumeValid && (c.state == .halted || c.state == .loaded) then c.resumeStep else c.step
  | 0x30 => at_ c.slipLast 32 + at_ c.stretchLast 16 + c.unitLast
  | 0x38 => c.ovr.read
  | _ => 0

def Bcast.cfgWord (b : Bcast) : Nat :=
  flag b.order 63 + at_ b.rail 61 + at_ b.margin 49 + at_ b.rootY 40 + at_ b.rootX 32 + at_ b.lh 24 + at_ b.lw 16 + b.first

def Bcast.reg (b : Bcast) : Nat → Nat
  | 0x00 => b.cfgWord
  | 0x10 => at_ b.count 32 + at_ b.failLid 16 + b.state
  | _ => 0

def State.ringReg (s : State) (o : Nat) : Nat :=
  if o = 0 then s.ring.count
  else if o = 0x08 then s.ringPos
  else if o = 0x10 then s.ringAlign
  else if 0x1000 ≤ o ∧ o < 0x1400 then (s.getCtx ((o - 0x1000) / 0x40)).reg (o % 0x40)
  else if 0x2000 ≤ o ∧ o < 0x2200 then (s.getBc ((o - 0x2000) / 0x20)).reg (o % 0x20)
  else 0

/-! Compartments, temperatures, repair and power (R472, R541). -/

def Cmp.cfgWord (c : Cmp) : Nat := at_ c.opMax 62 + at_ c.v3 48 + at_ c.v2 32 + at_ c.v1 16 + c.v0

def Cmp.reg (c : Cmp) : Nat → Nat
  | 0x00 => at_ c.tj 56 + at_ (trunc 16 c.stretchLast) 32 + at_ c.vout 16 + at_ (if !c.on then 0 else if c.stop then 2 else 1) 4 + c.op
  | 0x08 => c.cfgWord
  | 0x10 => c.stretches.read
  | 0x18 => c.changes.read
  | 0x20 => c.gated.read
  | _ => 0

/-- The greatest of readings and the first index that has it. -/
def highest (f : Nat → Nat) : Nat → Nat × Nat
  | 0 => (0, 0)
  | n + 1 => let r := highest f n; if f n > r.1 then (f n, n) else r

def State.thermWord (s : State) : Nat :=
  let j := highest (fun k => (s.getCmp k).tj) 20
  let h := highest (fun k => tget 0 s.therm.hbm k) 12
  at_ j.1 56 + at_ j.2 48 + at_ h.1 40 + at_ h.2 36 + flag s.therm.crit 2 + flag s.therm.trip 1 + flag s.therm.warn 0

def Therm.cfgWord (t : Therm) : Nat := at_ 90 56 + at_ 85 48 + at_ t.hbmWarn 40 + at_ 105 16 + at_ 95 8 + t.tjWarn
def Therm.evtWord (t : Therm) : Nat := flag t.critSeen 2 + flag t.tripSeen 1 + flag t.warnSeen 0

/-- R529: the largest active stand count per row. -/
def State.cMax (s : State) : Nat := 2 * ((List.range 32).map fun r => min (s.working r) 16).foldl min 16

def State.rowData (s : State) : Nat :=
  let r := s.getRow s.repair.rowSel
  flag (decide ((positions r.failed).length ≥ 2)) 63 + at_ r.failed 32 + at_ r.shift 16 + s.working s.repair.rowSel

def State.cmpReg (s : State) (o : Nat) : Nat :=
  if o < 0x1400 then (s.getCmp (o / 0x100)).reg (o % 0x100)
  else match o with
    | 0x2000 => s.thermWord
    | 0x2008 => s.therm.cfgWord
    | 0x2010 => s.therm.evtWord
    | 0x3008 => at_ s.repair.shState 62 + at_ s.repair.shStatus 56 + at_ s.repair.shRowPos 4
    | 0x3010 => s.repair.rowSel
    | 0x3018 => s.rowData
    | 0x3020 => at_ ((List.range 32).filter fun r => (s.getRow r).known && decide (s.working r ≤ 15)).length 8 + s.cMax
    | 0x3028 => flag s.repair.flushed 2 + flag s.repair.stopped 1 + flag s.repair.warn 0
    | _ => 0

/-! Protection table (R486). -/

def State.protCtrl (s : State) : Nat := flag s.sec.locked 63 + maskOf (fun d => (s.getDom d).valid) 16
def rangeWord (r : Nat × Nat) : Nat := at_ r.2 32 + r.1

def Dom.reg (g : Dom) (o : Nat) : Nat :=
  match o with
  | 0x00 => flag g.valid 63 + at_ g.lp 40 + at_ g.hbm 28 + at_ g.aelel 16 + g.stands
  | 0x08 => rangeWord g.queues
  | 0x10 => rangeWord g.notches
  | 0x18 => rangeWord g.lids
  | 0x20 => g.hub
  | 0x28 => at_ g.hostBase 12
  | 0x30 => at_ g.hostLast 12
  | _ => if 0x100 ≤ o ∧ o < 0x200 then (let w := tget (0, 0) g.win ((o - 0x100) / 16); if o % 16 = 0 then w.1 else if o % 16 = 8 then w.2 else 0)
         else 0

/-- Registers of the block; `d` none is the management port, which reads every domain's (R486). -/
def State.protReg (s : State) (d : Option Nat) (o : Nat) : Nat :=
  if o = 0 then s.protCtrl
  else if 0x1000 ≤ o ∧ o < 0x5000 then
    let e := (o - 0x1000) / 0x400
    if d = none ∨ d = some e then (s.getDom e).reg (o % 0x400) else 0
  else 0

/-! Landing, Grader, queues, notches (R312, R313, R395, R419). -/

def ringIdx (r : HostRing) : Nat := at_ r.cons 32 + r.prod

def State.lndReg (s : State) (d o : Nat) : Nat :=
  let l := s.getLnd d
  match o with
  | 0x00 => l.out.base
  | 0x08 => l.cfgWord
  | 0x10 => ringIdx l.out
  | 0x18 => l.wb
  | 0x20 => flag l.held 63 + at_ l.holdCause 61 + at_ l.pending.length 32 + l.live.length
  | 0x28 => s.freePages d
  | 0x30 => l.err.read
  | 0x38 => l.err.w1
  | 0x40 => l.arrivals.read
  | 0x48 => l.admits.read
  | 0x50 => l.rejects.read
  | 0x58 => l.defers.read
  | 0x60 => l.late.read
  | 0x68 => l.cancels.read
  | 0x70 => l.heldCt.read
  | 0x78 => l.records.read
  | _ => 0

def State.grReg (s : State) (d o : Nat) : Nat :=
  let g := s.getGr d
  match o with
  | 0x08 => g.arg
  | 0x10 => at_ g.resHandle 16 + g.resStatus
  | 0x18 => g.err.read
  | 0x20 => g.err.w1
  | 0x28 => g.positions.read
  | 0x30 => g.proposed.read
  | 0x38 => g.accepted.read
  | 0x40 => g.empty.read
  | 0x48 => g.mmiss.read
  | 0x50 => g.check.read
  | _ => 0

def State.qReg (s : State) (d o : Nat) : Nat :=
  let x := s.getQld d
  match o with
  | 0x00 => at_ x.selWord 32 + x.selQueue
  | 0x08 => if s.queueDom x.selQueue = some d then (s.getQueue x.selQueue).word d x.selWord else 0
  | 0x20 => x.err.read
  | 0x28 => x.err.w1
  | 0x30 => x.entries.read
  | 0x38 => x.expired.read
  | 0x40 => x.faults.read
  | 0x48 => x.dbDrop.read
  | 0x50 => x.cmiss.read
  | 0x58 => x.drop.read
  | _ => 0

def State.notchReg (s : State) (d o : Nat) : Nat :=
  let x := tget ({} : NotchDom) s.notch.dom d
  match o with
  | 0x00 => (s.notch.waiters.filter fun w => s.notchDomain w.notch == some d).length
  | 0x08 => x.err.read
  | 0x10 => x.err.w1
  | 0x18 => x.ops.read
  | 0x20 => x.satCnt.read
  | 0x28 => x.fence.read
  | 0x30 => x.full.read
  | 0x38 => x.drop.read
  | _ => 0

/-! Tally block and Scout (R449, R452, R453). -/

/-- The 64-byte ledger entry as LD `d` reads it, or the management port where none is named (R449). -/
def Change.bytes (x : Change) (d : Option Nat) : List Byte :=
  let dev := x.domain == 0xFF
  let seen := dev || d.isNone || d == some x.domain
  let epoch := if !dev then x.epochs.headD 0 else match d with | some e => x.epochs.getD e 0 | none => 0
  if !seen then zeros 64
  else layout 64 [(0, 4, x.c), (4, 4, epoch), (8, 1, x.domain), (9, 1, x.port), (12, 4, x.offset), (16, 4, x.sel), (24, 8, x.old),
    (32, 8, x.new), (40, 8, x.ring)]

def State.ledgerBytes (s : State) (d : Option Nat) (i : Nat) : List Byte :=
  match tfind? s.ledger.entries i with | some x => x.bytes d | none => zeros 64

def State.tallyReg (s : State) (d o : Nat) : Nat :=
  let t := s.getTally d
  match o with
  | 0x00 => t.ring.base
  | 0x08 => t.ring.size
  | 0x10 => ringIdx t.ring
  | 0x18 => t.signInterval
  | 0x28 => t.seq - 1
  | 0x30 => t.headSel
  | 0x38 => num t.head (8 * t.headSel) 8
  | 0x40 => t.jrn.base
  | 0x48 => t.jrnCfgWord
  | 0x50 => ringIdx t.jrn
  | 0x58 => t.tseq
  | 0x60 => t.evt.base
  | 0x68 => t.evtCfgWord
  | 0x70 => ringIdx t.evt
  | 0x78 => t.epoch
  | 0x80 => t.ledgerSel
  | 0x88 => num (s.ledgerBytes (some d) (fld t.ledgerSel 7 0)) (8 * fld t.ledgerSel 10 8) 8
  | 0x90 => s.ledger.next
  | 0x98 => t.twinWord
  | 0xA0 => t.twinDig
  | 0xA8 => t.backlog.length
  | 0xB0 => t.count.read
  | 0xB8 => t.failed.read
  | 0xC0 => t.signed.read
  | 0xC8 => t.evtLost.read
  | 0xD0 => t.epochRef.read
  | _ => 0

def State.dbgReg (s : State) (d o : Nat) : Nat :=
  let t := s.getTally d
  match o with | 0x00 => t.scout.read | 0x08 => t.scout.w1 | 0x10 => t.findings.read | _ => 0

/-! Aelel block (R251, R284, R285). -/

def State.aelReg (s : State) (p o : Nat) : Nat :=
  let a := s.getAel p
  let own := s.aelDom p
  match o with
  | 0x00 => at_ a.lanes 40 + at_ a.peer 16 + at_ a.peerPort 12 + flag (s.ael.parent == some p) 4 + flag (s.ael.recov == some p) 3 + a.state
  | 0x08 =>
    let c := s.getCtx (own.getD 0)
    let armed := own.isSome && (c.engaged || c.state == .halted)
    flag (a.mode == 2) 62 + at_ (if armed then c.jobTag else 0) 32 + flag armed 31 + at_ (own.getD 0) 16 + flag own.isSome 15
  | 0x10 => at_ a.rtt 32 + a.flight
  | 0x18 => a.err.read
  | 0x20 => a.err.w1
  | 0x28 => a.framesTx.read
  | 0x30 => a.framesRx.read
  | 0x38 => a.fecCorr.read
  | 0x40 => a.fecUncorr.read
  | 0x48 => a.resent.read
  | 0x50 => a.void.read
  | 0x58 => a.tagDrop.read
  | _ => 0

/-- R251: a connection of the bridge that a domain owns (R248). -/
def State.bridgeConn (s : State) (d sel : Nat) : Nat :=
  let w := tget 0 s.net.bridge (fld sel 11 0)
  if (s.getDom d).ownsConn (fld sel 11 0) (wideConn w (fld sel 15 12)) then field32 w (fld sel 15 12) else 0

def State.bridgeReg (s : State) (d o : Nat) : Nat :=
  let b := tget ({} : BridgeDom) s.net.bridgeDom d
  match o with
  | 0x00 => b.sel
  | 0x08 => s.bridgeConn d b.sel
  | 0x10 => b.flits.read
  | 0x18 => b.pkts.read
  | 0x20 => b.late.read
  | 0x28 => b.routef.read
  | _ => 0

def State.mapReg (s : State) (d o : Nat) : Nat :=
  let lid := tget 0 s.ael.mapSel d
  match o with
  | 0x00 => at_ s.ael.ny 40 + at_ s.ael.nx 32 + (if s.ael.known then s.ael.id else 0)
  | 0x08 => lid
  | 0x10 => if inRange (s.getDom d).lids lid then (let e := tget (false, 0) s.ael.map lid; flag e.1 16 + e.2) else 0
  | _ => 0

/-! Memory and Bucker (R333, R340, R342, R367). -/

def PageEnt.word (e : PageEnt) : Nat := flag e.valid 63 + at_ e.tier 61 + at_ e.gen 49 + at_ e.queue 33 + e.frame

def State.memReg (s : State) (d o : Nat) : Nat :=
  let m := s.getMemDom d
  match o with
  | 0x00 => at_ (maskOf (fun p => (s.getUnit (16 + p)).present) 16) 32 + at_ s.mem.lpGb 24 + maskOf (fun k => (s.getUnit k).present) 12
  | 0x08 => at_ (maskOf (fun p => (s.getUnit (16 + p)).selfRefresh) 16) 16 + maskOf (fun k => (s.getUnit k).selfRefresh) 12
  | 0x10 => m.rec_.read
  | 0x18 => m.rec_.w1
  | 0x20 => m.rec_.w2
  | 0x28 => m.pmSel
  | 0x30 => let e := tget ({} : PageEnt) s.mem.page m.pmSel; if inRange (s.getDom d).queues e.queue then e.word else 0
  | 0x38 => m.corr.read
  | 0x40 => m.uncorr.read
  | 0x48 => m.refused.read
  | 0x50 => m.lookups.read
  | 0x58 => m.pmMiss.read
  | 0x60 => m.bankWait.read
  | _ => 0

/-- A word of a set entry (R342). -/
def SetEnt.word (e : SetEnt) : Nat → Nat
  | 0 => at_ e.state 61 + at_ e.domain 56 + at_ e.model 32 + e.gen
  | 1 => e.ext.length
  | 2 => at_ e.adCount 32 + e.adLines
  | 3 => e.adBase
  | 4 => flag e.notify 63 + at_ e.notch 32 + e.notifyVal
  | 5 => e.cache
  | 6 => e.live
  | 7 => 0
  | n + 8 => let x := e.ext.getD n (0, 0); at_ x.2 32 + x.1

def State.buckReg (s : State) (d o : Nat) : Nat :=
  let b := s.getBuck d
  match o with
  | 0x08 => b.arg
  | 0x10 => at_ b.resGen 32 + at_ b.resSet 8 + b.resStatus
  | 0x18 => at_ b.selWord 8 + b.selSet
  | 0x20 => if (s.getSet b.selSet).domain = d then (s.getSet b.selSet).word b.selWord else 0
  | 0x28 => flag b.jobDev 63 + b.jobBase
  | 0x38 => at_ b.jobCons 32 + flag b.stopped 8 + b.stopStatus
  | 0x40 => b.err.read
  | 0x48 => b.err.w1
  | 0x50 => maskOf (fun i => b.released.contains (64 * (b.selWord % 4) + i)) 64
  | 0x58 => b.bytesIn.read
  | 0x60 => b.linesOut.read
  | 0x68 => b.sat.read
  | 0x70 => b.jobFail.read
  | _ => 0

/-! Stand windows (R94, R96, R120, R121, R154, R155, R186, R218, R250). -/

def State.hrReg (s : State) (st o : Nat) : Nat :=
  let t := s.getStand st
  let now := s.standNow st
  let busy := decide (now < t.passFree)
  match o with
  | 0x400 =>
    let dr := t.drains.find? fun x => decide (x.reads.length < x.rows)
    at_ ((dr.map fun x => (x.r0 + x.reads.length) % 32).getD 0) 8 + flag dr.isSome 7 + flag busy 6 + flag ((t.getBuf 1).full && decide ((t.getBuf 1).landed ≤ now)) 5 +
    flag ((t.getBuf 0).full && decide ((t.getBuf 0).landed ≤ now)) 4 + at_ t.activeBuf 3 + (if busy then t.passClass else 3)
  | 0x408 => t.hrRec.read
  | 0x410 => t.hrRec.w1
  | 0x418 => t.hrRec.w2
  | 0x420 => t.mismatch.read
  | 0x428 => t.tiles.read
  | 0x430 => t.entries.read
  | 0x438 => t.wwait.read
  | 0x440 => t.hrSat.read
  | 0x448 => t.hrNonfin.read
  | 0x450 => flag t.hrInject.arm 63 + t.hrInject.w
  | _ => 0

/-- WAIT_FTQ: an ED_TAKE at the head of the stream waits on an empty queue. -/
def State.waitsFtq (s : State) (st : Nat) : Bool :=
  s.streamLive st 1 && (match s.head st 1 with | some (.edTake ..) => ((s.getStand st).ftqHead (s.standNow st)).isNone | _ => false)

def State.edReg (s : State) (st o : Nat) : Nat :=
  let t := s.getStand st
  let slot := fun (k : Nat) => tget ({} : Slot) t.slots k
  match o with
  | 0x500 =>
    at_ (maskOf (fun k => (slot k).isOpen) 32) 32 + flag (s.waitsFtq st) 9 + flag (decide (s.standNow st < t.laneFree)) 8 +
    (firstBelow (fun k => (slot k).isOpen && (slot k).suspect) 32).getD 0
  | 0x508 => at_ ((t.ftq.head?.map (·.tag)).getD 0) 48 + flag ((t.ftq.head?.map (·.suspect)).getD false) 16 + t.ftq.length
  | 0x510 => t.edRec.read
  | 0x518 => t.edRec.w1
  | 0x520 => t.edOps.read
  | 0x528 => t.edBusy.read
  | 0x530 => t.residue.read
  | 0x538 => t.table.read
  | 0x540 => t.edSat.read
  | 0x548 => t.edNonfin.read
  | 0x550 => t.bound.read
  | 0x558 => flag t.edInject.arm 63 + t.edInject.w
  | _ => 0

def State.dkReg (s : State) (st o : Nat) : Nat :=
  let t := s.getStand st
  match o with
  | 0x600 => packOf 2 t.owner 32
  | 0x608 => packOf 1 t.cls_ 32
  | 0x610 => packOf 2 t.power 32
  | 0x618 => t.errRec.read
  | 0x620 => t.errRec.w1
  | 0x628 => t.refRec.read
  | 0x630 => t.refRec.w1
  | 0x638 => t.lines.read
  | 0x640 => t.atoms.read
  | 0x648 => t.corr.read
  | 0x650 => t.uncorr.read
  | 0x658 => t.refused.read
  | 0x660 => t.fence.read
  | 0x668 => flag t.dkInject.arm 63 + t.dkInject.w
  | 0x700 => t.dxSel
  | 0x708 => (tget [] t.desc (fld t.dxSel 14 3)).getD (fld t.dxSel 2 0) 0
  | 0x710 => t.ixRec.read
  | 0x718 => t.ixRec.w1
  | 0x720 => t.ixRec.w2
  | 0x728 => t.ixNull.read
  | 0x730 => t.ixFault.read
  | 0x738 => t.ixOver.read
  | 0x740 => t.ixLookup.read
  | _ => 0

def State.clReg (s : State) (st o : Nat) : Nat :=
  let t := s.getStand st
  let q := t.getStream
  match o with
  | 0x800 => packOf 8 (fun k => flag (q k).ended 7 + at_ (s.waitOf st k).code 4 + (q k).loops.length) 4
  | 0x808 => packOf 16 (fun k => (q k).pc) 4
  | 0x810 => t.ctrSel
  | 0x818 =>
    let c := if bit t.ctrSel 5 then t.getCred (fld t.ctrSel 4 0) else t.getTok (fld t.ctrSel 4 0)
    flag (c.suspect && !bit t.ctrSel 5) 16 + c.n
  | 0x820 => t.arSel
  | 0x828 => tget 0 t.ar t.arSel
  | 0x830 => packOf 16 (fun k => (q k).slipLast) 4
  | 0x838 => t.issued.read
  | 0x840 => t.tokWait.read
  | 0x848 => t.crdWait.read
  | 0x850 => t.taint.read
  | 0x858 => t.syncOvf.read
  | _ => 0

/-- Ports N, E, S, W of a stand's node whose links are crossings (R211, R221). -/
def standCross (st : Nat) : Nat := maskOf (fun o => ((nextHop (.node st) o 0).map (·.2.2.2)).getD false) 4

def State.flReg (s : State) (st o : Nat) : Nat :=
  let n := s.getNode (.node st)
  let c := (s.getStand st).ctx
  match o with
  | 0x900 => at_ (n.tracks.filter (!·.beyond)).length 16 + at_ n.kept.length 8 + standCross st
  | 0x908 => at_ ((c.map fun d => (s.getCtx d).resendW).getD 0) 32 + n.nRoutes
  | 0x910 => n.rec_.read
  | 0x918 => n.rec_.w1
  | 0x920 => n.slotSel
  | 0x928 =>
    let w := tget 0 (if bit n.slotSel 13 then n.routes else n.slots) (fld n.slotSel 11 0)
    if bit n.slotSel 12 then w / 2 ^ 64 % 2 ^ 64 else w % 2 ^ 64
  | 0x930 => n.flits.read
  | 0x938 => n.pkts.read
  | 0x940 => n.crcFail.read
  | 0x948 => n.resent.read
  | 0x950 => n.late.read
  | 0x958 => flag n.inject.arm 63 + n.inject.w
  | _ => 0

def State.standReg (s : State) (st o : Nat) : Nat :=
  match o / 0x100 with
  | 4 => s.hrReg st o
  | 5 => s.edReg st o
  | 6 | 7 => s.dkReg st o
  | 8 => s.clReg st o
  | 9 => s.flReg st o
  | _ => 0

/-! Security, host-port and management blocks (R496, R516, R517). -/

def State.secBoot (s : State) : Nat :=
  let x := s.sec
  at_ (if s.ready then x.bootMs else 0) 48 + at_ x.cause 36 + at_ (if x.stage = 15 then x.failCode else 0) 24 + at_ x.bState 18 + at_ x.aState 16 +
  at_ x.copy 8 + x.stage

def State.secReg (s : State) (o : Nat) : Nat :=
  let x := s.sec
  let cert := tget [] x.sects 8
  match o with
  | 0x00 => s.secBoot
  | 0x08 => x.seqA
  | 0x10 => x.seqB
  | 0x18 => num x.pubKey 0 8
  | 0x20 => num x.pubKey 8 8
  | 0x28 => num x.pubKey 16 8
  | 0x30 => num x.pubKey 24 8
  | 0x38 => at_ cert.length 32 + x.certSel
  | 0x40 => num cert (8 * x.certSel) 8
  | 0x48 => x.repairSel
  | 0x50 =>
    let i := tget 0 x.image x.repairSel
    let t := tget 0 x.tested x.repairSel
    flag (decide ((positions (i ||| t)).length ≥ 2)) 63 + at_ t 32 + i
  | _ => 0

def State.hostReg (s : State) (d o : Nat) : Nat :=
  let h := s.host
  match o with
  | 0x00 =>
    at_ (((List.range 16).filter fun e => (s.getDom e).valid).length - 1) 16 + flag (h.ideIo.contains d) 13 + flag h.ideCm 12 + at_ h.speed 8 +
    at_ h.width 2 + h.link
  | 0x08 => (tget ({} : Rec) h.err d).read
  | 0x10 => (tget ({} : Rec) h.err d).w1
  | 0x18 => ctrIn h.drops d
  | 0x20 => ctrIn h.memDrop d
  | 0x28 => ctrIn h.rdFail d
  | 0x30 => ctrIn h.upBytes d
  | _ => 0

def State.mgtReg (s : State) (d o : Nat) : Nat :=
  let m := s.mgmt
  match o with
  | 0x00 => at_ m.eid 56 + at_ m.dyn 42 + flag (s.sec.stage == 15) 7 + flag m.session 6
  | 0x08 => flag m.updOpen 63 + at_ m.updCopy 62 + m.updBytes
  | 0x10 => tget 0 m.railSel d
  | 0x18 => let r := tget (0, 0, 0) m.rails (tget 0 m.railSel d); at_ r.1 32 + at_ r.2.1 16 + r.2.2
  | 0x20 => at_ (m.logNext % 1024) 32 + satAt 32 m.logNext
  | 0x28 => m.cmds.read
  | _ => 0

/-! The whole space. -/

/-- What the register at a BAR0 offset reads as: instance `d`, read by LD `reader`, or by the management port where none is named.
Reserved places and write-only registers read as zero (R8, R9). -/
def State.readReg (s : State) (reader : Option Nat) (d off : Nat) : Nat :=
  match off / 0x10000 with
  | 0x00 => match off with | 0 => idDevice | 8 => idGeom | 0x10 => s.idState reader | _ => 0
  | 0x10 => s.ringReg (off % 0x10000)
  | 0x20 => s.cmpReg (off % 0x10000)
  | 0x30 => s.protReg reader (off % 0x10000)
  | 0x40 => s.lndReg d (off % 0x10000)
  | 0x44 => s.grReg d (off % 0x10000)
  | 0x48 => s.qReg d (off % 0x10000)
  | 0x58 => s.notchReg d (off % 0x10000)
  | 0x60 => s.tallyReg d (off % 0x10000)
  | 0x7C => s.bridgeReg d (off % 0x10000)
  | 0x7D => s.mapReg d (off % 0x10000)
  | 0x80 => s.memReg d (off % 0x10000)
  | 0x90 => s.buckReg d (off % 0x10000)
  | 0x120 => if off % 0x10000 ≥ 0x8000 then s.hostReg d (off % 0x8000) else s.secReg (off % 0x8000)
  | 0x121 => s.mgtReg d (off % 0x10000)
  | 0x130 => s.dbgReg d (off % 0x10000)
  | b =>
    if 0x50 ≤ b ∧ b < 0x58 ∧ off % 8 = 0 then s.notchView ((off - 0x500000) / 8)
    else if 0x70 ≤ b ∧ b < 0x7C then s.aelReg (b - 0x70) (off % 0x10000)
    else if 0xA0 ≤ b ∧ b < 0x120 then s.standReg ((off - 0xA00000) / 0x4000) (off % 0x4000)
    else 0

end Sys2Proof.Machine
end

