-- ==== Sys2Proof/Machine/RegWrite.lean ====
section
/-! DEFINITION. Writes to registers (R9, R95, R472, R482, R485, R486, R496, R506, R507, R517, R541, R542, R557, R558): what each port may
clear, what the owner of an LD may set, and what is dropped. -/

namespace Sys2Proof.Machine

/-! Counters of R95 and first-record registers (R557). A write of either kind answers whether the register is a counter, and what it
does; none where the register is of neither kind. -/

abbrev Clear := Option (Bool × State)

def ctrOf (f : State) : Clear := some (true, f)
def recOf (f : State) : Clear := some (false, f)

def State.clearCtx (s : State) (o v : Nat) : Clear :=
  if o % 0x40 = 0x38 then ctrOf (s.updCtx ((o - 0x1000) / 0x40) fun c => { c with ovr := c.ovr.write v }) else none

def State.clearCmp (s : State) (o v : Nat) : Clear :=
  let k := o / 0x100
  match o % 0x100 with
  | 0x10 => ctrOf (s.updCmp k fun c => { c with stretches := c.stretches.write v })
  | 0x18 => ctrOf (s.updCmp k fun c => { c with changes := c.changes.write v })
  | 0x20 => ctrOf (s.updCmp k fun c => { c with gated := c.gated.write v })
  | _ => none

def State.clearLnd (s : State) (d o v : Nat) : Clear :=
  match o with
  | 0x30 => recOf (s.updLnd d fun l => { l with err := l.err.write v })
  | 0x40 => ctrOf (s.updLnd d fun l => { l with arrivals := l.arrivals.write v })
  | 0x48 => ctrOf (s.updLnd d fun l => { l with admits := l.admits.write v })
  | 0x50 => ctrOf (s.updLnd d fun l => { l with rejects := l.rejects.write v })
  | 0x58 => ctrOf (s.updLnd d fun l => { l with defers := l.defers.write v })
  | 0x60 => ctrOf (s.updLnd d fun l => { l with late := l.late.write v })
  | 0x68 => ctrOf (s.updLnd d fun l => { l with cancels := l.cancels.write v })
  | 0x70 => ctrOf (s.updLnd d fun l => { l with heldCt := l.heldCt.write v })
  | 0x78 => ctrOf (s.updLnd d fun l => { l with records := l.records.write v })
  | _ => none

def State.clearGr (s : State) (d o v : Nat) : Clear :=
  match o with
  | 0x18 => recOf (s.updGr d fun g => { g with err := g.err.write v })
  | 0x28 => ctrOf (s.updGr d fun g => { g with positions := g.positions.write v })
  | 0x30 => ctrOf (s.updGr d fun g => { g with proposed := g.proposed.write v })
  | 0x38 => ctrOf (s.updGr d fun g => { g with accepted := g.accepted.write v })
  | 0x40 => ctrOf (s.updGr d fun g => { g with empty := g.empty.write v })
  | 0x48 => ctrOf (s.updGr d fun g => { g with mmiss := g.mmiss.write v })
  | 0x50 => ctrOf (s.updGr d fun g => { g with check := g.check.write v })
  | _ => none

def State.clearQ (s : State) (d o v : Nat) : Clear :=
  match o with
  | 0x20 => recOf (s.updQld d fun x => { x with err := x.err.write v })
  | 0x30 => ctrOf (s.updQld d fun x => { x with entries := x.entries.write v })
  | 0x38 => ctrOf (s.updQld d fun x => { x with expired := x.expired.write v })
  | 0x40 => ctrOf (s.updQld d fun x => { x with faults := x.faults.write v })
  | 0x48 => ctrOf (s.updQld d fun x => { x with dbDrop := x.dbDrop.write v })
  | 0x50 => ctrOf (s.updQld d fun x => { x with cmiss := x.cmiss.write v })
  | 0x58 => ctrOf (s.updQld d fun x => { x with drop := x.drop.write v })
  | _ => none

def State.clearNotch (s : State) (d o v : Nat) : Clear :=
  match o with
  | 0x08 => recOf (s.updNotchDom d fun x => { x with err := x.err.write v })
  | 0x18 => ctrOf (s.updNotchDom d fun x => { x with ops := x.ops.write v })
  | 0x20 => ctrOf (s.updNotchDom d fun x => { x with satCnt := x.satCnt.write v })
  | 0x28 => ctrOf (s.updNotchDom d fun x => { x with fence := x.fence.write v })
  | 0x30 => ctrOf (s.updNotchDom d fun x => { x with full := x.full.write v })
  | 0x38 => ctrOf (s.updNotchDom d fun x => { x with drop := x.drop.write v })
  | _ => none

def State.clearTally (s : State) (d o v : Nat) : Clear :=
  match o with
  | 0xB0 => ctrOf (s.updTally d fun t => { t with count := t.count.write v })
  | 0xB8 => ctrOf (s.updTally d fun t => { t with failed := t.failed.write v })
  | 0xC0 => ctrOf (s.updTally d fun t => { t with signed := t.signed.write v })
  | 0xC8 => ctrOf (s.updTally d fun t => { t with evtLost := t.evtLost.write v })
  | 0xD0 => ctrOf (s.updTally d fun t => { t with epochRef := t.epochRef.write v })
  | _ => none

def State.clearDbg (s : State) (d o v : Nat) : Clear :=
  match o with
  | 0x00 => recOf (s.updTally d fun t => { t with scout := t.scout.write v })
  | 0x10 => ctrOf (s.updTally d fun t => { t with findings := t.findings.write v })
  | _ => none

def State.clearAel (s : State) (p o v : Nat) : Clear :=
  match o with
  | 0x18 => recOf (s.updAel p fun a => { a with err := a.err.write v })
  | 0x28 => ctrOf (s.updAel p fun a => { a with framesTx := a.framesTx.write v })
  | 0x30 => ctrOf (s.updAel p fun a => { a with framesRx := a.framesRx.write v })
  | 0x38 => ctrOf (s.updAel p fun a => { a with fecCorr := a.fecCorr.write v })
  | 0x40 => ctrOf (s.updAel p fun a => { a with fecUncorr := a.fecUncorr.write v })
  | 0x48 => ctrOf (s.updAel p fun a => { a with resent := a.resent.write v })
  | 0x50 => ctrOf (s.updAel p fun a => { a with void := a.void.write v })
  | 0x58 => ctrOf (s.updAel p fun a => { a with tagDrop := a.tagDrop.write v })
  | _ => none

def State.clearBridge (s : State) (d o v : Nat) : Clear :=
  match o with
  | 0x10 => ctrOf (s.updBridge d fun b => { b with flits := b.flits.write v })
  | 0x18 => ctrOf (s.updBridge d fun b => { b with pkts := b.pkts.write v })
  | 0x20 => ctrOf (s.updBridge d fun b => { b with late := b.late.write v })
  | 0x28 => ctrOf (s.updBridge d fun b => { b with routef := b.routef.write v })
  | _ => none

def State.clearMem (s : State) (d o v : Nat) : Clear :=
  match o with
  | 0x10 => recOf (s.updMemDom d fun m => { m with rec_ := m.rec_.write v })
  | 0x38 => ctrOf (s.updMemDom d fun m => { m with corr := m.corr.write v })
  | 0x40 => ctrOf (s.updMemDom d fun m => { m with uncorr := m.uncorr.write v })
  | 0x48 => ctrOf (s.updMemDom d fun m => { m with refused := m.refused.write v })
  | 0x50 => ctrOf (s.updMemDom d fun m => { m with lookups := m.lookups.write v })
  | 0x58 => ctrOf (s.updMemDom d fun m => { m with pmMiss := m.pmMiss.write v })
  | 0x60 => ctrOf (s.updMemDom d fun m => { m with bankWait := m.bankWait.write v })
  | _ => none

/-- BUCK_RELEASED holds 256 bits, four words by WORD [1:0] of BUCK_SET_SEL. -/
def State.clearBuck (s : State) (d o v : Nat) : Clear :=
  match o with
  | 0x40 => recOf (s.updBuck d fun b => { b with err := b.err.write v })
  | 0x50 => recOf (s.updBuck d fun b =>
      { b with released := b.released.filter fun i => !(i / 64 == b.selWord % 4 && bit v (i % 64)) })
  | 0x58 => ctrOf (s.updBuck d fun b => { b with bytesIn := b.bytesIn.write v })
  | 0x60 => ctrOf (s.updBuck d fun b => { b with linesOut := b.linesOut.write v })
  | 0x68 => ctrOf (s.updBuck d fun b => { b with sat := b.sat.write v })
  | 0x70 => ctrOf (s.updBuck d fun b => { b with jobFail := b.jobFail.write v })
  | _ => none

def State.clearHr (s : State) (st o v : Nat) : Clear :=
  match o with
  | 0x408 => recOf (s.updStand st fun t => { t with hrRec := t.hrRec.write v })
  | 0x420 => ctrOf (s.updStand st fun t => { t with mismatch := t.mismatch.write v })
  | 0x428 => ctrOf (s.updStand st fun t => { t with tiles := t.tiles.write v })
  | 0x430 => ctrOf (s.updStand st fun t => { t with entries := t.entries.write v })
  | 0x438 => ctrOf (s.updStand st fun t => { t with wwait := t.wwait.write v })
  | 0x440 => ctrOf (s.updStand st fun t => { t with hrSat := t.hrSat.write v })
  | 0x448 => ctrOf (s.updStand st fun t => { t with hrNonfin := t.hrNonfin.write v })
  | _ => none

def State.clearEd (s : State) (st o v : Nat) : Clear :=
  match o with
  | 0x510 => recOf (s.updStand st fun t => { t with edRec := t.edRec.write v })
  | 0x520 => ctrOf (s.updStand st fun t => { t with edOps := t.edOps.write v })
  | 0x528 => ctrOf (s.updStand st fun t => { t with edBusy := t.edBusy.write v })
  | 0x530 => ctrOf (s.updStand st fun t => { t with residue := t.residue.write v })
  | 0x538 => ctrOf (s.updStand st fun t => { t with table := t.table.write v })
  | 0x540 => ctrOf (s.updStand st fun t => { t with edSat := t.edSat.write v })
  | 0x548 => ctrOf (s.updStand st fun t => { t with edNonfin := t.edNonfin.write v })
  | 0x550 => ctrOf (s.updStand st fun t => { t with bound := t.bound.write v })
  | _ => none

def State.clearDk (s : State) (st o v : Nat) : Clear :=
  match o with
  | 0x618 => recOf (s.updStand st fun t => { t with errRec := t.errRec.write v })
  | 0x628 => recOf (s.updStand st fun t => { t with refRec := t.refRec.write v })
  | 0x638 => ctrOf (s.updStand st fun t => { t with lines := t.lines.write v })
  | 0x640 => ctrOf (s.updStand st fun t => { t with atoms := t.atoms.write v })
  | 0x648 => ctrOf (s.updStand st fun t => { t with corr := t.corr.write v })
  | 0x650 => ctrOf (s.updStand st fun t => { t with uncorr := t.uncorr.write v })
  | 0x658 => ctrOf (s.updStand st fun t => { t with refused := t.refused.write v })
  | 0x660 => ctrOf (s.updStand st fun t => { t with fence := t.fence.write v })
  | 0x710 => recOf (s.updStand st fun t => { t with ixRec := t.ixRec.write v })
  | 0x728 => ctrOf (s.updStand st fun t => { t with ixNull := t.ixNull.write v })
  | 0x730 => ctrOf (s.updStand st fun t => { t with ixFault := t.ixFault.write v })
  | 0x738 => ctrOf (s.updStand st fun t => { t with ixOver := t.ixOver.write v })
  | 0x740 => ctrOf (s.updStand st fun t => { t with ixLookup := t.ixLookup.write v })
  | _ => none

def State.clearCl (s : State) (st o v : Nat) : Clear :=
  match o with
  | 0x838 => ctrOf (s.updStand st fun t => { t with issued := t.issued.write v })
  | 0x840 => ctrOf (s.updStand st fun t => { t with tokWait := t.tokWait.write v })
  | 0x848 => ctrOf (s.updStand st fun t => { t with crdWait := t.crdWait.write v })
  | 0x850 => ctrOf (s.updStand st fun t => { t with taint := t.taint.write v })
  | 0x858 => ctrOf (s.updStand st fun t => { t with syncOvf := t.syncOvf.write v })
  | _ => none

def State.clearFl (s : State) (st o v : Nat) : Clear :=
  let u := s.updNode (.node st)
  match o with
  | 0x910 => recOf (u fun n => { n with rec_ := n.rec_.write v })
  | 0x930 => ctrOf (u fun n => { n with flits := n.flits.write v })
  | 0x938 => ctrOf (u fun n => { n with pkts := n.pkts.write v })
  | 0x940 => ctrOf (u fun n => { n with crcFail := n.crcFail.write v })
  | 0x948 => ctrOf (u fun n => { n with resent := n.resent.write v })
  | 0x950 => ctrOf (u fun n => { n with late := n.late.write v })
  | _ => none

def State.clearStand (s : State) (st o v : Nat) : Clear :=
  match o / 0x100 with
  | 4 => s.clearHr st o v
  | 5 => s.clearEd st o v
  | 6 | 7 => s.clearDk st o v
  | 8 => s.clearCl st o v
  | 9 => s.clearFl st o v
  | _ => none

def State.clearHost (s : State) (d o v : Nat) : Clear :=
  match o with
  | 0x08 => recOf (s.updHost fun h => { h with err := tupd {} h.err d fun r => r.write v })
  | 0x18 => ctrOf (s.updHost fun h => { h with drops := tupd {} h.drops d fun c => c.write v })
  | 0x20 => ctrOf (s.updHost fun h => { h with memDrop := tupd {} h.memDrop d fun c => c.write v })
  | 0x28 => ctrOf (s.updHost fun h => { h with rdFail := tupd {} h.rdFail d fun c => c.write v })
  | 0x30 => ctrOf (s.updHost fun h => { h with upBytes := tupd {} h.upBytes d fun c => c.write v })
  | _ => none

/-- A write of `v` to a counter or record of instance `d`, by BAR0 offset. -/
def State.clearReg (s : State) (d off v : Nat) : Clear :=
  let o := off % 0x10000
  match off / 0x10000 with
  | 0x10 => if 0x1000 ≤ o ∧ o < 0x1400 then s.clearCtx o v else none
  | 0x20 => if o < 0x1400 then s.clearCmp o v else none
  | 0x40 => s.clearLnd d o v
  | 0x44 => s.clearGr d o v
  | 0x48 => s.clearQ d o v
  | 0x58 => s.clearNotch d o v
  | 0x60 => s.clearTally d o v
  | 0x7C => s.clearBridge d o v
  | 0x80 => s.clearMem d o v
  | 0x90 => s.clearBuck d o v
  | 0x120 => if o ≥ 0x8000 then s.clearHost d (o - 0x8000) v else none
  | 0x130 => s.clearDbg d o v
  | b =>
    if 0x70 ≤ b ∧ b < 0x7C then s.clearAel (b - 0x70) o v
    else if 0xA0 ≤ b ∧ b < 0x120 then s.clearStand ((off - 0xA00000) / 0x4000) (off % 0x4000) v
    else none

/-! Registers that the owner of an LD sets. -/

/-- RING_PLAN_CMD (R69). Codes 0 and 7 to 15, which no rule lists, change nothing (DESIGN CHOICE, notes/assumptions/58.md). -/
def planCmd (d v : Nat) (s : State) : State :=
  match fld v 3 0 with
  | 1 => load d (fld v 31 16) (fld v 37 32) s
  | 2 => arm d (bit v 48) s
  | 3 => go d s
  | 4 => stop d s
  | 5 => disarm d s
  | 6 => unload d s
  | _ => s

def ctxWrite (d o v : Nat) (s : State) : State :=
  match o with
  | 0x08 => planCmd d v s
  | 0x10 => s.updCtx d fun c => { c with start := v }
  | 0x18 => s.updCtx d fun c => { c with image := v }
  | _ => s

/-- RING_BCAST_CFG and RING_BCAST_CMD (R542, R558; RAIL by R236). -/
def bcastWrite (d o v : Nat) (s : State) : State :=
  match o with
  | 0x00 =>
    if fld v 60 49 < 2 ∨ fld v 62 61 = 3 then s
    else s.updBc d fun b =>
      { b with order := bit v 63, rail := fld v 62 61, margin := fld v 60 49, rootY := fld v 47 40, rootX := fld v 39 32
               lh := fld v 31 24, lw := fld v 23 16, first := fld v 15 0 }
  | 0x08 => match fld v 1 0 with | 1 => bcastStart d (bit v 8) s | 2 => bcastAbandon d s | _ => s
  | _ => s

/-- CMP_SHIFT_CMD and CMP_ROW_SEL (R541). -/
def repairWrite (d o v : Nat) (s : State) : State :=
  match o with
  | 0x3000 => if fld v 1 0 = 1 then shift d (fld v 13 9) (fld v 8 4) s else s
  | 0x3010 => s.updRepair fun r => { r with rowSel := fld v 4 0 }
  | _ => s

def lndWrite (d o v : Nat) (s : State) : State :=
  match o with
  | 0x00 => lndOutBase d v s
  | 0x08 => lndOutCfg d v s
  | 0x10 => lndOutIdx d v s
  | 0x18 => lndOutWb d v s
  | _ => s

def grWrite (d o v : Nat) (s : State) : State :=
  match o with
  | 0x00 => match fld v 1 0 with | 1 => graderLoad d s | 2 => graderUnload d (fld v 27 16) s | _ => s
  | 0x08 => s.updGr d fun g => { g with arg := fld v 47 0 }
  | _ => s

def qWrite (d o v : Nat) (s : State) : State :=
  match o with
  | 0x00 => s.updQld d fun x => { x with selQueue := fld v 15 0, selWord := fld v 36 32 }
  | 0x08 => qctxData d v s
  | 0x10 =>
    let q := fld v 47 32
    match fld v 2 0 with | 1 => enableQueue d q s | 2 => disableQueue d q s | 3 => resumeQueue d q s | 4 => resetQueue d q s | _ => s
  | 0x18 => qctxDoorbell d v s
  | _ => s

def notchWrite (d n v : Nat) (s : State) : State :=
  match fld v 63 62 with | 0 => hostNotchSet d n v s | 1 => hostNotchAdd d n v s | 2 => hostNotchMode d n v s | _ => s.hostNotch d n id

def tallyWrite (d o v : Nat) (s : State) : State :=
  match o with
  | 0x00 => tallyRingBase d v s
  | 0x08 => tallyRingCfg d v s
  | 0x10 => tallyRingIdx d v s
  | 0x18 => tallySignCfg d v s
  | 0x20 => tallySignCmd d v s
  | 0x30 => s.updTally d fun t => { t with headSel := fld v 2 0 }
  | 0x40 => tallyJrnBase d v s
  | 0x48 => tallyJrnCfg d v s
  | 0x50 => tallyJrnIdx d v s
  | 0x60 => tallyEvtBase d v s
  | 0x68 => tallyEvtCfg d v s
  | 0x70 => tallyEvtIdx d v s
  | 0x80 => s.updTally d fun t => { t with ledgerSel := fld v 10 0 }
  | 0x98 => tallyTwinCfg d v s
  | _ => s

/-- AEL_CMD (R284) by LD `ld`, or by the management port where none is named. -/
def aelCmd (p : Nat) (ld : Option Nat) (v : Nat) (s : State) : State :=
  match fld v 1 0 with
  | 1 => retrain p ld s
  | 2 => s.portCmd p ld fun s => s.updAel p fun a => { a with downAsked := true }
  | _ => s

def mapWrite (d o v : Nat) (s : State) : State :=
  match o with
  | 0x08 => s.updAelSt fun a => { a with mapSel := tput a.mapSel d (fld v 15 0) }
  | 0x10 => aelMapData d v s
  | _ => s

/-- BUCK_CMD (R346, R367); `jobs` as for SEAL and RELEASE. -/
def buckCmd (d v : Nat) (jobs : List Nat) (s : State) : State :=
  match fld v 2 0 with
  | 1 => createCmd d s
  | 2 => sealSet d (fld v 15 8) jobs s
  | 3 => switchSet d (fld v 15 8) s
  | 4 => drainModel d (fld v 47 32) s
  | 5 => releaseCmd d (fld v 15 8) jobs s
  | 6 => jobResume d s
  | _ => s

def buckWrite (d o v : Nat) (jobs : List Nat) (s : State) : State :=
  match o with
  | 0x00 => buckCmd d v jobs s
  | 0x08 => s.updBuck d fun b => { b with arg := v }
  | 0x18 => s.updBuck d fun b => { b with selSet := fld v 7 0, selWord := fld v 13 8 }
  | 0x28 => buckJobBase d v s
  | 0x30 => buckDoorbell d v s
  | _ => s

def standWrite (st o v : Nat) (s : State) : State :=
  match o with
  | 0x450 => standHrInject st v s
  | 0x558 => standEdInject st v s
  | 0x668 => standDkInject st v s
  | 0x700 => s.updStand st fun t => { t with dxSel := fld v 14 0 }
  | 0x810 => s.updStand st fun t => { t with ctrSel := fld v 5 0 }
  | 0x820 => s.updStand st fun t => { t with arSel := fld v 3 0 }
  | 0x920 => s.updNode (.node st) fun n => { n with slotSel := fld v 13 0 }
  | 0x958 => standFlInject st v s
  | _ => s

/-! Visibility (R472, R479, R482, R485, R486, R506, R517, R541). -/

/-- Whether an LD sees the register at a BAR0 offset. -/
def State.visible (s : State) (d off : Nat) : Bool :=
  let b := off / 0x10000
  let o := off % 0x10000
  let g := s.getDom d
  if b = 0x00 then true
  else if s.sec.stage = 15 then off ≤ 0x1200010 && decide (0x1200000 ≤ off)
  else if b = 0x120 ∨ b = 0x121 then true
  else if !s.ready then false
  else if b = 0x10 ∧ o = 0x10 then true
  else if b = 0x20 then (if o < 0x1000 then g.valid && bit g.stands (o / 0x100) else decide (o < 0x3000) || g.valid)
  else if b = 0x30 then o < 0x1000 || (decide (o < 0x5000) && (o - 0x1000) / 0x400 == d && g.valid)
  else if !g.valid then false
  else if b = 0x10 then
    if o < 0x1000 then true
    else if o < 0x2000 then (o - 0x1000) / 0x40 == d
    else (o - 0x2000) / 0x20 == d
  else if 0x50 ≤ b ∧ b < 0x58 then true
  else if 0x70 ≤ b ∧ b < 0x7C then s.aelDom (b - 0x70) == some d
  else if 0xA0 ≤ b ∧ b < 0x120 then bit g.stands (standCmp ((off - 0xA00000) / 0x4000))
  else true

/-- What LD `d` reads from a register: zero where it does not see it (R506), and from a notch of another domain (R299). -/
def State.ldRead (s : State) (d off : Nat) : Nat :=
  if !s.visible d off then 0
  else if 0x50 ≤ off / 0x10000 ∧ off / 0x10000 < 0x58 ∧ s.notchDomain ((off - 0x500000) / 8) ≠ some d then 0
  else s.readReg (some d) d off

/-- A write of LD `d` to a register of its block that is no counter and no record. -/
def ldSet (d off v : Nat) (jobs : List Nat) (s : State) : State :=
  let o := off % 0x10000
  match off / 0x10000 with
  | 0x10 => if o < 0x1000 then s else if o < 0x2000 then ctxWrite d (o % 0x40) v s else bcastWrite d (o % 0x20) v s
  | 0x20 => if o % 0x100 = 0x08 ∧ o < 0x1000 then s.hostDrop d 2 off else if o < 0x3000 then s else repairWrite d o v s
  | 0x30 => s.hostDrop d 2 off
  | 0x40 => lndWrite d o v s
  | 0x44 => grWrite d o v s
  | 0x48 => qWrite d o v s
  | 0x60 => tallyWrite d o v s
  | 0x7C => if o = 0 then s.updBridge d fun b => { b with sel := fld v 15 0 } else s
  | 0x7D => mapWrite d o v s
  | 0x80 => if o = 0x28 then s.updMemDom d fun m => { m with pmSel := fld v 23 0 } else s
  | 0x90 => buckWrite d o v jobs s
  | b =>
    if 0x50 ≤ b ∧ b < 0x58 then notchWrite d ((off - 0x500000) / 8) v s
    else if 0x70 ≤ b ∧ b < 0x7C then (if o = 0x60 then aelCmd (b - 0x70) (some d) v s else s)
    else if 0xA0 ≤ b ∧ b < 0x120 then standWrite ((off - 0xA00000) / 0x4000) (off % 0x4000) v s
    else s

/-- Blocks, or parts of them, that an LD reads and does not write (R20, R472, R496, R517). -/
def ldReadOnly (off : Nat) : Bool :=
  let b := off / 0x10000
  let o := off % 0x10000
  b == 0x00 || (b == 0x120 && decide (o < 0x8000)) || (b == 0x121 && o != 0x10) || (b == 0x20 && decide (0x1000 ≤ o ∧ o < 0x3000))

/-- A 64-bit write of LD `d` to BAR0 (R9, R506). Before READY a plan command is refused with WRONG_STATE (R482).
A write at an offset that is not a multiple of 8 changes nothing and is not counted (DESIGN CHOICE, notes/assumptions/60.md). -/
def bar0Write (d off v : Nat) (jobs : List Nat) (s : State) : State :=
  if off ≥ 2 ^ 25 ∨ off % 8 ≠ 0 then s
  else if !s.ready ∧ off = 0x101008 + 0x40 * d then planCmd d v s
  else if !s.visible d off || ldReadOnly off then s.hostDrop d 0 off
  else if off = 0x1210010 then
    if fld v 2 0 = 7 then s else { s with mgmt := { s.mgmt with railSel := tput s.mgmt.railSel d (fld v 2 0) } }
  else match s.clearReg d off v with
    | some r => r.2
    | none => ldSet d off v jobs s

/-- REGISTER_WRITE: LD `ld` writes `v` at an offset of BAR0 or BAR2 (R505). -/
def execRegisterWrite (ld bar off v : Nat) (jobs : List Nat) (s : State) : Host.Outcome State Fault Refusal :=
  .next (if bar = 2 then bar2Write ld off v s else if bar = 0 then bar0Write ld off (trunc 64 v) jobs s else s)

end Sys2Proof.Machine
end

