-- ==== Sys2Proof/Machine/Mgmt.lean ====
section
/-! DEFINITION. The management port: the I3C endpoint, MCTP control, and the Fjotal commands (R482, R494, R495, R510 to R515). -/

namespace Sys2Proof.Machine

def State.updMgmt (s : State) (f : Mgmt → Mgmt) : State := { s with mgmt := f s.mgmt }

/-- R482, R510: the endpoint answers from the start of stage 4, and in FAILED. -/
def State.answers (s : State) : Bool := decide (4 ≤ s.sec.stage)

/-- In FAILED the endpoint answers from mask ROM (R479). -/
def State.rom (s : State) : Bool := s.sec.stage == 15

/-! Responses (R511, R513). STATUS: 0 OK, 1 DENIED, 2 BAD_ARG, 3 WRONG_STATE, 4 BUSY, 5 COMMIT_FAIL. -/

/-- The response to a command; it completes (R517). -/
def State.respond (s : State) (cmd tag status : Nat) (data : List Byte) : State :=
  (s.emit (.fjotal cmd tag status data)).updMgmt fun m => { m with cmds := m.cmds.add 1 }

/-- A command that FAILED does not offer is DENIED there (R512); before stage 4 nothing answers. -/
def State.command4 (s : State) (cmd tag : Nat) (f : State → State) : State :=
  if !s.answers then s else if s.rom then s.respond cmd tag 1 [] else f s

/-- A command that is offered in FAILED too. -/
def State.command15 (s : State) (f : State → State) : State := if s.answers then f s else s

/-! Status and registers (R512, R514). -/

def getStatus (tag : Nat) (s : State) : State :=
  s.command15 fun s => s.respond 0x01 tag 0
    ((leBytes 8 s.secBoot) ++ leBytes 8 s.protCtrl ++ leBytes 8 s.thermWord ++ leBytes 8 s.ringAlign ++ leBytes 8 s.ring.count)

/-- Blocks with an instance for each domain or LD (R506): they need one to be named. -/
def perDomain (off : Nat) : Bool :=
  let b := off / 0x10000
  [0x40, 0x44, 0x48, 0x58, 0x60, 0x7C, 0x80, 0x90, 0x130].contains b || (b == 0x7D && decide (8 ≤ off % 0x10000 ∧ off % 0x10000 < 0x18)) ||
  (b == 0x120 && decide (0x8000 ≤ off % 0x10000)) || (b == 0x121 && decide (0x10 ≤ off % 0x10000 ∧ off % 0x10000 < 0x20))

/-- DOMAIN is a domain, or 0xFF for a device-wide instance; OFFSET names a register of BAR0. -/
def regArgOk (dom off : Nat) : Bool := (decide (dom < 16) || (dom == 0xFF && !perDomain off)) && off % 8 == 0 && decide (off < 2 ^ 25)

def readReg (tag dom off count : Nat) (s : State) : State :=
  s.command4 0x02 tag fun s =>
    if count = 0 ∨ 64 < count ∨ 2 ^ 25 < off + 8 * count ∨ !(List.range count).all fun i => regArgOk dom (off + 8 * i) then s.respond 0x02 tag 2 []
    else s.respond 0x02 tag 0 ((List.range count).map fun i => leBytes 8 (s.readReg none dom (off + 8 * i))).flatten

/-- R514: what WRITE_REG does: none where the write is DENIED. -/
def State.mgtWrite (s : State) (dom off v : Nat) : Option State :=
  if off = 0x202010 then
    some (s.updTherm fun t =>
      { t with warnSeen := t.warnSeen && !bit v 0, tripSeen := t.tripSeen && !bit v 1, critSeen := t.critSeen && !bit v 2 })
  else if 0x700000 ≤ off ∧ off < 0x7C0000 ∧ off % 0x10000 = 0x60 then some (aelCmd (off / 0x10000 - 0x70) none v s)
  else if off = 0x1210028 then (if v = 0 then some (s.updMgmt fun m => { m with cmds := m.cmds.write v }) else none)
  else match s.clearReg dom off v with
    | some (true, s') => if v = 0 then some s' else none
    | some (false, s') => some s'
    | none => none

def writeReg (tag dom off v : Nat) (s : State) : State :=
  s.command4 0x03 tag fun s =>
    if !regArgOk dom off then s.respond 0x03 tag 2 []
    else match s.mgtWrite dom off (trunc 64 v) with
      | some s' => s'.respond 0x03 tag 0 []
      | none => s.respond 0x03 tag 1 []

/-! Logs (R512). -/

def readTally (tag ctx back : Nat) (s : State) : State :=
  s.command4 0x04 tag fun s =>
    let us := tget [] s.mgmt.units ctx
    if 16 ≤ ctx ∨ 16 ≤ back then s.respond 0x04 tag 2 []
    else if us = [] then s.respond 0x04 tag 3 []
    else if us.length ≤ back then s.respond 0x04 tag 2 []
    else s.respond 0x04 tag 0 (us.getD back [])

def readLedger (tag i : Nat) (s : State) : State :=
  s.command4 0x05 tag fun s => if 256 ≤ i then s.respond 0x05 tag 2 [] else s.respond 0x05 tag 0 (s.ledgerBytes none i)

def readLog (tag i : Nat) (s : State) : State :=
  s.command15 fun s => if 1024 ≤ i then s.respond 0x06 tag 2 [] else s.respond 0x06 tag 0 (tget (zeros 32) s.mgmt.log i)

/-! Updates of the image (R494, R495). -/

/-- Update commands apply in READY and in FAILED. -/
def State.updatable (s : State) : Bool := s.ready || s.rom

/-- The state and SEQ that SEC_BOOT and SEC_IMAGE show of a copy. -/
def State.setCopy (s : State) (c st q : Nat) : State :=
  s.updSec fun x => if c = 0 then { x with aState := st, seqA := q } else { x with bState := st, seqB := q }

/-- UPDATE_BEGIN: the inactive copy is erased. In FAILED neither copy is booted, and the spec does not say which is written
(notes/assumptions/4.md). -/
def updateBegin (tag : Nat) (s : State) : State :=
  s.command15 fun s =>
    if !s.updatable then s.respond 0x10 tag 3 []
    else
      let (seed, s) := s.takeFree
      let c := if s.rom then (if Config.failedCopy seed then 1 else 0) else 1 - s.sec.copy
      let s : State := { s with flash := memClear s.flash (copyBase c) (copyBase c + 2 ^ 25) }
      ((s.setCopy c 1 0).updMgmt fun m => { m with updOpen := true, updCopy := c, updBytes := 0 }).respond 0x10 tag 0 []

/-- Bytes programmed into the copy of the open update. -/
def State.program (s : State) (off : Nat) (bs : List Byte) : State :=
  let s : State := { s with flash := flashProgram s.flash (copyBase s.mgmt.updCopy + off) bs }
  s.updMgmt fun m => { m with updBytes := m.updBytes + bs.length }

def updateWrite (tag off : Nat) (bs : List Byte) (s : State) : State :=
  s.command15 fun s =>
    if !s.updatable ∨ !s.mgmt.updOpen then s.respond 0x11 tag 3 []
    else if bs = [] ∨ 4096 < bs.length ∨ off < 4096 ∨ 2 ^ 25 < off + bs.length then s.respond 0x11 tag 2 []
    else (s.program off bs).respond 0x11 tag 0 []

/-- SEQ of the booted copy; 0 where none is booted. -/
def State.bootedSeq (s : State) : Nat := if s.rom then 0 else if s.sec.copy = 0 then s.sec.seqA else s.sec.seqB

/-- The first failing condition of R476 for the copy of the open update with a header, 7 for a SEQ that does not exceed the booted
one, and 0 for none. -/
def State.commitCheck (s : State) (hdr : List Byte) (seed : Option (List Byte)) : Nat :=
  let k := s.checkCopy (copyBase s.mgmt.updCopy) hdr seed
  if k ≠ 0 then k else if num hdr 8 8 ≤ s.bootedSeq then 7 else 0

/-- The header programmed, MAGIC last: a device-wide configuration change (R448). -/
def State.commit (s : State) (hdr : List Byte) : State :=
  let c := s.mgmt.updCopy
  let old := if c = 0 then s.sec.seqA else s.sec.seqB
  s.changeAll 16 (if c = 0 then 0x1200008 else 0x1200010) 0 old (num hdr 8 8) fun s =>
    (((s.program 4 (hdr.drop 4)).program 0 (hdr.take 4)).setCopy c 0 (num hdr 8 8)).updMgmt fun m => { m with updOpen := false }

/-- UPDATE_COMMIT; `seed` is what the PUF gives with the new copy's helper data (R491). -/
def updateCommit (tag : Nat) (hdr : List Byte) (seed : Option (List Byte)) (s : State) : State :=
  s.command15 fun s =>
    if !s.updatable ∨ !s.mgmt.updOpen then s.respond 0x12 tag 3 []
    else if hdr.length ≠ 4096 then s.respond 0x12 tag 2 []
    else
      let k := s.commitCheck hdr seed
      if k ≠ 0 then s.respond 0x12 tag 5 [BitVec.ofNat 8 k]
      else
        let s := s.commit hdr
        s.respond 0x12 tag (if s.mgmt.updOpen then 1 else 0) []

def updateAbort (tag : Nat) (s : State) : State :=
  s.command15 fun s =>
    if !s.updatable ∨ !s.mgmt.updOpen then s.respond 0x13 tag 3 []
    else (s.updMgmt fun m => { m with updOpen := false }).respond 0x13 tag 0 []

/-! Reset (R515). -/

/-- RESET in MODE 0. -/
def reset0 (tag : Nat) (e : BootEnv) (s : State) : State := s.command15 fun s => (s.respond 0x20 tag 0 []).restart 2 e

/-- RESET in MODE 1: at once where no plan runs. -/
def reset1 (tag : Nat) (e : BootEnv) (s : State) : State :=
  s.command15 fun s =>
    let s := s.respond 0x20 tag 0 []
    if !s.ready then s.restart 2 e
    else
      let s := stopForReset e s
      if s.repair.flushed then s.restart 2 e else s

/-- The reset that follows a flush, for the RESET that waits for it. -/
def State.resetDue (s : State) : Option BootEnv := if s.repair.flushed then s.repair.resetEnv else none

/-! MCTP control and I3C (R510, R511). -/

/-- MCTP_CONTROL: an endpoint ID set where one is given; the answer carries the endpoint ID. -/
def mctpControl (eid : Option Nat) (s : State) : State :=
  s.command15 fun s =>
    let s := match eid with | some e => s.updMgmt fun m => { m with eid := e % 256 } | none => s
    s.emit (.mctp [BitVec.ofNat 8 s.mgmt.eid])

/-- SETDASA at a static address. -/
def setdasa (addr dyn : Nat) (s : State) : State :=
  s.command15 fun s => if addr = 0x3A then s.updMgmt fun m => { m with dyn := dyn % 128 } else s

/-- ENTDAA: a target that holds no dynamic address takes one (PRESUMED of I3C, notes/assumptions/35.md). -/
def entdaa (dyn : Nat) (s : State) : State :=
  s.command15 fun s => if s.mgmt.dyn = 0 then s.updMgmt fun m => { m with dyn := dyn % 128 } else s

def execGetStatus (tag : Nat) (s : State) : Host.Outcome State Fault Refusal := .next (getStatus tag s)
def execReadReg (tag dom off count : Nat) (s : State) : Host.Outcome State Fault Refusal := .next (readReg tag dom off count s)
def execWriteReg (tag dom off v : Nat) (s : State) : Host.Outcome State Fault Refusal := .next (writeReg tag dom off v s)
def execReadTally (tag ctx back : Nat) (s : State) : Host.Outcome State Fault Refusal := .next (readTally tag ctx back s)
def execReadLedger (tag i : Nat) (s : State) : Host.Outcome State Fault Refusal := .next (readLedger tag i s)
def execReadLog (tag i : Nat) (s : State) : Host.Outcome State Fault Refusal := .next (readLog tag i s)
def execUpdateBegin (tag : Nat) (s : State) : Host.Outcome State Fault Refusal := .next (updateBegin tag s)
def execUpdateWrite (tag off : Nat) (bs : List Byte) (s : State) : Host.Outcome State Fault Refusal := .next (updateWrite tag off bs s)
def execUpdateCommit (tag : Nat) (hdr : List Byte) (seed : Option (List Byte)) (s : State) : Host.Outcome State Fault Refusal :=
  .next (updateCommit tag hdr seed s)
def execUpdateAbort (tag : Nat) (s : State) : Host.Outcome State Fault Refusal := .next (updateAbort tag s)
def execReset (tag : Nat) (e : BootEnv) (s : State) : Host.Outcome State Fault Refusal := .next (reset0 tag e s)
def execResetFlush (tag : Nat) (e : BootEnv) (s : State) : Host.Outcome State Fault Refusal := .next (reset1 tag e s)
def execMctpControl (eid : Option Nat) (s : State) : Host.Outcome State Fault Refusal := .next (mctpControl eid s)
def execSetdasa (addr dyn : Nat) (s : State) : Host.Outcome State Fault Refusal := .next (setdasa addr dyn s)
def execEntdaa (dyn : Nat) (s : State) : Host.Outcome State Fault Refusal := .next (entdaa dyn s)

end Sys2Proof.Machine
end

