-- ==== Sys2Proof/Machine/Spdm.lean ====
section
/-! DEFINITION. The SPDM 1.2 responder (R492, R493, R504). Of each response the model holds what the spec gives it; the message
formats are DMTF's and no part of the spec (notes/assumptions/36.md). -/

namespace Sys2Proof.Machine

/-- Request codes by which the model names a response. -/
def spdmError : Nat := 0x7F

/-- The transcript that a signature of the responder covers goes on with a message. -/
def State.heard (s : State) (bs : List Byte) : State := s.updMgmt fun m => { m with transcript := m.transcript ++ bs }

/-- A request: answered from stage 4 on, not in FAILED (R479), and with an error out of order. -/
def State.spdm (s : State) (inOrder : Bool) (f : State → State) : State :=
  if !s.answers || s.rom then s else if inOrder then f s else s.emit (.spdm spdmError [])

/-- A response that enters the transcript. -/
def State.answer (s : State) (code : Nat) (data : List Byte) : State := (s.emit (.spdm code data)).heard data

def State.cert (s : State) : List Byte := tget [] s.sec.sects 8

/-- GET_VERSION: version 1.2; a connection begins. -/
def getVersion (s : State) : State :=
  s.spdm true fun s => (s.updMgmt fun m => { m with transcript := [], settled := false, keyed := false }).answer 0x84 [0x12#8]

/-- Capabilities of R492: certificates, challenge, measurements with signature, encryption, authentication, key exchange; as the
model lists them: CERT, CHAL, MEAS, ENCRYPT, MAC, KEY_EX. -/
def spdmCaps : Nat := 0x3F

def State.begun (s : State) : Bool := s.mgmt.transcript != []

def getCapabilities (s : State) : State := s.spdm s.begun fun s => s.answer 0xE1 (leBytes 4 spdmCaps)

/-- NEGOTIATE_ALGORITHMS settles the algorithms of R492, in the order of its table: Ed25519, SHA-512, secp384r1, AES-256-GCM. -/
def negotiateAlgorithms (s : State) : State :=
  s.spdm s.begun fun s => (s.updMgmt fun m => { m with settled := true }).answer 0xE3 [1#8, 2#8, 3#8, 4#8]

/-- GET_DIGESTS: slot 0 holds the CERT chain. -/
def getDigests (s : State) : State := s.spdm s.mgmt.settled fun s => s.answer 0x81 (sha512 s.cert)

/-- GET_CERTIFICATE: a part of the chain of slot 0; other slots are empty. -/
def getCertificate (slot off len : Nat) (s : State) : State :=
  s.spdm (s.mgmt.settled && slot == 0 && decide (off < s.cert.length)) fun s => s.answer 0x82 ((s.cert.drop off).take len)

/-- A signature by the attestation key over the transcript (R489, R492). -/
def State.spdmSign (s : State) : List Byte := ed25519Sign s.sec.attSeed s.mgmt.transcript

/-- CHALLENGE with the requester's nonce. -/
def challenge (nonce : List Byte) (s : State) : State :=
  s.spdm s.mgmt.settled fun s =>
    let s := s.heard (nonce ++ sha512 s.cert)
    s.answer 0x83 (sha512 s.cert ++ s.spdmSign)

/-- R493: the measurement of an index. -/
def State.measure (s : State) (i : Nat) : List Byte :=
  let sect := fun t => tget [] s.sec.sects t
  match i with
  | 1 => leBytes 64 Config.romDigest.toNat
  | 2 => sha512 (sect 1)
  | 3 => s.sec.imageDigest
  | 4 => sha512 (sect 2)
  | 5 => sha512 ((List.range 32).map fun r => leBytes 4 (tget 0 s.sec.image r ||| tget 0 s.sec.tested r)).flatten
  | 6 => sha512 (sect 4)
  | _ => sha512 (sect 5 ++ sect 6)

/-- GET_MEASUREMENTS of one index, or of all with 0xFF; 0 asks for their number. `signed` asks for a signature. -/
def getMeasurements (i : Nat) (signed : Bool) (nonce : List Byte) (s : State) : State :=
  s.spdm (s.mgmt.settled && (decide (i ≤ 7) || i == 0xFF)) fun s =>
    let data := if i = 0 then [7#8] else if i = 0xFF then ((List.range 7).map fun k => s.measure (k + 1)).flatten else s.measure i
    let s := s.heard (nonce ++ data)
    s.emit (.spdm 0xE0 (data ++ if signed then s.spdmSign else []))

/-- KEY_EXCHANGE: the responder's share is from its random source. -/
def keyExchange (share : List Byte) (s : State) : State :=
  s.spdm (s.mgmt.settled && !s.mgmt.session) fun s =>
    let (seed, s) := s.takeFree
    let s := (s.heard (share ++ leBytes 64 (Config.freeRandom seed).toNat)).updMgmt fun m => { m with keyed := true }
    s.emit (.spdm 0xE4 (leBytes 64 (Config.freeRandom seed).toNat ++ s.spdmSign))

/-- FINISH; `ok`: the requester's verification data match the keys. -/
def finish (ok : Bool) (s : State) : State :=
  s.spdm (s.mgmt.keyed && ok) fun s => (s.updMgmt fun m => { m with keyed := false, session := true }).answer 0xE5 []

def endSession (s : State) : State :=
  s.spdm s.mgmt.session fun s => (s.updMgmt fun m => { m with session := false }).answer 0xEC []

/-- VENDOR_DEFINED_REQUEST: IDE_KM programs the key of CXL.cachemem, or of the selective stream of an LD (R504). -/
def vendorDefinedRequest (ld : Option Nat) (s : State) : State :=
  s.spdm s.mgmt.session fun s =>
    let s := s.updHost fun h => match ld with
      | none => { h with ideCm := true }
      | some d => { h with ideIo := if h.ideIo.contains d then h.ideIo else d :: h.ideIo }
    s.answer 0xFE []

def execGetVersion (s : State) : Host.Outcome State Fault Refusal := .next (getVersion s)
def execGetCapabilities (s : State) : Host.Outcome State Fault Refusal := .next (getCapabilities s)
def execNegotiateAlgorithms (s : State) : Host.Outcome State Fault Refusal := .next (negotiateAlgorithms s)
def execGetDigests (s : State) : Host.Outcome State Fault Refusal := .next (getDigests s)
def execGetCertificate (slot off len : Nat) (s : State) : Host.Outcome State Fault Refusal := .next (getCertificate slot off len s)
def execChallenge (nonce : List Byte) (s : State) : Host.Outcome State Fault Refusal := .next (challenge nonce s)
def execGetMeasurements (i : Nat) (signed : Bool) (nonce : List Byte) (s : State) : Host.Outcome State Fault Refusal :=
  .next (getMeasurements i signed nonce s)
def execKeyExchange (share : List Byte) (s : State) : Host.Outcome State Fault Refusal := .next (keyExchange share s)
def execFinish (ok : Bool) (s : State) : Host.Outcome State Fault Refusal := .next (finish ok s)
def execEndSession (s : State) : Host.Outcome State Fault Refusal := .next (endSession s)
def execVendorDefinedRequest (ld : Option Nat) (s : State) : Host.Outcome State Fault Refusal := .next (vendorDefinedRequest ld s)

end Sys2Proof.Machine
end

