-- ==== Sys2Proof/Machine/Dispatch.lean ====
section
/-! DEFINITION. What each command does: one arm for each constructor. -/

namespace Sys2Proof.Machine

def exec (i : Instr) (s : State) : Host.Outcome State Fault Refusal :=
  match i with
  | .ringBoundary => Sys2Proof.Machine.execRingBoundary s
  | .load d tag c => Sys2Proof.Machine.execLoad d tag c s
  | .arm d resume => Sys2Proof.Machine.execArm d resume s
  | .go d => Sys2Proof.Machine.execGo d s
  | .stop d => Sys2Proof.Machine.execStop d s
  | .disarm d => Sys2Proof.Machine.execDisarm d s
  | .unload d => Sys2Proof.Machine.execUnload d s
  | .abort p tag step => Sys2Proof.Machine.execAbort p tag step s
  | .instructionComplete st stream => Sys2Proof.Machine.execInstructionComplete st stream s
  | .hrLoad st h handle tile buf arEn areg => Sys2Proof.Machine.execHrLoad st h handle tile buf arEn areg s
  | .hrMul st h handle buf rows r0 init arEn areg => Sys2Proof.Machine.execHrMul st h handle buf rows r0 init arEn areg s
  | .hrAddx st h handle fp32 rows r0 init arEn areg => Sys2Proof.Machine.execHrAddx st h handle fp32 rows r0 init arEn areg s
  | .hrDrain st h handle rows r0 fmt sat adj push tag arEn areg => Sys2Proof.Machine.execHrDrain st h handle rows r0 fmt sat adj push tag arEn areg s
  | .drainRowCheck st => Sys2Proof.Machine.execDrainRowCheck st s
  | .standHrInject st v => Sys2Proof.Machine.execStandHrInject st v s
  | .edOpen st h slot handle out wrap arEn areg => Sys2Proof.Machine.execEdOpen st h slot handle out wrap arEn areg s
  | .edClose st h slot => Sys2Proof.Machine.execEdClose st h slot s
  | .edTake st h slot => Sys2Proof.Machine.execEdTake st h slot s
  | .edFma st o => Sys2Proof.Machine.execEdFma st o s
  | .edAdd st o => Sys2Proof.Machine.execEdAdd st o s
  | .edMul st o => Sys2Proof.Machine.execEdMul st o s
  | .edMin st o => Sys2Proof.Machine.execEdMin st o s
  | .edMax st o => Sys2Proof.Machine.execEdMax st o s
  | .edCmp st o => Sys2Proof.Machine.execEdCmp st o s
  | .edCsel st o => Sys2Proof.Machine.execEdCsel st o s
  | .edCvt st o => Sys2Proof.Machine.execEdCvt st o s
  | .edExp2 st o => Sys2Proof.Machine.execEdExp2 st o s
  | .edLog2 st o => Sys2Proof.Machine.execEdLog2 st o s
  | .edRcp st o => Sys2Proof.Machine.execEdRcp st o s
  | .edRsq st o => Sys2Proof.Machine.execEdRsq st o s
  | .edTanh st o => Sys2Proof.Machine.execEdTanh st o s
  | .edExpd st o => Sys2Proof.Machine.execEdExpd st o s
  | .edQmx st o => Sys2Proof.Machine.execEdQmx st o s
  | .edRsum st o => Sys2Proof.Machine.execEdRsum st o s
  | .edRssq st o => Sys2Proof.Machine.execEdRssq st o s
  | .edRmax st o => Sys2Proof.Machine.execEdRmax st o s
  | .edRmin st o => Sys2Proof.Machine.execEdRmin st o s
  | .edRcomb st o => Sys2Proof.Machine.execEdRcomb st o s
  | .edTopkf st o => Sys2Proof.Machine.execEdTopkf st o s
  | .standEdInject st v => Sys2Proof.Machine.execStandEdInject st v s
  | .skMove st h src dst sEn sReg dEn dReg dtok grain => Sys2Proof.Machine.execSkMove st h src dst sEn sReg dEn dReg dtok grain s
  | .skAtom st h op tgt src ret arEn areg imm => Sys2Proof.Machine.execSkAtom st h op tgt src ret arEn areg imm s
  | .skOwn st h owner mask => Sys2Proof.Machine.execSkOwn st h owner mask s
  | .skPwr st h state mask => Sys2Proof.Machine.execSkPwr st h state mask s
  | .bankTransitionDone st bank => Sys2Proof.Machine.execBankTransitionDone st bank s
  | .skScrub st h first lines => Sys2Proof.Machine.execSkScrub st h first lines s
  | .skBin st h key list pos b => Sys2Proof.Machine.execSkBin st h key list pos b s
  | .standDkInject st v => Sys2Proof.Machine.execStandDkInject st v s
  | .nop st k h => Sys2Proof.Machine.execNop st k h s
  | .clRing st k repeat_ => Sys2Proof.Machine.execClRing st k repeat_ s
  | .loop st k src sh count stampStep => Sys2Proof.Machine.execLoop st k src sh count stampStep s
  | .loopEnd st k => Sys2Proof.Machine.execLoopEnd st k s
  | .arSet st k stamp rd imm => Sys2Proof.Machine.execArSet st k stamp rd imm s
  | .arAddi st k stamp rd ra imm => Sys2Proof.Machine.execArAddi st k stamp rd ra imm s
  | .arAdd st k stamp rd ra rb => Sys2Proof.Machine.execArAdd st k stamp rd ra rb s
  | .arShl st k stamp rd ra sh => Sys2Proof.Machine.execArShl st k stamp rd ra sh s
  | .arShr st k stamp rd ra sh => Sys2Proof.Machine.execArShr st k stamp rd ra sh s
  | .arMuli st k stamp rd ra imm => Sys2Proof.Machine.execArMuli st k stamp rd ra imm s
  | .arBnd st k stamp rd ra clamp b => Sys2Proof.Machine.execArBnd st k stamp rd ra clamp b s
  | .arConst st k stamp rd sel => Sys2Proof.Machine.execArConst st k stamp rd sel s
  | .fgPost st h credit ctr amt route => Sys2Proof.Machine.execFgPost st h credit ctr amt route s
  | .fgNotch st h op notch ret route value => Sys2Proof.Machine.execFgNotch st h op notch ret route value s
  | .flitForward l out parity => Sys2Proof.Machine.execFlitForward l out parity s
  | .flitArrival st corrupt => Sys2Proof.Machine.execFlitArrival st corrupt s
  | .packetForward l out => Sys2Proof.Machine.execPacketForward l out s
  | .token l corrupt => Sys2Proof.Machine.execToken l corrupt s
  | .atomic st corrupt => Sys2Proof.Machine.execAtomic st corrupt s
  | .atomReply st corrupt => Sys2Proof.Machine.execAtomReply st corrupt s
  | .nack l corrupt => Sys2Proof.Machine.execNack l corrupt s
  | .flumeResend l out => Sys2Proof.Machine.execFlumeResend l out s
  | .standFlInject st v => Sys2Proof.Machine.execStandFlInject st v s
  | .frameReceive p slot f lost corr words => Sys2Proof.Machine.execFrameReceive p slot f lost corr words s
  | .resendReq p first count => Sys2Proof.Machine.execResendReq p first count s
  | .linkResend p => Sys2Proof.Machine.execLinkResend p s
  | .ringMark p ring gm hops locked arr => Sys2Proof.Machine.execRingMark p ring gm hops locked arr s
  | .probe p time turn => Sys2Proof.Machine.execProbe p time turn s
  | .echo p sent arr turn => Sys2Proof.Machine.execEcho p sent arr turn s
  | .discover p b => Sys2Proof.Machine.execDiscover p b s
  | .twin p ring dig => Sys2Proof.Machine.execTwin p ring dig s
  | .twinCompare d => Sys2Proof.Machine.execTwinCompare d s
  | .laneLockLoss p => Sys2Proof.Machine.execLaneLockLoss p s
  | .retrain p ld => Sys2Proof.Machine.execRetrain p ld s
  | .down p ld => Sys2Proof.Machine.execDown p ld s
  | .linkTrained p flight ok => Sys2Proof.Machine.execLinkTrained p flight ok s
  | .refLost => Sys2Proof.Machine.execRefLost s
  | .aelMapData d v => Sys2Proof.Machine.execAelMapData d v s
  | .notchAdd corrupt => Sys2Proof.Machine.execNotchAdd corrupt s
  | .notchSet corrupt => Sys2Proof.Machine.execNotchSet corrupt s
  | .notchRead corrupt => Sys2Proof.Machine.execNotchRead corrupt s
  | .notchWaitGe corrupt => Sys2Proof.Machine.execNotchWaitGe corrupt s
  | .notchReply st corrupt => Sys2Proof.Machine.execNotchReply st corrupt s
  | .hostNotchSet ld n v => Sys2Proof.Machine.execHostNotchSet ld n v s
  | .hostNotchAdd ld n v => Sys2Proof.Machine.execHostNotchAdd ld n v s
  | .hostNotchMode ld n v => Sys2Proof.Machine.execHostNotchMode ld n v s
  | .enable d q => Sys2Proof.Machine.execEnable d q s
  | .disable d q => Sys2Proof.Machine.execDisable d q s
  | .resume d q => Sys2Proof.Machine.execResume d q s
  | .queueReset d q => Sys2Proof.Machine.execQueueReset d q s
  | .qctxDoorbell d v => Sys2Proof.Machine.execQctxDoorbell d v s
  | .qctxData d v => Sys2Proof.Machine.execQctxData d v s
  | .request q => Sys2Proof.Machine.execRequest q s
  | .wait q => Sys2Proof.Machine.execWait q s
  | .signal q => Sys2Proof.Machine.execSignal q s
  | .bind q => Sys2Proof.Machine.execBind q s
  | .cancel q => Sys2Proof.Machine.execCancel q s
  | .queueWaitRelease q => Sys2Proof.Machine.execQueueWaitRelease q s
  | .waitExpired q => Sys2Proof.Machine.execWaitExpired q s
  | .requestFlit p corrupt => Sys2Proof.Machine.execRequestFlit p corrupt s
  | .memReadEntry u half => Sys2Proof.Machine.execMemReadEntry u half s
  | .memWriteEntry u half => Sys2Proof.Machine.execMemWriteEntry u half s
  | .selfRefreshEntry u => Sys2Proof.Machine.execSelfRefreshEntry u s
  | .create d => Sys2Proof.Machine.execCreate d s
  | .sealSet d idx hostJobs => Sys2Proof.Machine.execSeal d idx hostJobs s
  | .switch d idx => Sys2Proof.Machine.execSwitch d idx s
  | .drain d m => Sys2Proof.Machine.execDrain d m s
  | .release d idx hostJobs => Sys2Proof.Machine.execRelease d idx hostJobs s
  | .jobResume d => Sys2Proof.Machine.execJobResume d s
  | .buckJobDoorbell d v => Sys2Proof.Machine.execBuckJobDoorbell d v s
  | .convert d selfBad => Sys2Proof.Machine.execConvert d selfBad s
  | .copy d => Sys2Proof.Machine.execCopy d s
  | .adapter d selfBad => Sys2Proof.Machine.execAdapter d selfBad s
  | .buckerJobComplete d => Sys2Proof.Machine.execBuckerJobComplete d s
  | .build d => Sys2Proof.Machine.execBuild d s
  | .ticketReadbackComplete d => Sys2Proof.Machine.execTicketReadbackComplete d s
  | .stepRecord d => Sys2Proof.Machine.execStepRecord d s
  | .lndOutIdx d v => Sys2Proof.Machine.execLndOutIdx d v s
  | .lndOutBase d v => Sys2Proof.Machine.execLndOutBase d v s
  | .lndOutCfg d v => Sys2Proof.Machine.execLndOutCfg d v s
  | .lndOutWb d v => Sys2Proof.Machine.execLndOutWb d v s
  | .graderLoad d => Sys2Proof.Machine.execGraderLoad d s
  | .graderUnload d h => Sys2Proof.Machine.execGraderUnload d h s
  | .draft d bad => Sys2Proof.Machine.execDraft d bad s
  | .verify d bad => Sys2Proof.Machine.execVerify d bad s
  | .graderPhaseComplete d => Sys2Proof.Machine.execGraderPhaseComplete d s
  | .signature d => Sys2Proof.Machine.execSignature d s
  | .tallySignCmd d v => Sys2Proof.Machine.execTallySignCmd d v s
  | .tallyRingBase d v => Sys2Proof.Machine.execTallyRingBase d v s
  | .tallyRingCfg d v => Sys2Proof.Machine.execTallyRingCfg d v s
  | .tallyRingIdx d v => Sys2Proof.Machine.execTallyRingIdx d v s
  | .tallySignCfg d v => Sys2Proof.Machine.execTallySignCfg d v s
  | .tallyJrnBase d v => Sys2Proof.Machine.execTallyJrnBase d v s
  | .tallyJrnCfg d v => Sys2Proof.Machine.execTallyJrnCfg d v s
  | .tallyJrnIdx d v => Sys2Proof.Machine.execTallyJrnIdx d v s
  | .tallyEvtBase d v => Sys2Proof.Machine.execTallyEvtBase d v s
  | .tallyEvtCfg d v => Sys2Proof.Machine.execTallyEvtCfg d v s
  | .tallyEvtIdx d v => Sys2Proof.Machine.execTallyEvtIdx d v s
  | .tallyTwinCfg d v => Sys2Proof.Machine.execTallyTwinCfg d v s
  | .stretch k => Sys2Proof.Machine.execStretch k s
  | .tempSample tj hbm rails => Sys2Proof.Machine.execTempSample tj hbm rails s
  | .resetRelease e => Sys2Proof.Machine.execResetRelease e s
  | .coldReset => Sys2Proof.Machine.execColdReset s
  | .railUndervolt => Sys2Proof.Machine.execRailUndervolt s
  | .pwrWarn => Sys2Proof.Machine.execPwrWarn s
  | .pwrWarnRelease => Sys2Proof.Machine.execPwrWarnRelease s
  | .updateBegin tag => Sys2Proof.Machine.execUpdateBegin tag s
  | .updateWrite tag off bs => Sys2Proof.Machine.execUpdateWrite tag off bs s
  | .updateCommit tag hdr seed => Sys2Proof.Machine.execUpdateCommit tag hdr seed s
  | .updateAbort tag => Sys2Proof.Machine.execUpdateAbort tag s
  | .getStatus tag => Sys2Proof.Machine.execGetStatus tag s
  | .readReg tag dom off count => Sys2Proof.Machine.execReadReg tag dom off count s
  | .writeReg tag dom off v => Sys2Proof.Machine.execWriteReg tag dom off v s
  | .readTally tag ctx back => Sys2Proof.Machine.execReadTally tag ctx back s
  | .readLedger tag idx => Sys2Proof.Machine.execReadLedger tag idx s
  | .readLog tag idx => Sys2Proof.Machine.execReadLog tag idx s
  | .reset tag e => Sys2Proof.Machine.execReset tag e s
  | .resetFlush tag e => Sys2Proof.Machine.execResetFlush tag e s
  | .mctpControl eid => Sys2Proof.Machine.execMctpControl eid s
  | .setdasa addr dyn => Sys2Proof.Machine.execSetdasa addr dyn s
  | .entdaa dyn => Sys2Proof.Machine.execEntdaa dyn s
  | .getVersion => Sys2Proof.Machine.execGetVersion s
  | .getCapabilities => Sys2Proof.Machine.execGetCapabilities s
  | .negotiateAlgorithms => Sys2Proof.Machine.execNegotiateAlgorithms s
  | .getDigests => Sys2Proof.Machine.execGetDigests s
  | .getCertificate slot off len => Sys2Proof.Machine.execGetCertificate slot off len s
  | .challenge nonce => Sys2Proof.Machine.execChallenge nonce s
  | .getMeasurements idx signed nonce => Sys2Proof.Machine.execGetMeasurements idx signed nonce s
  | .keyExchange share => Sys2Proof.Machine.execKeyExchange share s
  | .finish ok => Sys2Proof.Machine.execFinish ok s
  | .endSession => Sys2Proof.Machine.execEndSession s
  | .vendorDefinedRequest ld => Sys2Proof.Machine.execVendorDefinedRequest ld s
  | .perstN => Sys2Proof.Machine.execPerstN s
  | .hotReset e => Sys2Proof.Machine.execHotReset e s
  | .flr d => Sys2Proof.Machine.execFlr d s
  | .hostLinkDown => Sys2Proof.Machine.execHostLinkDown s
  | .cxlMemAccess d off write be bs => Sys2Proof.Machine.execCxlMemAccess d off write be bs s
  | .snoop => Sys2Proof.Machine.execSnoop s
  | .hostReadCompletion w data => Sys2Proof.Machine.execHostReadCompletion w data s
  | .hostReadTimeout w => Sys2Proof.Machine.execHostReadTimeout w s
  | .msixUnmask ld v => Sys2Proof.Machine.execMsixUnmask ld v s
  | .shift d row pos => Sys2Proof.Machine.execShift d row pos s
  | .rowShifted => Sys2Proof.Machine.execRowShifted s
  | .start d resume => Sys2Proof.Machine.execStart d resume s
  | .abandon d => Sys2Proof.Machine.execAbandon d s
  | .controlArm corrupt => Sys2Proof.Machine.execControlArm corrupt s
  | .controlGo corrupt => Sys2Proof.Machine.execControlGo corrupt s
  | .confirm corrupt => Sys2Proof.Machine.execConfirm corrupt s
  | .extest => Sys2Proof.Machine.execExtest s
  | .bypass e => Sys2Proof.Machine.execBypass e s
  | .idcode e => Sys2Proof.Machine.execIdcode e s
  | .samplePreload e => Sys2Proof.Machine.execSamplePreload e s
  | .registerWrite ld bar off v jobs => Sys2Proof.Machine.execRegisterWrite ld bar off v jobs s
  | .perstNDeassert e => Sys2Proof.Machine.execPerstNDeassert e s
  | .hostLinkUp speed width => Sys2Proof.Machine.execHostLinkUp speed width s
  | .referenceReturn => Sys2Proof.Machine.execReferenceReturn s
  | .pwrWarnHalt => Sys2Proof.Machine.execPwrWarnHalt s
  | .controlBlockCheckFail p => Sys2Proof.Machine.execControlBlockCheckFail p s
  | .ideCheckFail => Sys2Proof.Machine.execIdeCheckFail s
  | .fabricManagerCommand binding => Sys2Proof.Machine.execFabricManagerCommand binding s
  | .promptStaged q => Sys2Proof.Machine.execPromptStaged q s
  | .trstN e => Sys2Proof.Machine.execTrstN e s

end Sys2Proof.Machine
end

