-- ==== Sys2Proof/Machine/Step.lean ====
section
/-! DEFINITION. One step of the block: the command at the front of the queue; on an empty queue, one edge of the root clock. -/

namespace Sys2Proof.Machine

/-- What happens with no command waiting (DESIGN CHOICE, notes/assumptions/28.md): the reset that ends a RESET in MODE 1 (R515), or one
root edge. -/
def State.idle (s : State) : State :=
  match s.resetDue with
  | some e => s.restart 2 e
  | none => tick s

/-- The step: the command in front runs on the state with the rest of the queue. -/
def step (s : State) : Host.Outcome State Fault Refusal :=
  match s.pending with
  | [] => .next s.idle
  | c :: cs => exec c { s with pending := cs }

/-- The state with the command that a word spells put in front of its queue; no row of the table gives a command bits, so that no word
spells one. -/
def State.withFetchWord (s : State) (nbits w : Nat) : State :=
  match decodeTableWord nbits w with
  | some c => { s with pending := c :: s.pending }
  | none => s

end Sys2Proof.Machine
end

