-- ==== Sys2Proof/Safety.lean ====
section
/-! DEFINITION. What counts as a safe run, and the invariants of the whole device, in the terms that the statements use. -/

namespace Sys2Proof

open Machine

/-- A step that neither stops nor refuses. -/
def Steps (s t : State) : Prop := step s = .next t

/-- The protection table as boot writes it from the PROT section of a copy (R486, R487): one entry for each valid domain. -/
def protTable (b : List Byte) : Tab Dom :=
  (List.range 16).filterMap fun d => let g := protDom b d; if g.valid then some (d, g) else none

/-- The table in force is the booted image's while the device is locked, and a device held in reset is not locked (R482, R486). -/
def LockInv (s : State) : Prop :=
  (s.sec.locked = true → s.prot = protTable (tget [] s.sec.sects 2)) ∧ (s.pins.held = true → s.sec.locked = false)

/-- Nothing of the device outside its stands, its network and the records of the hub has changed, and no command was taken or added. -/
structure DeviceKept (s t : State) : Prop where
  ring : t.ring = s.ring
  cmp : t.cmp = s.cmp
  therm : t.therm = s.therm
  repair : t.repair = s.repair
  bcast : t.bcast = s.bcast
  mem : t.mem = s.mem
  ael : t.ael = s.ael
  weight : t.weight = s.weight
  notch : t.notch = s.notch
  queue : t.queue = s.queue
  hub : t.hub = s.hub
  prot : t.prot = s.prot
  sec : t.sec = s.sec
  flash : t.flash = s.flash
  pins : t.pins = s.pins
  pending : t.pending = s.pending

/-- Every stand but one is as it was, to the last byte of its Deck. -/
def OthersKept (s t : State) (st : Nat) : Prop := ∀ j, j ≠ st → t.getStand j = s.getStand j

/-- What no instruction of a stand changes of it: its plan context, its cut lists and descriptors, its bank classes. -/
def PlanKept (s t : State) (st : Nat) : Prop :=
  (t.getStand st).ctx = (s.getStand st).ctx ∧ (t.getStand st).cuts = (s.getStand st).cuts ∧ (t.getStand st).desc = (s.getStand st).desc ∧
  (t.getStand st).cls = (s.getStand st).cls

/-- R195: an instruction with header `h` has taken its tokens and its credits, and no other counter of the stand has changed. -/
def Consumed (s t : State) (st : Nat) (h : Hdr) (r : Option Nat) : Prop :=
  (∀ i, (t.getStand st).getTok i = if i = h.wt ∧ h.wt ≠ 0 then ((s.getStand st).getTok i).take (tokNeed h r) else (s.getStand st).getTok i) ∧
  ∀ i, (t.getStand st).getCred i = if i = h.wc ∧ h.wc ≠ 0 then ((s.getStand st).getCred i).take (credNeed h) else (s.getStand st).getCred i

/-- R43, R47, R189, R190, R195, R218: stream `k` of a stand issues an instruction with header `h`: it goes to the next slot of its section, can issue again in
the next kept cycle, counts the slip, and its section and loops stay; the tokens and credits are taken, STAND_CL_ISSUED counts one, no other stream moves. -/
def Issues (s t : State) (st k : Nat) (h : Hdr) (r : Option Nat) : Prop :=
  Consumed s t st h r ∧
  (t.getStand st).issued = (s.getStand st).issued.add 1 ∧
  (let q := (s.getStand st).getStream k
   (t.getStand st).getStream k =
     { q with pc := q.pc + 1, slip := max q.slip (satAt 16 (s.standNow st - effStamp h q.loops)), next := s.after st (s.standNow st) 1
              free := ((t.getStand st).getStream k).free }) ∧
  ∀ j, j ≠ k → (t.getStand st).getStream j = (s.getStand st).getStream j

/-- R203: the instruction of stream `k` that has issued is in flight, under the stand's next number, with the counters it posts to; what was in flight
before still is. -/
def InFlight (s t : State) (st k pt pc : Nat) : Prop :=
  (t.getStand st).nextOp = (s.getStand st).nextOp + 1 ∧
  (∀ o ∈ (s.getStand st).ops, o.id ≠ (s.getStand st).nextOp → o ∈ (t.getStand st).ops) ∧
  ∃ o ∈ (t.getStand st).ops, o.id = (s.getStand st).nextOp ∧ o.stream = k ∧ o.pt = pt ∧ o.pc = pc

/-- The numbers of a stand's operations in flight, of its instructions at work and of its drains lie below the number that the next one takes; no two
instructions at work have the same, and the one at work under a drain's number is that HR_DRAIN. -/
def OpNumbers (s : State) : Prop :=
  ∀ st, let t := s.getStand st
    (∀ o ∈ t.ops, o.id < t.nextOp) ∧ (∀ j ∈ t.jobs, j.id < t.nextOp) ∧ (∀ d ∈ t.drains, d.opId < t.nextOp) ∧ (t.jobs.map (·.id)).Nodup ∧
    ∀ d ∈ t.drains, ∀ j ∈ t.jobs, j.id = d.opId → j.kind = .drain

/-- The instruction that has issued is at work (R91, R118, R203): of the acts it was given, in order, those of its issue cycle may be done. -/
def AtWork (s t : State) (st k : Nat) (kind : JobKind) (acts : List (Nat × Act)) : Prop :=
  ∃ j, (t.getStand st).getJob (s.getStand st).nextOp = some j ∧ j.stream = k ∧ j.kind = kind ∧ j.at_ = s.standNow st ∧
    ∃ n, j.acts = acts.drop n ∧ ∀ a ∈ acts.take n, a.1 ≤ s.standNow st

/-- The Deck of a stand is as it was: its bytes, its damage, and the owner and power state of every bank. -/
def DeckKept (s t : State) (st : Nat) : Prop :=
  (t.getStand st).mem = (s.getStand st).mem ∧ (t.getStand st).flip = (s.getStand st).flip ∧ (t.getStand st).bad = (s.getStand st).bad ∧
  (t.getStand st).own = (s.getStand st).own ∧ (t.getStand st).pwr = (s.getStand st).pwr

/-- What the issue of an instruction of a stand leaves as it was: the device outside the stand, its plan's other contexts among it, and of the stand its
plan, its Deck and the pending changes of its banks. -/
structure IssueFrame (s t : State) (st : Nat) : Prop where
  device : DeviceKept s t
  others : OthersKept s t st
  plan : PlanKept s t st
  deck : DeckKept s t st
  contexts : ∀ d, (s.getStand st).ctx ≠ some d → t.getCtx d = s.getCtx d ∧ t.getTally d = s.getTally d

/-- The address registers, accumulator rows and weight buffers of a stand are as they were. -/
def RegsKept (s t : State) (st : Nat) : Prop :=
  (t.getStand st).ar = (s.getStand st).ar ∧ (t.getStand st).acc = (s.getStand st).acc ∧ (t.getStand st).buf = (s.getStand st).buf

/-- The Deck of a stand holds no error, and no injection into it is armed. -/
def Undamaged (s : State) (st : Nat) : Prop := (s.getStand st).flip = [] ∧ (s.getStand st).bad = [] ∧ (s.getStand st).dkInject.arm = false

/-- A port of an undamaged Deck may read the given lines (R129). -/
def Readable (s : State) (st port : Nat) (ls : List Int) : Prop :=
  Undamaged s st ∧ ∀ l ∈ ls, (s.getStand st).refusal port (l * 512) 0 false false = none

/-- The byte that a list of byte writes leaves at an address: the last one there. -/
def lastWrite (ws : Writes) (a : Int) : Option Byte := (ws.reverse.find? fun w => w.1 == a).map (·.2)

/-- The byte writes that acts make: the enabled bytes of each line written. -/
def writesOf (as : List (Nat × Act)) : Writes :=
  (as.map fun a => match a.2 with
    | .write _ l img be => (List.range 512).filterMap fun (i : Nat) =>
        if bit be i then some (512 * l + (i : Int), BitVec.ofNat 8 (img / 2 ^ (8 * i))) else none
    | _ => []).flatten

/-- Acts that write exactly the bytes of `ws` through a port: no byte more, none less, and of two writes to a byte the later one. -/
def WritesExactly (port : Nat) (as : List (Nat × Act)) (ws : Writes) : Prop :=
  (∀ a ∈ as, ∃ l img be, a.2 = .write port l img be) ∧ ∀ x, lastWrite (writesOf as) x = lastWrite ws x

/-- The instruction at the head of stream `k` of a stand is `i`, and nothing holds it (R43): it issues in this cycle. -/
def Goes (s : State) (st k : Nat) (i : Instr) : Prop := s.isHead st k i = true ∧ s.holdOf st k i = .go

/-- The rest of a stand's units: accumulators, weight buffers, slots, finished-tile queue, drains and address registers. -/
def UnitsKept (s t : State) (st : Nat) : Prop :=
  RegsKept s t st ∧ (t.getStand st).slots = (s.getStand st).slots ∧ (t.getStand st).ftq = (s.getStand st).ftq ∧
  (t.getStand st).drains = (s.getStand st).drains

/-- The commands that reset the device or release it from reset (R482, R503, R515, R550, R551, R556). -/
def resets : Instr → Bool
  | .resetRelease _ | .coldReset | .railUndervolt | .perstN | .perstNDeassert _ | .hotReset _ | .reset _ _ | .resetFlush _ _ | .extest
  | .bypass _ | .idcode _ | .samplePreload _ | .trstN _ => true
  | _ => false

/-- The commands of an image update that write the flash (R494). -/
def writesFlash : Instr → Bool
  | .updateBegin _ | .updateWrite _ _ _ | .updateCommit _ _ _ => true
  | _ => false

/-- R450: an event of code `code` has been raised for context `d`: the step counts it, and the event ring of the LD takes its record, or where the
ring has no room the loss is counted. -/
def Raised (s t : State) (d code unit cyc i1 i2 : Nat) : Prop :=
  (t.getTally d).acc.events = satAt 32 ((s.getTally d).acc.events + 1) ∧
  ((s.getTally d).evt.free = 0 → (t.getTally d).evtLost = (s.getTally d).evtLost.add 1) ∧
  ((s.getTally d).evt.free ≠ 0 → ∃ more, t.out = s.out ++ Emit.hostWrite d ((s.getTally d).evt.addr 32 (s.getTally d).evt.prod)
    (evtRecord code d unit s.ring.count cyc i1 i2) :: more)

/-- R432: the step of context `d` is FAILED with a cause, unless an earlier cause stands. -/
def Failed (s t : State) (d cause unit : Nat) : Prop :=
  (t.getTally d).acc.failed = true ∧
  (t.getTally d).acc.cause = (if (s.getTally d).acc.cause = 0 then cause else (s.getTally d).acc.cause) ∧
  (t.getTally d).acc.causeUnit = (if (s.getTally d).acc.cause = 0 then unit else (s.getTally d).acc.causeUnit)

/-- What a counter holds with every post of the running cycle (R196). -/
def Cnt.total (c : Cnt) : Nat := c.n + (c.posts.map (·.k)).foldl (· + ·) 0

/-- A configuration change of domain `d` has been accepted (R447 to R449): its epoch goes up by one, the ledger has one entry more, and outside the
tally and journal unit, the ledger and the hub's units nothing changes. -/
def Changed (s t : State) (d : Nat) : Prop :=
  (t.getTally d).epoch = (s.getTally d).epoch + 1 ∧ t.ledger.next = (s.ledger.next + 1) % 2 ^ 32 ∧ (t.getTally d).acc.epochMoved = true ∧
  (∀ e, e ≠ d → t.getTally e = s.getTally e) ∧ t = { s with tally := t.tally, ledger := t.ledger, hub := t.hub }

/-- A packet that is the next of its kind to be looked at where it is delivered: it has come, nothing kept for its channel goes first, and no earlier packet of
its channel is still in the buffer (R240). -/
def FirstAt (s : State) (l : Loc) (want : Payload → Bool) (p : Packet) : Prop :=
  ((s.getNode l).kept.find? fun q => want q.payload && !(s.getNode l).holds q && !(s.getNode l).behind q) = none ∧
  (s.net.pkts.find? fun q => q.loc == l && l.delivers && decide (q.ready ≤ s.time) && want q.payload) = some p ∧
  ((s.net.pkts.takeWhile (· != p)).any fun q => q.loc == l && q.chan == p.chan) = false

/-- A packet that is given out: the next of its kind, intact, no injection treats it as damaged, the fence of a stand lets it in, and its channel waits for
nothing earlier (R144, R240, R243). -/
def GivenOut (s : State) (l : Loc) (want : Payload → Bool) (p : Packet) : Prop :=
  FirstAt s l want p ∧ p.intact = true ∧ s.flInjects l true 0 = false ∧ (s.getNode l).holds p = false ∧ (s.getNode l).behind p = false ∧
  ∀ st, l = .stand st → (s.getStand st).ctx = some p.dom

/-- Queue `q` of domain `d` has gone to FAULTED with a status of R306 at the entry of index `idx`; no other field of its context and no other queue has
changed. With no error in DRAM the fault raises QUEUE_FAULT and nothing else. -/
def QueueFaulted (s t : State) (d q status idx : Nat) : Prop :=
  t.getQueue q = { s.getQueue q with state := 3, status := status, faultIdx := idx } ∧ (∀ j, j ≠ q → t.getQueue j = s.getQueue j) ∧
  (s.mem.flip = [] → Raised s t d 0x0405 noUnit (s.getCmp 19).loc q status) ∧ t.stand = s.stand ∧ t.ctx = s.ctx ∧ t.notch = s.notch ∧ t.hub = s.hub ∧
  t.prot = s.prot ∧ t.pending = s.pending

/-- The compute operations of the Edger, with what the model calls each. -/
def edgerOps : List (EdKind × (Nat → EdOp → Instr)) :=
  [(.fma, .edFma), (.add, .edAdd), (.mul, .edMul), (.min, .edMin), (.max, .edMax), (.cmp, .edCmp), (.csel, .edCsel), (.cvt, .edCvt)] ++
  [(.exp2, .edExp2), (.log2, .edLog2), (.rcp, .edRcp), (.rsq, .edRsq), (.tanh, .edTanh), (.expd, .edExpd), (.qmx, .edQmx)] ++
  [(.rsum, .edRsum), (.rssq, .edRssq), (.rmax, .edRmax), (.rmin, .edRmin), (.rcomb, .edRcomb), (.topkf, .edTopkf)]

/-- The slots an operation moves on, each by how many elements: its sources by what it consumes, then D by its results. -/
def edMoves (s : State) (k : EdKind) (st : Nat) (o : EdOp) : List (Nat × Nat) :=
  edStreams k o ++ [(o.d, edResults k o (((s.getStand st).getDesc ((s.getStand st).getSlot o.a).handle).e 0))]

/-- The stand and the stream of an instruction of a cut list. -/
def cutOf : Instr → Option (Nat × Nat)
  | .hrLoad st .. | .hrMul st .. | .hrAddx st .. | .hrDrain st .. => some (st, 0)
  | .edOpen st .. | .edClose st .. | .edTake st .. | .edFma st _ | .edAdd st _ | .edMul st _ | .edMin st _ | .edMax st _ | .edCmp st _ | .edCsel st _
  | .edCvt st _ | .edExp2 st _ | .edLog2 st _ | .edRcp st _ | .edRsq st _ | .edTanh st _ | .edExpd st _ | .edQmx st _ | .edRsum st _ | .edRssq st _
  | .edRmax st _ | .edRmin st _ | .edRcomb st _ | .edTopkf st _ => some (st, 1)
  | .skMove st .. | .skAtom st .. | .skOwn st .. | .skPwr st .. | .skScrub st .. | .skBin st .. => some (st, 2)
  | .fgPost st .. | .fgNotch st .. => some (st, 3)
  | .nop st k .. | .clRing st k .. | .loop st k .. | .loopEnd st k | .arSet st k .. | .arAddi st k .. | .arAdd st k .. | .arShl st k ..
  | .arShr st k .. | .arMuli st k .. | .arBnd st k .. => some (st, k)
  | .arConst st k _ _ sel => if sel < 8 then some (st, k) else none
  | _ => none

/-- R60: a command that a state refuses, or that has no effect in it, writes LAST_STATUS and changes nothing else: `n` is 0 for OK, 1 for
WRONG_STATE, 3 for GO_LATE. -/
def Answers (c : Instr) (s : State) (d n : Nat) : Prop := exec c s = .next (s.updCtx d fun x => { x with lastStatus := n })

/-- Nothing of the device but the contexts, the stands and the network has changed, and of the contexts only that of `d`. -/
def OnlyContext (s t : State) (d : Nat) : Prop :=
  (∀ e, e ≠ d → t.getCtx e = s.getCtx e) ∧ t.ring = s.ring ∧ t.tally = s.tally ∧ t.net = s.net ∧ t.weight = s.weight ∧ t.queue = s.queue ∧
  t.hub = s.hub ∧ t.notch = s.notch ∧ t.prot = s.prot ∧ t.out = s.out ∧ t.pending = s.pending

/-- The byte writes of a drain's next row: of all its rows up to that one, those in the lines that it makes ready (R80 to R82, R91). -/
def Machine.State.drainWrites (s : State) (st : Nat) (d : Drain) (row : AccRow) : Writes :=
  let q := (s.getStand st).getDesc d.handle
  ({ d with out := d.out ++ (drainBytes q d d.next row).1 } : Drain).writes (readyLines q d d.next)

/-- What the fence of a stand does with an arrival of another domain (R144): STAND_DK_FENCE counts one, DECK_FENCE is raised with the stand and the
source, and nothing of the stand, its Deck or its step changes. -/
def Fenced (s t : State) (st d src : Nat) : Prop :=
  (t.getStand st).fence = (s.getStand st).fence.add 1 ∧ Raised s t d 0x0207 (standUnit st 3) (s.standNow st) src 0 ∧
  (t.getTally d).acc.failed = (s.getTally d).acc.failed ∧ (t.getTally d).acc.cause = (s.getTally d).acc.cause ∧
  DeckKept s t st ∧ OthersKept s t st ∧ RegsKept s t st ∧ PlanKept s t st ∧ DeviceKept s t ∧ (t.getStand st).tok = (s.getStand st).tok ∧
  (t.getStand st).cred = (s.getStand st).cred ∧ (t.getStand st).ops = (s.getStand st).ops ∧ (t.getStand st).later = (s.getStand st).later

/-- Nothing of the device but its Aelel ports and what it sends has changed. -/
def OnlyPorts (s t : State) : Prop :=
  t = { s with ael := t.ael, out := t.out } ∧ t.ael = { s.ael with ports := t.ael.ports }

/-- A port once a frame has been decoded on it (R254, R264): its corrected codewords count, and its uncorrectable ones count for the ring. -/
def Heard (s : State) (p corr words : Nat) : State :=
  s.updAel p fun a => { a with fecCorr := a.fecCorr.add corr, badWords := a.badWords + words }

/-- The RESEND_REQ blocks that ask again for `n` frames from an LSEQ on, at most 64 frames in one, each sent twice (R258, R264). -/
def askedAgain (lseq n : Nat) : List CtlItem :=
  (List.range ((n + 63) / 64)).map fun i => { type := 5, fields := [(lseq + 64 * i) % 65536, min 64 (n - 64 * i)], left := 2 }

/-- A frame as a port sends it in a link slot: with the next LSEQ and its check value (R256, R257). -/
def sentAs (f : Frame) (lseq : Nat) : Frame := { f with resent := true, lseq := lseq, fchk := ({ f with resent := true, lseq := lseq } : Frame).check }

/-- The phase error that a mark gives, in 1/128 cycle (R275 to R277): its arrival less the flight, the fixed delay of 54 cycles and the rings between. -/
def markError (s : State) (p ring : Nat) (arr : Int) : Int :=
  arr - ((s.getAel p).rtt / 2 : Nat) - 6912 - ((ring : Int) - s.ring.count) * (s.L * 128 : Nat)

/-- The state once a mark has been taken on a port. -/
def Marked (s : State) (p ring gm hops : Nat) (locked : Bool) (arr : Int) : State :=
  s.updAel p fun a => { a with fresh := true, mark := some { ring := ring, gm := gm, hops := hops, locked := locked, err := markError s p ring arr } }

/-- The value and SAT of a notch after an operation of R288 (0 ADD, 1 SET, others leave it), by R288 and R291. -/
def notchAfter (op v : Nat) (x : Notch) : Notch :=
  match op with
  | 0 => { x with value := min (x.value + v % 2 ^ 32) 0xFFFFFFFF, sat := x.sat || decide (0xFFFFFFFF < x.value + v % 2 ^ 32) }
  | 1 => { x with value := v % 2 ^ 32, sat := false }
  | _ => x

/-- Nothing has changed of the stands, the plans, the compartments, the device memory and the circuits, and of the notches only `n`. -/
def OnlyNotch (s t : State) (n : Nat) : Prop :=
  (∀ m, m ≠ n → t.getNotch m = s.getNotch m) ∧ t.stand = s.stand ∧ t.ctx = s.ctx ∧ t.cmp = s.cmp ∧ t.mem = s.mem ∧ t.prot = s.prot ∧
  t.net.flits = s.net.flits ∧ t.pending = s.pending

/-- The entry at CONS of queue `q` of domain `d`, readable and of a type of R302, where the engine visits that queue next (R308). -/
def Entry (s : State) (d q type : Nat) (bs : List Byte) : Prop :=
  s.queueDom q = some d ∧ s.queueTurn q = true ∧ (s.queueEntry d q).2 = some (some bs) ∧ entryOk bs = true ∧ num bs 0 1 = type

/-- R303: the entry at CONS completes with a status, `y` the context it leaves but for CONS. -/
def Passed (s t : State) (q status : Nat) (y : Queue) : Prop :=
  t.getQueue q = { y with cons := ((s.getQueue q).cons + 1) % (s.getQueue q).size, status := status } ∧ (∀ j, j ≠ q → t.getQueue j = s.getQueue j)

/-- What an entry of a queue leaves alone but the requests and the bank. -/
def EntryFrame (s t : State) : Prop :=
  t.stand = s.stand ∧ t.ctx = s.ctx ∧ t.net = s.net ∧ t.weight = s.weight ∧ t.mem.mem = s.mem.mem ∧ t.mem.flip = s.mem.flip ∧ t.prot = s.prot ∧
  t.pending = s.pending

/-- What reached the bank with an entry: one operation of the queue, and no notch or waiter has changed yet (R289). -/
def Reached (s t : State) (q op n v : Nat) : Prop :=
  t.notch.inbox = s.notch.inbox ++ [{ src := { input := 1, end_ := q }, op := op, notch := n, value := v }] ∧ t.notch.n = s.notch.n ∧
  t.notch.waiters = s.notch.waiters

/-- Where a request leads: the line address it names or its KV lookup gives (R322, R336). -/
def Leads (s : State) (u : Nat) (r : Req) (a : Nat) : Prop :=
  s.waitsBank u r = false ∧ ((r.kv = false ∧ a = r.addr) ∨ (r.kv = true ∧ s.kvLookup r u = .inl a))

/-- What a read of device memory by a hub unit leaves as it was: every byte, set, queue and notch, the stands, the plan contexts and the network. -/
def ReadFrame (s t : State) : Prop :=
  t.mem.mem = s.mem.mem ∧ t.mem.flip = s.mem.flip ∧ t.mem.page = s.mem.page ∧ t.weight = s.weight ∧ t.queue = s.queue ∧ t.notch = s.notch ∧
  t.hub.lnd = s.hub.lnd ∧ t.stand = s.stand ∧ t.ctx = s.ctx ∧ t.net = s.net ∧ t.prot = s.prot ∧ t.pending = s.pending

/-- Nothing of the device but the weight sets has changed, and of the set table only entry `i`. -/
def OnlySet (s t : State) (i : Nat) : Prop :=
  t = { s with weight := t.weight } ∧ ∀ j, j ≠ i → t.getSet j = s.getSet j

/-- BUCK_RESULT as a command leaves it (R347, R367). -/
def BuckResult (t : State) (d st set gen : Nat) : Prop :=
  (t.getBuck d).resStatus = st ∧ (t.getBuck d).resSet = set ∧ (t.getBuck d).resGen = gen

/-- The rings in host memory of LD `d` whose registers have rows of their own (R389, R395, R452): BASE, CFG and IDX, the ring, the bytes of an entry, and
the least SIZE above 0. -/
def hostRings (d : Nat) : List ((Nat → Nat → Instr) × (Nat → Nat → Instr) × (Nat → Nat → Instr) × (State → HostRing) × Nat × Nat) :=
  [(.tallyRingBase, .tallyRingCfg, .tallyRingIdx, fun s => (s.getTally d).ring, 256, 16),
   (.tallyJrnBase, .tallyJrnCfg, .tallyJrnIdx, fun s => (s.getTally d).jrn, 64, 64),
   (.tallyEvtBase, .tallyEvtCfg, .tallyEvtIdx, fun s => (s.getTally d).evt, 32, 16),
   (.lndOutBase, .lndOutCfg, .lndOutIdx, fun s => (s.getLnd d).out, 64, 64)]

/-- R482: a reset has discarded every state of the device but the flash; RESET_CAUSE holds `cause`. What has left the device, the commands that wait, the
model's count of free values and the pins are no state of it. -/
def Discarded (s t : State) (cause : Nat) : Prop :=
  t = { State.reset with flash := s.flash, out := s.out, free := s.free, pending := s.pending, pins := t.pins, sec := { cause := cause } }

/-- What a boot leaves of a device that has been reset (R478 to R481): no plan, no tally, no request, no traffic, no byte of device memory, and not READY. -/
def Booted (s t : State) : Prop :=
  t.flash = s.flash ∧ t.pending = s.pending ∧ t.ctx = [] ∧ t.tally = [] ∧ t.stand = [] ∧ t.net = {} ∧ t.queue = {} ∧ t.notch = {} ∧ t.hub = {} ∧
  t.weight = {} ∧ t.mem.mem = [] ∧ t.ring.locked = false ∧ t.sec.stage ∈ [8, 9, 15]

/-- A Fjotal command has been answered (R511, R513, R517), and nothing of the device has changed but the count of commands. -/
def OnlyAnswered (s t : State) (cmd tag status : Nat) (data : List Byte) : Prop :=
  t = { s with out := s.out ++ [.fjotal cmd tag status data], mgmt := { s.mgmt with cmds := s.mgmt.cmds.add 1 } }

/-- The SPDM requests, whether each is in order, and the response (R492). -/
def spdmRequests (s : State) (slot off len i : Nat) (signed : Bool) (nonce : List Byte) (ld : Option Nat) : List (Instr × Bool × Nat) :=
  [(.getVersion, true, 0x84), (.getCapabilities, s.begun, 0xE1), (.negotiateAlgorithms, s.begun, 0xE3), (.getDigests, s.mgmt.settled, 0x81),
   (.getCertificate slot off len, s.mgmt.settled && slot == 0 && decide (off < s.cert.length), 0x82), (.challenge nonce, s.mgmt.settled, 0x83),
   (.getMeasurements i signed nonce, s.mgmt.settled && (decide (i ≤ 7) || i == 0xFF), 0xE0),
   (.keyExchange nonce, s.mgmt.settled && !s.mgmt.session, 0xE4), (.finish true, s.mgmt.keyed, 0xE5), (.finish false, false, 0xE5),
   (.endSession, s.mgmt.session, 0xEC),
   (.vendorDefinedRequest ld, s.mgmt.session, 0xFE)]

/-- The registers of BAR0 with rows of their own: a write of the owner there is that row's command. -/
def registerRows (d v : Nat) : List (Nat × Instr) :=
  [(0x400000, .lndOutBase d v), (0x400008, .lndOutCfg d v), (0x400010, .lndOutIdx d v), (0x400018, .lndOutWb d v), (0x480008, .qctxData d v),
   (0x480018, .qctxDoorbell d v), (0x600000, .tallyRingBase d v), (0x600008, .tallyRingCfg d v), (0x600010, .tallyRingIdx d v),
   (0x600018, .tallySignCfg d v), (0x600020, .tallySignCmd d v), (0x600040, .tallyJrnBase d v), (0x600048, .tallyJrnCfg d v)] ++
  [(0x600050, .tallyJrnIdx d v), (0x600060, .tallyEvtBase d v), (0x600068, .tallyEvtCfg d v), (0x600070, .tallyEvtIdx d v),
   (0x600098, .tallyTwinCfg d v), (0x7D0010, .aelMapData d v), (0x900030, .buckJobDoorbell d v)]

end Sys2Proof
end

