-- ==== Sys2Proof/WellFormed.lean ====
section
/-! DEFINITION. Which commands are well formed: every operand is one that its field can carry, and names a thing that the device has. -/

namespace Sys2Proof

def below (n x : Nat) : Bool := decide (x < n)
def within (lo hi x : Nat) : Bool := decide (lo ≤ x ∧ x ≤ hi)
/-- LDs, domains and plan contexts are numbered 0 to 15. -/
def ldOk (d : Nat) : Bool := below 16 d
/-- Memory units: stacks 0 to 11 and packages 16 to 31. -/
def unitOk (u : Nat) : Bool := below 12 u || within 16 31 u
/-- A line-aligned Deck offset. -/
def lineOk (x : Nat) : Bool := below (2 ^ 23) x && x % 512 == 0

/-- The widths of the fields of R192. -/
def Hdr.wf (h : Hdr) : Bool :=
  below (2 ^ 20) h.stamp && below 32 h.wt && below 16 h.wtn && below 16 h.wc && below 8 h.wcn && below 32 h.pt && below 16 h.pc

/-- The widths of the fields of R215; `n` is N, 1 to 2^20, and `k` is the count of ED_TOPKF, 1 to 1,024. -/
def EdOp.wf (o : EdOp) : Bool :=
  o.hdr.wf && below 32 o.d && below 32 o.a && below 32 o.b && below 32 o.c && below 4 o.fn && within 1 (2 ^ 20) o.n && below (2 ^ 32) o.imm &&
  within 1 1024 o.k

/-- A place that the device has. -/
def Machine.Loc.wf : Machine.Loc → Bool
  | .node st | .stand st => below 512 st
  | .bridge => true
  | .edge k => below 4 k
  | .ctrl p => below 40 p
  | .aelel p => below 12 p
  | .unit p => within 44 52 p

/-- An LD, or the management port. -/
def ldOpt : Option Nat → Bool
  | some d => ldOk d
  | none => true

/-- Every operand of a command is in its range. -/
def Instr.wf : Instr → Bool
  | .ringBoundary => true
  | .load d tag c => ldOk d && below 65536 tag && below 64 c
  | .arm d _ => ldOk d
  | .go d => ldOk d
  | .stop d => ldOk d
  | .disarm d => ldOk d
  | .unload d => ldOk d
  | .abort p tag step => below 12 p && below 65536 tag && below (2 ^ 64) step
  | .instructionComplete st stream => below 512 st && below 4 stream
  | .hrLoad st h handle tile buf _ areg => below 512 st && Hdr.wf h && below 4096 handle && below (2 ^ 20) tile && below 2 buf && below 16 areg
  | .hrMul st h handle buf rows r0 _ _ areg => below 512 st && Hdr.wf h && below 4096 handle && below 2 buf && within 1 32 rows && below 32 r0 && below 16 areg && decide (r0 + rows ≤ 32)
  | .hrAddx st h handle _ rows r0 _ _ areg => below 512 st && Hdr.wf h && below 4096 handle && within 1 32 rows && below 32 r0 && below 16 areg && decide (r0 + rows ≤ 32)
  | .hrDrain st h handle rows r0 fmt _ adj _ tag _ areg => below 512 st && Hdr.wf h && below 4096 handle && within 1 32 rows && below 32 r0 && below 32 fmt && decide (-128 ≤ adj ∧ adj ≤ 127) && below 65536 tag && below 16 areg && decide (r0 + rows ≤ 32)
  | .drainRowCheck st => below 512 st
  | .standHrInject st v => below 512 st && below (2 ^ 64) v
  | .edOpen st h slot handle _ _ _ areg => below 512 st && Hdr.wf h && below 32 slot && below 4096 handle && below 16 areg
  | .edClose st h slot => below 512 st && Hdr.wf h && below 32 slot
  | .edTake st h slot => below 512 st && Hdr.wf h && below 32 slot
  | .edFma st o => below 512 st && EdOp.wf o
  | .edAdd st o => below 512 st && EdOp.wf o
  | .edMul st o => below 512 st && EdOp.wf o
  | .edMin st o => below 512 st && EdOp.wf o
  | .edMax st o => below 512 st && EdOp.wf o
  | .edCmp st o => below 512 st && EdOp.wf o
  | .edCsel st o => below 512 st && EdOp.wf o
  | .edCvt st o => below 512 st && EdOp.wf o
  | .edExp2 st o => below 512 st && EdOp.wf o
  | .edLog2 st o => below 512 st && EdOp.wf o
  | .edRcp st o => below 512 st && EdOp.wf o
  | .edRsq st o => below 512 st && EdOp.wf o
  | .edTanh st o => below 512 st && EdOp.wf o
  | .edExpd st o => below 512 st && EdOp.wf o
  | .edQmx st o => below 512 st && EdOp.wf o
  | .edRsum st o => below 512 st && EdOp.wf o
  | .edRssq st o => below 512 st && EdOp.wf o
  | .edRmax st o => below 512 st && EdOp.wf o
  | .edRmin st o => below 512 st && EdOp.wf o
  | .edRcomb st o => below 512 st && EdOp.wf o
  | .edTopkf st o => below 512 st && EdOp.wf o
  | .standEdInject st v => below 512 st && below (2 ^ 64) v
  | .skMove st h src dst _ sReg _ dReg dtok grain => below 512 st && Hdr.wf h && below 4096 src && below 4096 dst && below 16 sReg && below 16 dReg && below 32 dtok && below 3 grain
  | .skAtom st h op tgt src ret _ areg imm => below 512 st && Hdr.wf h && below 4 op && below 4096 tgt && below 4096 src && below 4096 ret && below 16 areg && below (2 ^ 32) imm
  | .skOwn st h owner mask => below 512 st && Hdr.wf h && below 4 owner && below (2 ^ 32) mask
  | .skPwr st h state mask => below 512 st && Hdr.wf h && below 3 state && below (2 ^ 32) mask
  | .bankTransitionDone st bank => below 512 st && below 32 bank
  | .skScrub st h first lines => below 512 st && Hdr.wf h && lineOk first && within 1 12288 lines
  | .skBin st h key list pos b => below 512 st && Hdr.wf h && below 4096 key && below 4095 list && below 4096 pos && below (2 ^ 32) b
  | .standDkInject st v => below 512 st && below (2 ^ 64) v
  | .nop st k h => below 512 st && below 4 k && Hdr.wf h
  | .clRing st k repeat_ => below 512 st && below 4 k && below 4096 repeat_
  | .loop st k _ sh count stampStep => below 512 st && below 4 k && below 16 sh && below (2 ^ 20) count && below (2 ^ 20) stampStep
  | .loopEnd st k => below 512 st && below 4 k
  | .arSet st k stamp rd imm => below 512 st && below 4 k && below (2 ^ 20) stamp && below 16 rd && below (2 ^ 48) imm
  | .arAddi st k stamp rd ra imm => below 512 st && below 4 k && below (2 ^ 20) stamp && below 16 rd && below 16 ra && below (2 ^ 48) imm
  | .arAdd st k stamp rd ra rb => below 512 st && below 4 k && below (2 ^ 20) stamp && below 16 rd && below 16 ra && below 16 rb
  | .arShl st k stamp rd ra sh => below 512 st && below 4 k && below (2 ^ 20) stamp && below 16 rd && below 16 ra && below 64 sh
  | .arShr st k stamp rd ra sh => below 512 st && below 4 k && below (2 ^ 20) stamp && below 16 rd && below 16 ra && below 64 sh
  | .arMuli st k stamp rd ra imm => below 512 st && below 4 k && below (2 ^ 20) stamp && below 16 rd && below 16 ra && below (2 ^ 32) imm
  | .arBnd st k stamp rd ra _ b => below 512 st && below 4 k && below (2 ^ 20) stamp && below 16 rd && below 16 ra && below (2 ^ 48) b
  | .arConst st k stamp rd sel => below 512 st && below 4 k && below (2 ^ 20) stamp && below 16 rd && below 8 sel
  | .fgPost st h _ ctr amt route => below 512 st && Hdr.wf h && below 32 ctr && within 1 4096 amt && below 4096 route
  | .fgNotch st h op notch ret route value => below 512 st && Hdr.wf h && below 4 op && below 65536 notch && below 4096 ret && below 4096 route && below (2 ^ 32) value
  | .flitForward l out _ => Machine.Loc.wf l && below 64 out
  | .flitArrival st _ => below 512 st
  | .packetForward l out => Machine.Loc.wf l && below 64 out
  | .token l _ => Machine.Loc.wf l
  | .atomic st _ => below 512 st
  | .atomReply st _ => below 512 st
  | .nack l _ => Machine.Loc.wf l
  | .flumeResend l out => Machine.Loc.wf l && below 64 out
  | .standFlInject st v => below 512 st && below (2 ^ 64) v
  | .frameReceive p slot _ _ _ _ => below 12 p && below (2 ^ 20) slot
  | .resendReq p first count => below 12 p && below 65536 first && below 65536 count
  | .linkResend p => below 12 p
  | .ringMark p ring gm hops _ _ => below 12 p && below (2 ^ 64) ring && below 65536 gm && below 512 hops
  | .probe p _ _ => below 12 p
  | .echo p _ _ _ => below 12 p
  | .discover p _ => below 12 p
  | .twin p ring dig => below 12 p && below (2 ^ 64) ring && below (2 ^ 64) dig
  | .twinCompare d => ldOk d
  | .laneLockLoss p => below 12 p
  | .retrain p ld => below 12 p && ldOpt ld
  | .down p ld => below 12 p && ldOpt ld
  | .linkTrained p flight _ => below 12 p && below (2 ^ 20) flight
  | .refLost => true
  | .aelMapData d v => ldOk d && below (2 ^ 64) v
  | .notchAdd _ => true
  | .notchSet _ => true
  | .notchRead _ => true
  | .notchWaitGe _ => true
  | .notchReply st _ => below 512 st
  | .hostNotchSet ld n v => ldOk ld && below 65536 n && below (2 ^ 64) v
  | .hostNotchAdd ld n v => ldOk ld && below 65536 n && below (2 ^ 64) v
  | .hostNotchMode ld n v => ldOk ld && below 65536 n && below (2 ^ 64) v
  | .enable d q => ldOk d && below 65536 q
  | .disable d q => ldOk d && below 65536 q
  | .resume d q => ldOk d && below 65536 q
  | .queueReset d q => ldOk d && below 65536 q
  | .qctxDoorbell d v => ldOk d && below (2 ^ 64) v
  | .qctxData d v => ldOk d && below (2 ^ 64) v
  | .request q => below 65536 q
  | .wait q => below 65536 q
  | .signal q => below 65536 q
  | .bind q => below 65536 q
  | .cancel q => below 65536 q
  | .queueWaitRelease q => below 65536 q
  | .waitExpired q => below 65536 q
  | .requestFlit p _ => below 40 p
  | .memReadEntry u half => unitOk u && below 2 half
  | .memWriteEntry u half => unitOk u && below 2 half
  | .selfRefreshEntry u => unitOk u
  | .create d => ldOk d
  | .sealSet d idx _ => ldOk d && below 256 idx
  | .switch d idx => ldOk d && below 256 idx
  | .drain d m => ldOk d && below 65536 m
  | .release d idx _ => ldOk d && below 256 idx
  | .jobResume d => ldOk d
  | .buckJobDoorbell d v => ldOk d && below (2 ^ 64) v
  | .convert d _ => ldOk d
  | .copy d => ldOk d
  | .adapter d _ => ldOk d
  | .buckerJobComplete d => ldOk d
  | .build d => ldOk d
  | .ticketReadbackComplete d => ldOk d
  | .stepRecord d => ldOk d
  | .lndOutIdx d v => ldOk d && below (2 ^ 64) v
  | .lndOutBase d v => ldOk d && below (2 ^ 64) v
  | .lndOutCfg d v => ldOk d && below (2 ^ 64) v
  | .lndOutWb d v => ldOk d && below (2 ^ 64) v
  | .graderLoad d => ldOk d
  | .graderUnload d h => ldOk d && below 4096 h
  | .draft d _ => ldOk d
  | .verify d _ => ldOk d
  | .graderPhaseComplete d => ldOk d
  | .signature d => ldOk d
  | .tallySignCmd d v => ldOk d && below (2 ^ 64) v
  | .tallyRingBase d v => ldOk d && below (2 ^ 64) v
  | .tallyRingCfg d v => ldOk d && below (2 ^ 64) v
  | .tallyRingIdx d v => ldOk d && below (2 ^ 64) v
  | .tallySignCfg d v => ldOk d && below (2 ^ 64) v
  | .tallyJrnBase d v => ldOk d && below (2 ^ 64) v
  | .tallyJrnCfg d v => ldOk d && below (2 ^ 64) v
  | .tallyJrnIdx d v => ldOk d && below (2 ^ 64) v
  | .tallyEvtBase d v => ldOk d && below (2 ^ 64) v
  | .tallyEvtCfg d v => ldOk d && below (2 ^ 64) v
  | .tallyEvtIdx d v => ldOk d && below (2 ^ 64) v
  | .tallyTwinCfg d v => ldOk d && below (2 ^ 64) v
  | .stretch k => below 20 k
  | .tempSample _ _ _ => true
  | .resetRelease _ => true
  | .coldReset => true
  | .railUndervolt => true
  | .pwrWarn => true
  | .pwrWarnRelease => true
  | .updateBegin tag => below 256 tag
  | .updateWrite tag off _ => below 256 tag && below (2 ^ 32) off
  | .updateCommit tag _ _ => below 256 tag
  | .updateAbort tag => below 256 tag
  | .getStatus tag => below 256 tag
  | .readReg tag dom off count => below 256 tag && below 256 dom && below (2 ^ 32) off && below 256 count
  | .writeReg tag dom off v => below 256 tag && below 256 dom && below (2 ^ 32) off && below (2 ^ 64) v
  | .readTally tag ctx back => below 256 tag && below 256 ctx && below 256 back
  | .readLedger tag idx => below 256 tag && below 65536 idx
  | .readLog tag idx => below 256 tag && below 65536 idx
  | .reset tag _ => below 256 tag
  | .resetFlush tag _ => below 256 tag
  | .mctpControl _ => true
  | .setdasa addr dyn => below 128 addr && below 128 dyn
  | .entdaa dyn => below 128 dyn
  | .getVersion => true
  | .getCapabilities => true
  | .negotiateAlgorithms => true
  | .getDigests => true
  | .getCertificate slot off len => below 8 slot && below (2 ^ 32) off && below 65536 len
  | .challenge _ => true
  | .getMeasurements idx _ _ => below 256 idx
  | .keyExchange _ => true
  | .finish _ => true
  | .endSession => true
  | .vendorDefinedRequest ld => ldOpt ld
  | .perstN => true
  | .hotReset _ => true
  | .flr d => ldOk d
  | .hostLinkDown => true
  | .cxlMemAccess d _ _ be bs => ldOk d && below (2 ^ 64) be && decide (bs.length ≤ 64)
  | .snoop => true
  | .hostReadCompletion _ _ => true
  | .hostReadTimeout _ => true
  | .msixUnmask ld v => ldOk ld && below 2048 v
  | .shift d row pos => ldOk d && below 32 row && below 32 pos
  | .rowShifted => true
  | .start d _ => ldOk d
  | .abandon d => ldOk d
  | .controlArm _ => true
  | .controlGo _ => true
  | .confirm _ => true
  | .extest => true
  | .bypass _ => true
  | .idcode _ => true
  | .samplePreload _ => true
  | .registerWrite ld bar off v _ => ldOk ld && below 3 bar && below (2 ^ 25) off && below (2 ^ 64) v
  | .perstNDeassert _ => true
  | .hostLinkUp speed width => within 1 6 speed && below 5 width
  | .referenceReturn => true
  | .pwrWarnHalt => true
  | .controlBlockCheckFail p => below 12 p
  | .ideCheckFail => true
  | .fabricManagerCommand _ => true
  | .promptStaged q => below 65536 q
  | .trstN _ => true

end Sys2Proof
end

