-- ==== Sys2Proof/Certificates/Slice0/Obligations.lean ====
section
/-! DEFINITION. The statements about the model, in the order of OBLIGATIONS.json. -/

open Sys2Proof Sys2Proof.Machine

/-- A step runs the command at the front of the queue on the state with the rest of the queue. -/
def Obligations.StepRunsFront : Prop :=
  ∀ (s : State) (c : Instr) (cs : List Instr), s.pending = c :: cs → step s = exec c { s with pending := cs }

/-- R34, R35: once ring time is seeded, RING_BOUNDARY adds one to the ring counter, modulo 2^64, and restarts the root cycle count, and no other
command but a reset writes either.

R41: at a ring boundary the local count of every compartment restarts at 0.

The model's choice (log entry 28): with no command waiting and no reset due, a step is one root edge. At the last cycle of a ring it changes nothing, and
RING_BOUNDARY ends the ring; else the root cycle goes up by one, the local count of a compartment with a running clock and no droop advances by one, and its
edge is kept unless an operating-point stop or the operating point skips it (R37, R41, R455, R456, R458); the ring count, the protection table, the flash,
the pins and the queue of commands stay. -/
def Obligations.TimePasses : Prop :=
  ((∀ s : State, s.ael.seeded = true → ∃ t, exec .ringBoundary s = .next t ∧ t.ring.count = (s.ring.count + 1) % 2 ^ 64 ∧ t.ring.cycle = 0 ∧
      t.ring.lenLog2 = s.ring.lenLog2 ∧ t.ael.seeded = true) ∧
    ∀ (c : Instr) (s t : State), exec c s = .next t → resets c = false → c ≠ .ringBoundary →
      t.ring.count = s.ring.count ∧ t.ring.cycle = s.ring.cycle ∧ t.ring.lenLog2 = s.ring.lenLog2) ∧
  (∀ s : State, ∃ t, exec .ringBoundary s = .next t ∧ ∀ k, k < 20 → (t.getCmp k).loc = 0) ∧
  (∀ s : State, s.pending = [] → s.resetDue = none →
      (s.L ≤ s.ring.cycle + 1 → step s = .next s) ∧
      (s.ring.cycle + 1 < s.L → ∃ t, step s = .next t ∧ t.ring.cycle = s.ring.cycle + 1 ∧ t.ring.count = s.ring.count ∧ t.ring.lenLog2 = s.ring.lenLog2 ∧
        t.prot = s.prot ∧ t.sec = s.sec ∧ t.flash = s.flash ∧ t.pins = s.pins ∧ t.pending = [] ∧
        ∀ k, k < 20 →
          let c := s.getCmp k
          let stop := c.stop && decide (s.ring.cycle + 1 < 320)
          (t.getCmp k).op = c.op ∧
          (c.clocked k = false → (t.getCmp k).loc = c.loc) ∧
          (c.clocked k = true → c.droop = false → (t.getCmp k).loc = c.loc + 1 ∧ (t.getCmp k).keptNow = (!stop && !skips c.op (c.loc + 1))) ∧
          (c.clocked k = true → c.droop = true → stop = false → skips c.op (c.loc + 1) = false →
            (t.getCmp k).loc = c.loc ∧ (t.getCmp k).keptNow = false ∧ (t.getCmp k).droop = false)))

/-- No command faults, and the one refusal is that of AR_CONST with SEL 8 to 255, which R206 reserves.

No command takes a command off the queue or puts one into it. -/
def Obligations.CommandsAnswer : Prop :=
  (∀ (c : Instr) (s : State), (∃ t, exec c s = .next t) ∨
      ∃ st k stamp rd sel, c = .arConst st k stamp rd sel ∧ 8 ≤ sel ∧ exec c s = .refused (.reserved "AR_CONST SEL")) ∧
  (∀ (c : Instr) (s t : State), exec c s = .next t → t.pending = s.pending)

/-- R473, R482, R494: no command but those of an image update changes the flash, not even a reset.

R270, R486: no command but a reset changes the protection table, its lock or the image it came from: no frame, packet, control block or register
write. -/
def Obligations.FlashAndProtectionKept : Prop :=
  (∀ (c : Instr) (s t : State), exec c s = .next t → writesFlash c = false → t.flash = s.flash) ∧
  (∀ (c : Instr) (s t : State), exec c s = .next t → resets c = false →
      t.prot = s.prot ∧ t.sec.locked = s.sec.locked ∧ t.sec.sects = s.sec.sects)

/-- R482, R486: every step keeps that, whatever the command. -/
def Obligations.LockInvStep : Prop :=
  ∀ s t : State, LockInv s → Steps s t → LockInv t

/-- Every step, whatever the command, keeps the numbers of operations in flight and of instructions at work below the number that the next one takes (R203). -/
def Obligations.OpNumbersStep : Prop :=
  ∀ s t : State, OpNumbers s → Steps s t → OpNumbers t

/-- The state after reset (R34, R59, R343, R373, R452, R468, R478, R486, R496, R503, R550, R558): the stage, the states of the copies, the plan contexts, the
compartments, the ports and the registers to which the spec gives a reset value other than 0; the ring counter at 0 is the model's (log entry 3).

The protection table in force is that of the booted image while it is locked; it holds right after reset.

The numbers of operations and jobs are in order right after reset. -/
def Obligations.ResetValues : Prop :=
  (State.reset.sec.stage = 0 ∧ State.reset.sec.aState = 3 ∧ State.reset.sec.bState = 3 ∧ State.reset.sec.locked = false ∧ State.reset.pins.cold = true ∧
    State.reset.ring.locked = false ∧ State.reset.ring.count = 0 ∧ State.reset.ael.parent = none ∧ State.reset.ael.hops = 511 ∧
    State.reset.therm.tjWarn = 90 ∧ State.reset.therm.hbmWarn = 80 ∧ State.reset.flash = [] ∧ State.reset.pending = [] ∧ State.reset.out = [] ∧
    (∀ d, (State.reset.getCtx d).state = .none ∧ (State.reset.getTally d).signInterval = 1024 ∧ (State.reset.getTally d).tseq = 1 ∧
      (State.reset.getLnd d).nextArr = 1 ∧ (State.reset.getDom d).valid = false) ∧
    (∀ k, (State.reset.getCmp k).on = false ∧ (State.reset.getCmp k).op = 0) ∧ (∀ p, (State.reset.getAel p).state = 0) ∧
    (∀ q, (State.reset.getQueue q).state = 0) ∧ (∀ n, State.reset.getNotch n = {}) ∧ (∀ i, (State.reset.getSet i).state = 0) ∧
    ∀ st, (State.reset.getStand st).mem = [] ∧ (State.reset.getStand st).ctx = none ∧ ∀ i, (State.reset.getStand st).getTok i = {}) ∧
  (LockInv State.reset) ∧
  (OpNumbers State.reset)

/-- R43, R191, R195, R197: the instruction at the head of a stream issues only where a running plan holds the stand, its stream has not reached CL_RING and its
window is filled, in a kept cycle, at or after its effective stamp, with its tokens and credits present beyond what the streams before it take in the same
cycle, the stream and, where it uses one, its engine free, and what its kind asks of the datapath met. -/
def Obligations.IssueConditions : Prop :=
  ∀ (s : State) (st k : Nat) (i : Instr) (h : Hdr) (r : Option Nat) (eng : Bool), issueNeeds i = some (h, r, eng) →
    (s.holdOf st k i = .go ↔
      ((s.running st).isSome = true ∧ ((s.getStand st).getStream k).ended = false ∧ (s.getCmp (standCmp st)).keptNow = true ∧
       ((s.getStand st).getStream k).filled = true ∧
       effStamp h ((s.getStand st).getStream k).loops ≤ s.standNow st ∧
       (h.wt = 0 ∨ tokNeed h r + takenTok (s.takes st k) h.wt ≤ ((s.getStand st).getTok h.wt).n) ∧
       (h.wc = 0 ∨ credNeed h + takenCred (s.takes st k) h.wc ≤ ((s.getStand st).getCred h.wc).n) ∧
       ((s.getStand st).getStream k).next ≤ s.standNow st ∧ (eng = true → ((s.getStand st).getStream k).free ≤ s.standNow st) ∧
       s.headReady st i = true)) ∧
    (k = 0 → s.takes st k = [])

/-- R42, R43, R188: an instruction of a cut list that is not the one its stream's next slot holds, or that something holds back, changes nothing. What holds the
instruction at the head is named in the order of R43: nothing runs, the window fills, its stamp, tokens, credits, the datapath. -/
def Obligations.HeldChangesNothing : Prop :=
  (∀ (s : State) (i : Instr) (st k : Nat), cutOf i = some (st, k) → s.isHead st k i = false → exec i s = .next s) ∧
  (∀ (s : State) (i : Instr) (st k : Nat), cutOf i = some (st, k) → issueNeeds i ≠ none → s.holdOf st k i ≠ .go → exec i s = .next s) ∧
  (∀ (s : State) (i : Instr) (st k : Nat), cutOf i = some (st, k) → s.streamLive st k = false → exec i s = .next s) ∧
  ∀ (s : State) (i : Instr) (st k : Nat) (h : Hdr) (r : Option Nat) (eng : Bool), issueNeeds i = some (h, r, eng) →
    let c := s.conds st k i h r eng (s.takes st k)
    (s.holdOf st k i = .idle ↔ s.streamLive st k = false) ∧
    (s.holdOf st k i = .window ↔ s.streamLive st k = true ∧ ((s.getStand st).getStream k).filled = false) ∧
    (s.streamLive st k = true → ((s.getStand st).getStream k).filled = true →
      (s.holdOf st k i = .stamp ↔ c.stamp = false) ∧ (s.holdOf st k i = .token ↔ c.stamp = true ∧ c.tok = false) ∧
      (s.holdOf st k i = .credit ↔ c.stamp = true ∧ c.tok = true ∧ c.cred = false) ∧
      (s.holdOf st k i = .datapath ↔ c.stamp = true ∧ c.tok = true ∧ c.cred = true ∧ c.path = false))

/-- CL_RING, LOOP and LOOP_END at the head of a stream that runs its cut list now (R189, R190, R208): CL_RING ends the ring for the stream, which goes on with
the same section until it has run REPEAT rings, then with the next; LOOP with trips to make opens a frame on its body, and with none goes on behind the
LOOP_END that matches it; LOOP_END goes back to the body or leaves it. No other stream of the stand moves, nothing else of the device changes. -/
def Obligations.SectionsAndLoops : Prop :=
  ∀ (s : State) (st k : Nat), s.streamLive st k = true →
    let q := (s.getStand st).getStream k
    let only := fun (t : State) (f : Stream) => (t.getStand st).getStream k = f ∧
      (∀ j, j ≠ k → (t.getStand st).getStream j = (s.getStand st).getStream j) ∧ t = s.updStand st fun x => { x with streams := (t.getStand st).streams }
    (∀ r, s.isHead st k (.clRing st k r) = true → ∃ t, exec (.clRing st k r) s = .next t ∧
      only t { q with ended := true, nextSect := if q.sectRing + 1 < r then q.sect else q.pc + 1
                      nextSectRing := if q.sectRing + 1 < r then q.sectRing + 1 else 0 }) ∧
    (∀ (src : Bool) (sh count step d : Nat), (s.getStand st).ctx = some d → s.isHead st k (.loop st k src sh count step) = true →
      let n := if src then (s.getCtx d).stands * count / 2 ^ sh else count
      ∃ t, exec (.loop st k src sh count step) s = .next t ∧
        (n ≠ 0 → only t { q with pc := q.pc + 1, loops := ⟨q.pc + 1, n, 0, step⟩ :: q.loops }) ∧
        (n = 0 → only t { q with pc := (s.getStand st).skipLoop q.len 0 (q.pc + 1) } ∧
          -- a body without loops of its own, `m` slots long
          ∀ m, m < q.len → (∀ i, i < m → (s.getStand st).opcodeAt (q.pc + 1 + i) ≠ 0x32 ∧ (s.getStand st).opcodeAt (q.pc + 1 + i) ≠ 0x33) →
            (s.getStand st).opcodeAt (q.pc + 1 + m) = 0x33 → ((t.getStand st).getStream k).pc = q.pc + m + 2)) ∧
    ∀ (f : LoopFrame) (fs : List LoopFrame), q.loops = f :: fs → s.isHead st k (.loopEnd st k) = true →
      ∃ t, exec (.loopEnd st k) s = .next t ∧
        (f.trip + 1 < f.trips → only t { q with pc := f.body, loops := { f with trip := f.trip + 1 } :: fs }) ∧
        (f.trips ≤ f.trip + 1 → only t { q with pc := q.pc + 1, loops := fs })

/-- An address operation, where it goes, issues and writes its one register in that cycle (R204 to R206): the immediate, sums, shifts, products, the bounded
register or a plan constant, modulo 2^64; every other register, the Deck and the units are as they were. -/
def Obligations.AddressOps : Prop :=
  ∀ (s : State) (st k stamp rd ra rb imm sh b sel : Nat) (clamp : Bool), sel < 8 →
    let u := s.getStand st
    ∀ p ∈ ([(.arSet st k stamp rd imm, wrapInt 64 (sext 48 imm)),
            (.arAddi st k stamp rd ra imm, u.getAr ra + wrapInt 64 (sext 48 imm)),
            (.arAdd st k stamp rd ra rb, u.getAr ra + u.getAr rb),
            (.arShl st k stamp rd ra sh, u.getAr ra * 2 ^ sh),
            (.arShr st k stamp rd ra sh, wrapInt 64 (sext 64 (u.getAr ra) / (2 ^ sh : Nat))),
            (.arMuli st k stamp rd ra imm, u.getAr ra * wrapInt 64 (sext 32 imm)),
            (.arBnd st k stamp rd ra clamp b, if clamp then (if u.getAr ra ≤ b then u.getAr ra else b) else if b ≤ u.getAr ra then u.getAr ra - b else u.getAr ra),
            (.arConst st k stamp rd sel, s.planConst st sel)] : List (Instr × Nat)),
      Goes s st k p.1 →
      ∃ t, exec p.1 s = .next t ∧ Issues s t st k { stamp := stamp } none ∧ IssueFrame s t st ∧ t.net = s.net ∧
        (t.getStand st).getAr rd = p.2 % 2 ^ 64 ∧ (∀ r, r ≠ rd → (t.getStand st).getAr r = u.getAr r) ∧
        (t.getStand st).acc = u.acc ∧ (t.getStand st).buf = u.buf ∧ (t.getStand st).slots = u.slots ∧ (t.getStand st).ops = u.ops

/-- AR_CONST, where it goes, writes its register with the plan constant of SEL 0 to 7 (R206): the stands to a row, the stand, its logical row and column, its
active column, the ring in the step, the step, the logical ID of the device; SEL 8 to 255 are reserved and refused by name. -/
def Obligations.PlanConstants : Prop :=
  ∀ (s : State) (st k stamp rd d : Nat), st < 512 → (s.getStand st).ctx = some d →
    (∀ p ∈ [(0, (s.getCtx d).stands), (1, 32 * (st / 32) + st % 32), (2, st / 32), (3, st % 32),
            (4, if st % 32 < 16 then st % 32 else st % 32 - 16 + (s.getCtx d).stands / 2), (5, (s.getCtx d).ringInStep), (6, (s.getCtx d).step),
            (7, s.logicalId d)],
      Goes s st k (.arConst st k stamp rd p.1) →
      ∃ t, exec (.arConst st k stamp rd p.1) s = .next t ∧ (t.getStand st).getAr rd = p.2 % 2 ^ 64 ∧
        (∀ r, r ≠ rd → (t.getStand st).getAr r = (s.getStand st).getAr r) ∧ IssueFrame s t st) ∧
    ∀ sel, 8 ≤ sel → sel ≤ 255 → exec (.arConst st k stamp rd sel) s = .refused (.reserved "AR_CONST SEL")

/-- NOP, FG_POST and FG_NOTCH, where they go (R43, R203), issue, and change nothing of the Deck, the units or any other stand (R213, R217). FG_POST, and FG_NOTCH,
by a route that is not composed (R273), puts one packet at the stand's own port of its node, with the entry's route and rail and what the instruction posts or
asks (R235, R239); a WAIT_GE counts among the sixteen outstanding (R203).

INSTRUCTION_COMPLETE takes the operation of the stream that completes next out of flight and posts its token and its credit, with its SUSPECT mark, in the
present cycle (R196, R203); with none that completes it changes nothing. -/
def Obligations.GateIssues : Prop :=
  ((∀ (s : State) (st k : Nat) (h : Hdr), Goes s st k (.nop st k h) →
      ∃ t, exec (.nop st k h) s = .next t ∧
        Issues s t st k h none ∧ InFlight s t st k h.pt h.pc ∧ IssueFrame s t st ∧ UnitsKept s t st ∧ t.net = s.net) ∧
    (∀ (s : State) (st : Nat) (h : Hdr) (credit : Bool) (ctr amt route : Nat), Goes s st 3 (.fgPost st h credit ctr amt route) →
      ∃ t, exec (.fgPost st h credit ctr amt route) s = .next t ∧
        Issues s t st 3 h none ∧ InFlight s t st 3 h.pt h.pc ∧ IssueFrame s t st ∧ UnitsKept s t st ∧
        (bit (s.routeOf st route) 127 = false → ∃ p, t.net.pkts = s.net.pkts ++ [p] ∧ p.loc = .node st ∧ p.inPort = 4 ∧ p.reply = false ∧
          p.route = (routeEntry (s.routeOf st route)).1 ∧ p.rail = (routeEntry (s.routeOf st route)).2 ∧
          p.payload = .token credit ctr amt (s.tokTaint st h none) ∧ t.net.flits = s.net.flits)) ∧
    ∀ (s : State) (st : Nat) (h : Hdr) (op notch ret route value : Nat), Goes s st 3 (.fgNotch st h op notch ret route value) →
      ∃ t, exec (.fgNotch st h op notch ret route value) s = .next t ∧
        Issues s t st 3 h none ∧ InFlight s t st 3 h.pt h.pc ∧ IssueFrame s t st ∧ UnitsKept s t st ∧
        (t.getStand st).waits = (s.getStand st).waits + (if op = 3 then 1 else 0) ∧
        (bit (s.routeOf st route) 127 = false → ∃ p tag, t.net.pkts = s.net.pkts ++ [p] ∧ p.loc = .node st ∧ p.inPort = 4 ∧ p.reply = false ∧
          p.route = (routeEntry (s.routeOf st route)).1 ∧ p.rail = (routeEntry (s.routeOf st route)).2 ∧
          p.payload = .notch op notch value tag ∧ tag.st = st ∧ tag.op = (s.getStand st).nextOp ∧ t.net.flits = s.net.flits)) ∧
  (∀ (s : State) (st k : Nat),
      (s.nextDone st k = none → exec (.instructionComplete st k) s = .next s) ∧
      ∀ o, s.nextDone st k = some o → ∃ t, exec (.instructionComplete st k) s = .next t ∧
        o ∈ (s.getStand st).ops ∧ o.stream = k ∧ o.done (s.standNow st) = true ∧
        (t.getStand st).ops = (s.getStand st).ops.filter (fun x => x.id != o.id) ∧
        (∀ i, (t.getStand st).getTok i = if i = o.pt ∧ 1 ≤ i ∧ i ≤ 31 then ((s.getStand st).getTok i).post s.time 1 o.suspect else (s.getStand st).getTok i) ∧
        (∀ i, (t.getStand st).getCred i = if i = o.pc ∧ 1 ≤ i ∧ i ≤ 15 then ((s.getStand st).getCred i).post s.time 1 false else (s.getStand st).getCred i) ∧
        DeviceKept s t ∧ OthersKept s t st ∧ PlanKept s t st ∧ DeckKept s t st ∧ RegsKept s t st ∧ t.net = s.net ∧ t.tally = s.tally ∧
        (t.getStand st).streams = (s.getStand st).streams ∧ (t.getStand st).edOps = (if o.kind = .edger then (s.getStand st).edOps.add 1 else (s.getStand st).edOps))

/-- A line that a job reads through a port which may read it, on an undamaged Deck (R124, R129): the job has the bytes of the line, for the Edger with those that it has
written and that are not visible yet (R133); STAND_DK_LINES counts one. A refused read gives zeros and counts, and marks the job (R130). No byte of the Deck
changes.

A line that a job writes through a port which may write it lands 4 cycles later (R124), with its bytes and enables; a refused write counts, marks the job and
never lands (R130). Until then no byte of the Deck changes.

A line that lands in the Deck (R124, R134): where the Deck holds no error, each byte of the line is the new one where it is enabled and the old one elsewhere; no byte
outside the line, and nothing else of the stand or the device, changes. -/
def Obligations.DeckAccesses : Prop :=
  (∀ (s : State) (st id port : Nat) (l : Int) (j : Job), (s.getStand st).getJob id = some j →
      let t := s.jobRead st id port l
      (Readable s st port [l] →
        let v := ofLe (memRead (s.getStand st).mem (512 * l.toNat) 512)
        (t.getStand st).getJob id = some { j with got := tput j.got l.toNat (if port = portEC then (s.getStand st).chuteOver l v else v) } ∧
        (t.getStand st).lines = (s.getStand st).lines.add 1) ∧
      (∀ c, (s.getStand st).refusal port (l * 512) (s.standNow st) false false = some c →
        (∃ j', (t.getStand st).getJob id = some j' ∧ j'.suspect = true ∧ j'.acts = j.acts ∧ (0 ≤ l → tget 0 j'.got l.toNat = 0)) ∧
        (t.getStand st).refused = (s.getStand st).refused.add 1 ∧ (t.getStand st).lines = (s.getStand st).lines) ∧
      DeckKept s t st ∧ RegsKept s t st ∧ PlanKept s t st ∧ OthersKept s t st ∧ DeviceKept s t ∧ t.net = s.net ∧ (t.getStand st).later = (s.getStand st).later) ∧
  (∀ (s : State) (st id port img be : Nat) (l : Int) (j : Job), (s.getStand st).getJob id = some j →
      let t := s.jobWrite st id port l img be
      ((s.getStand st).refusal port (l * 512) (s.standNow st) false false = none →
        ∃ ms, (t.getStand st).later = (s.getStand st).later ++ [(s.after st (s.standNow st) 4, .land port (512 * l.toNat) img be ms)] ∧
          (Undamaged s st → ∀ m ∈ ms, m.outcome = 0) ∧ (t.getStand st).lines = (s.getStand st).lines.add 1) ∧
      (∀ c, (s.getStand st).refusal port (l * 512) (s.standNow st) false false = some c →
        (t.getStand st).later = (s.getStand st).later ∧ (t.getStand st).refused = (s.getStand st).refused.add 1 ∧
        ∃ j', (t.getStand st).getJob id = some j' ∧ j'.suspect = true ∧ j'.acts = j.acts) ∧
      DeckKept s t st ∧ RegsKept s t st ∧ PlanKept s t st ∧ OthersKept s t st ∧ DeviceKept s t ∧ t.net = s.net) ∧
  (∀ (s : State) (st k port img be : Nat) (ms : List Merge) (p : Nat → Nat → Nat → Stand → Stand) (r : Nat → State → State),
      (∀ m ∈ ms, m.off + m.data.length ≤ 512 * k + 512) →
      let t := s.takeLater st p r (.land port (512 * k) img be ms)
      t = s.updStand st (fun x => { x with mem := (t.getStand st).mem, flip := (t.getStand st).flip, bad := (t.getStand st).bad }) ∧
      (∀ a, a < 512 * k ∨ 512 * k + 512 ≤ a → memGet (t.getStand st).mem a = memGet (s.getStand st).mem a ∧
        memGet (t.getStand st).flip a = memGet (s.getStand st).flip a) ∧
      ((s.getStand st).flip = [] → (s.getStand st).bad = [] → (∀ m ∈ ms, m.outcome = 0 ∨ m.injected = true) →
        ∀ i, i < 512 → memGet (t.getStand st).mem (512 * k + i) =
          if bit be i then BitVec.ofNat 8 (img / 2 ^ (8 * i)) else memGet (s.getStand st).mem (512 * k + i)))

/-- HR_LOAD, where it goes (R43, R92), issues: from the issue cycle on it reads the lines of the tile on HW, one in each kept cycle, and the buffer notes
when the last is read and lands (R88, R90, R91). With the last line read the buffer holds the image of the tile, in the descriptor's format, scaling and check
form: the bytes of the Deck where the lines came from it undamaged; no other buffer and nothing else of the device changes with it. -/
def Obligations.HeadrigLoads : Prop :=
  (∀ (s : State) (st : Nat) (h : Hdr) (handle tile buf : Nat) (arEn : Bool) (areg : Nat), OpNumbers s →
    Goes s st 0 (.hrLoad st h handle tile buf arEn areg) →
    let d := (s.getStand st).getDesc handle
    let a := d.tileAddr ((s.getStand st).aoff arEn areg) tile
    let n := tileLines d.fmt d.scaled d.chkForm
    let at_ := fun i => s.after st (s.standNow st) i
    ∃ t, exec (.hrLoad st h handle tile buf arEn areg) s = .next t ∧
      Issues s t st 0 h none ∧ InFlight s t st 0 h.pt h.pc ∧ IssueFrame s t st ∧ t.net = s.net ∧
      (t.getStand st).ar = (s.getStand st).ar ∧ (t.getStand st).acc = (s.getStand st).acc ∧ (t.getStand st).slots = (s.getStand st).slots ∧
      (t.getStand st).drains = (s.getStand st).drains ∧ (t.getStand st).hwFree = at_ n ∧
      (∀ b, (t.getStand st).getBuf b =
        if b = buf then { (s.getStand st).getBuf b with lastRead := at_ (n - 1), landed := s.after st (at_ (n - 1)) 4 } else (s.getStand st).getBuf b) ∧
      AtWork s t st 0 (.load handle buf a)
        (((List.range n).map fun (i : Nat) => (at_ i, Act.read portHW (a / 512 + (i : Int)))) ++ [(at_ (n - 1), .stage 0)])) ∧
  ∀ (s : State) (st : Nat) (j : Job) (handle buf : Nat) (base : Int), j.stream = 0 → j.kind = .load handle buf base → 0 ≤ base →
    let d := (s.getStand st).getDesc handle
    let n := tileLines d.fmt d.scaled d.chkForm
    let k := base.toNat / 512
    let t := standStage st j (.stage 0) s
    (∀ i, i < n → tget 0 j.got (k + i) = ofLe (memRead (s.getStand st).mem (512 * (k + i)) 512)) →
    (∀ b, (t.getStand st).getBuf b =
      if b = buf then { (s.getStand st).getBuf b with full := true, bytes := memRead (s.getStand st).mem (512 * k) (512 * n), fmt := d.fmt
                                                      scaled := d.scaled, chkForm := d.chkForm, suspect := j.suspect }
      else (s.getStand st).getBuf b) ∧
    t = s.updStand st fun x => { x with buf := (t.getStand st).buf }

/-- HR_MUL and HR_ADDX, where they go, issue: their rows enter the array 5 and more cycles later (HR_ADDX of X640 data 11 apart), no drain reads a row before it
is written, and the buffers, registers and accumulators stay (R77, R78, R83, R91). As its row enters, HR_MUL adds to it, or puts in its place with INIT, the
exact products of the activation row with the weights of the buffer, column by column modulo 2^640, and HR_ADDX the exact row that it read (R70, R73, R82, R85);
the value stands 4 cycles later, and no row outside the instruction's changes. -/
def Obligations.HeadrigPasses : Prop :=
  (∀ (s : State) (st : Nat) (h : Hdr) (handle buf rows r0 : Nat) (init arEn : Bool) (areg : Nat), OpNumbers s →
    Goes s st 0 (.hrMul st h handle buf rows r0 init arEn areg) →
    let at_ := fun i => s.after st (s.standNow st) i
    ∃ t acts, exec (.hrMul st h handle buf rows r0 init arEn areg) s = .next t ∧
      Issues s t st 0 h none ∧ InFlight s t st 0 h.pt h.pc ∧ IssueFrame s t st ∧ t.net = s.net ∧
      (t.getStand st).ar = (s.getStand st).ar ∧ (t.getStand st).acc = (s.getStand st).acc ∧ (t.getStand st).slots = (s.getStand st).slots ∧
      (t.getStand st).drains = (s.getStand st).drains ∧ (t.getStand st).passFree = at_ rows ∧
      (t.getStand st).passClass = fmtClass ((s.getStand st).getDesc handle).fmt ∧
      (∀ b, (t.getStand st).getBuf b =
        if b = buf then { (s.getStand st).getBuf b with lastEntry := max ((s.getStand st).getBuf b).lastEntry (at_ (5 + (rows - 1))) }
        else (s.getStand st).getBuf b) ∧
      (∀ i, i < rows → tget 0 (t.getStand st).rowDue (r0 + i) = s.after st (at_ (5 + i)) 4) ∧
      AtWork s t st 0 (.mul handle ((s.getStand st).aoff arEn areg) buf r0 init) acts ∧
      (acts.filter fun a => match a.2 with | .stage _ => true | _ => false) = (List.range rows).map fun i => (at_ (5 + i), Act.stage i)) ∧
  (∀ (s : State) (st : Nat) (h : Hdr) (handle : Nat) (fp32 : Bool) (rows r0 : Nat) (init arEn : Bool) (areg : Nat), OpNumbers s →
    Goes s st 0 (.hrAddx st h handle fp32 rows r0 init arEn areg) →
    let at_ := fun i => s.after st (s.standNow st) i
    let entry := fun i => at_ (if fp32 then 5 + i else 11 * i + 15)
    ∃ t acts, exec (.hrAddx st h handle fp32 rows r0 init arEn areg) s = .next t ∧
      Issues s t st 0 h none ∧ InFlight s t st 0 h.pt h.pc ∧ IssueFrame s t st ∧ t.net = s.net ∧
      RegsKept s t st ∧ (t.getStand st).slots = (s.getStand st).slots ∧ (t.getStand st).drains = (s.getStand st).drains ∧
      (t.getStand st).passFree = at_ ((if fp32 then 1 else 11) * rows) ∧ (t.getStand st).passClass = 3 ∧
      (∀ i, i < rows → tget 0 (t.getStand st).rowDue (r0 + i) = s.after st (entry i) 4) ∧
      AtWork s t st 0 (.addx handle ((s.getStand st).aoff arEn areg) fp32 r0 init) acts ∧
      (acts.filter fun a => match a.2 with | .stage _ => true | _ => false) = (List.range rows).map fun i => (entry i, Act.stage i)) ∧
  ∀ (s : State) (st : Nat) (j : Job) (r0 i : Nat) (init : Bool), j.stream = 0 →
    let t := standStage st j (.stage i) s
    let old := (s.getStand st).row (r0 + i)
    let new := (t.getStand st).row (r0 + i)
    (∀ (handle aoff buf : Nat), j.kind = .mul handle aoff buf r0 init → old.cols.length = 64 →
      let b := (s.getStand st).getBuf buf
      let as := actRow ((s.getStand st).getDesc handle) aoff i j.got
      (∀ n, n < 64 → new.cols.getD n 0 = wrap640 ((if init then 0 else old.cols.getD n 0) +
        ((List.range as.length).map fun k => toFixed ((as.getD k (.zero false)).mul (b.weight k n))).foldl (· + ·) 0)) ∧
      new.cols.length = 64 ∧ (t.getStand st).entries = (s.getStand st).entries.add 1) ∧
    (∀ (handle aoff : Nat) (fp32 : Bool), j.kind = .addx handle aoff fp32 r0 init →
      let d := (s.getStand st).getDesc handle
      new = old.write (if fp32 then fp32Row ((d.rowBits aoff 0).take 64 |>.map fun a => decodeElem 0 (LineTab.elem j.got a 32))
        else x640Row ((List.range 5632).map fun (k : Nat) => BitVec.ofNat 8 (LineTab.byte j.got (d.x640Addr aoff i + (k : Int)))))
        init j.suspect (s.after st (s.standNow st) 4)) ∧
    ((∃ handle aoff buf, j.kind = .mul handle aoff buf r0 init) ∨ (∃ handle aoff fp32, j.kind = .addx handle aoff fp32 r0 init) →
      new.lastWrite = s.after st (s.standNow st) 4 ∧ new.suspect = (j.suspect || (old.suspect && !init)) ∧
      (∀ r, r < r0 ∨ r0 + i < r → (t.getStand st).rowVersions r = (s.getStand st).rowVersions r) ∧
      (j.suspect = false → ∀ r, r ≠ r0 + i → (t.getStand st).rowVersions r = (s.getStand st).rowVersions r) ∧
      t = s.updStand st fun x => { x with acc := (t.getStand st).acc, entries := (t.getStand st).entries })

/-- HR_DRAIN, where it goes, issues and puts one drain behind those in flight, with its rows, format and tag, none of them read or checked yet; the
accumulators, the weights and the Deck are as they were (R79, R91). In the cycle of a row's read, the row as its writes of earlier cycles left it, and its check
accumulator, are kept for the comparison (R86, R91).

DRAIN_ROW_CHECK (R86, R87, R91, R94): with no row at its comparison it changes nothing; otherwise the drain goes on to its next row. A row whose column
sum differs from its check accumulator, or whose flags differ, counts one mismatch, and the drain's first such row latches a free first-record register and
fails the step with CHECK_MISMATCH. Of the Deck, exactly the bytes of the lines that the row completes are then written on HA; no accumulator, weight, register
or other stand changes. -/
def Obligations.HeadrigDrains : Prop :=
  ((∀ (s : State) (st : Nat) (h : Hdr) (handle rows r0 fmt : Nat) (sat : Bool) (adj : Int) (push : Bool) (tag : Nat) (arEn : Bool) (areg : Nat), OpNumbers s →
      Goes s st 0 (.hrDrain st h handle rows r0 fmt sat adj push tag arEn areg) →
      ∃ t, exec (.hrDrain st h handle rows r0 fmt sat adj push tag arEn areg) s = .next t ∧
        Issues s t st 0 h none ∧ InFlight s t st 0 h.pt h.pc ∧ IssueFrame s t st ∧ t.net = s.net ∧ RegsKept s t st ∧
        (t.getStand st).slots = (s.getStand st).slots ∧ (t.getStand st).ftq = (s.getStand st).ftq ∧
        (t.getStand st).ftqReserved = (s.getStand st).ftqReserved + (if push then 1 else 0) ∧
        ∃ d : Drain, (t.getStand st).drains = (s.getStand st).drains ++ [d] ∧ d.opId = (s.getStand st).nextOp ∧ d.handle = handle ∧
          d.aoff = (s.getStand st).aoff arEn areg ∧ d.rows = rows ∧ d.r0 = r0 ∧ d.fmt = fmt ∧ d.sat = sat ∧ d.adj = adj ∧ d.push = push ∧ d.tag = tag ∧
          d.reads = [] ∧ d.next = 0 ∧ d.mask = 0 ∧ d.out = [] ∧
          (t.getStand st).drainFree = s.after st d.ds (drainGap fmt * (rows - 1) + 1) ∧
          AtWork s t st 0 .drain ((List.range rows).map fun i => (s.after st d.ds (drainGap fmt * i), .stage i))) ∧
    ∀ (s : State) (st i : Nat) (j : Job) (d : Drain), j.stream = 0 → j.kind = .drain →
      (s.getStand st).drains.find? (·.opId == j.id) = some d → (s.getStand st).hrInject.arm = false →
      let t := standStage st j (.stage i) s
      let row := (s.getStand st).rowAt (d.r0 + i) (s.standNow st)
      (t.getStand st).drains.find? (·.opId == j.id) = some { d with reads := d.reads ++ [(row, row.chk)], suspect := d.suspect || row.suspect } ∧
      DeviceKept s t ∧ OthersKept s t st ∧ PlanKept s t st ∧ DeckKept s t st ∧ RegsKept s t st ∧ t.net = s.net) ∧
  (∀ (s : State) (st : Nat),
      (s.drainDue st = none → exec (.drainRowCheck st) s = .next s) ∧
      ∀ (d : Drain) (row : AccRow) (chk : Int), s.drainDue st = some (d, row, chk) → OpNumbers s →
        let bad := row.cols.foldl (· + ·) 0 ≠ chk ∨ row.flags.foldl (· ||| ·) 0 ≠ row.chkFlags
        ∃ t, exec (.drainRowCheck st) s = .next t ∧ DeviceKept s t ∧ OthersKept s t st ∧ PlanKept s t st ∧ DeckKept s t st ∧ RegsKept s t st ∧ t.net = s.net ∧
          (t.getStand st).drains.map (fun x => (x.opId, x.next)) =
            (s.getStand st).drains.map (fun x => (x.opId, if x.opId = d.opId then d.next + 1 else x.next)) ∧
          (bad → (t.getStand st).mismatch = (s.getStand st).mismatch.add 1) ∧
          (¬ bad → (t.getStand st).mismatch = (s.getStand st).mismatch ∧ (t.getStand st).hrRec = (s.getStand st).hrRec) ∧
          (bad → d.mask = 0 → (s.getStand st).hrRec.valid = false →
            (t.getStand st).hrRec.valid = true ∧ (t.getStand st).hrRec.w0 =
              chk0Fields (row.cols.foldl (· + ·) 0 - chk) (row.flags.foldl (· ||| ·) 0 != row.chkFlags) (d.r0 + d.next)) ∧
          (∀ c, bad → d.mask = 0 → (s.getStand st).ctx = some c → Failed s t c 0x0201 (standUnit st 0)) ∧
          ∃ u new, t = State.runJob hrStage st d.opId jobFuel u ∧ WritesExactly portHA new (s.drainWrites st d row) ∧
            ∀ j, (s.getStand st).getJob d.opId = some j → ∃ j', (u.getStand st).getJob d.opId = some j' ∧ j'.acts = planActs new j.acts)

/-- ED_OPEN and ED_CLOSE, where they go, issue: the slot opens on the descriptor from its first element on, with its line to be read in the next cycle if the
stream lies in one line, or closes; every other slot, the Deck and the registers are as they were (R100 to R102). When that line has been read the slot keeps it.

ED_TAKE, where it goes, takes the oldest entry off the finished-tile queue, which was pushed in an earlier cycle, and opens its slot on the rows that the
entry names (R106); nothing else of the Deck, the registers, the slots or any other stand changes. -/
def Obligations.EdgerSlots : Prop :=
  ((∀ (s : State) (st : Nat) (h : Hdr) (slot handle : Nat) (out wrap arEn : Bool) (areg : Nat), OpNumbers s →
      Goes s st 1 (.edOpen st h slot handle out wrap arEn areg) →
      let aoff := (s.getStand st).aoff arEn areg
      let res := residentLine ((s.getStand st).getDesc handle) aoff out wrap
      let next := s.after st (s.standNow st) 1
      ∃ t, exec (.edOpen st h slot handle out wrap arEn areg) s = .next t ∧
        Issues s t st 1 h none ∧ InFlight s t st 1 h.pt h.pc ∧ IssueFrame s t st ∧ t.net = s.net ∧ RegsKept s t st ∧
        (t.getStand st).ftq = (s.getStand st).ftq ∧ (t.getStand st).drains = (s.getStand st).drains ∧
        (∀ q, (t.getStand st).getSlot q =
          if q = slot then { isOpen := true, handle := handle, aoff := aoff, out := out, wrap := wrap, suspect := s.tokTaint st h none
                             resident := res.map fun l => (l.toNat, 0) }
          else (s.getStand st).getSlot q) ∧
        (res = none → (t.getStand st).jobs = (s.getStand st).jobs) ∧
        ∀ l, res = some l → AtWork s t st 1 (.openSlot slot) [(next, .read portEC l), (next, .stage 0)]) ∧
    (∀ (s : State) (st : Nat) (h : Hdr) (slot : Nat), Goes s st 1 (.edClose st h slot) →
      ∃ t, exec (.edClose st h slot) s = .next t ∧
        Issues s t st 1 h none ∧ InFlight s t st 1 h.pt h.pc ∧ IssueFrame s t st ∧ t.net = s.net ∧ RegsKept s t st ∧
        (t.getStand st).ftq = (s.getStand st).ftq ∧ (t.getStand st).drains = (s.getStand st).drains ∧ (t.getStand st).jobs = (s.getStand st).jobs ∧
        ∀ q, (t.getStand st).getSlot q = if q = slot then {} else (s.getStand st).getSlot q) ∧
    ∀ (s : State) (st slot i l v : Nat) (j : Job), j.stream = 1 → j.kind = .openSlot slot → ((s.getStand st).getSlot slot).resident = some (l, v) →
      let t := standStage st j (.stage i) s
      (∀ q, (t.getStand st).getSlot q =
        if q = slot then { (s.getStand st).getSlot q with resident := some (l, tget 0 j.got l), suspect := ((s.getStand st).getSlot q).suspect || j.suspect }
        else (s.getStand st).getSlot q) ∧
      t = s.updStand st fun x => { x with slots := (t.getStand st).slots }) ∧
  (∀ (s : State) (st : Nat) (h : Hdr) (slot : Nat), Goes s st 1 (.edTake st h slot) →
      ∃ t e es, exec (.edTake st h slot) s = .next t ∧ (s.getStand st).ftq = e :: es ∧ e.cycle ≤ s.standNow st ∧
        Issues s t st 1 h none ∧ InFlight s t st 1 h.pt h.pc ∧ IssueFrame s t st ∧ t.net = s.net ∧ RegsKept s t st ∧
        (t.getStand st).drains = (s.getStand st).drains ∧ (t.getStand st).jobs = (s.getStand st).jobs ∧
        (t.getStand st).ftq = es ∧
        ∀ q, (t.getStand st).getSlot q =
          if q = slot then { isOpen := true, handle := e.handle, aoff := e.aoff, suspect := e.suspect, rows := some e.rows } else (s.getStand st).getSlot q)

/-- Each compute operation of the Edger, where it goes, issues: its source slots and slot D move on by the elements that it takes and gives, no other slot
moves, and from the issue cycle on it reads its source lines on EC, one in each kept cycle (where there is more than one, so that it does not end in the issue cycle) (R100, R118, R131); accumulators, weights, registers, the queue and
every other stand are as they were. With the last line read its results are formed and, where no fault is injected or met, the bytes that it then writes are
exactly those of its results at the elements of D (R100, R103, R108 to R114, R132). -/
def Obligations.EdgerComputes : Prop :=
  (∀ p ∈ edgerOps, ∀ (s : State) (st : Nat) (o : EdOp), OpNumbers s → Goes s st 1 (p.2 st o) →
    let u := s.getStand st
    let ls := (u.edLines p.1 o).1
    let at_ := fun i => s.after st (s.standNow st) i
    ∃ t, exec (p.2 st o) s = .next t ∧
      Issues s t st 1 o.hdr (rcombNeed p.1 o) ∧ InFlight s t st 1 o.hdr.pt o.hdr.pc ∧ IssueFrame s t st ∧ t.net = s.net ∧ RegsKept s t st ∧
      (t.getStand st).ftq = u.ftq ∧ (t.getStand st).drains = u.drains ∧
      (∀ q, (t.getStand st).getSlot q = (edMoves s p.1 st o).foldl
        (fun x m => if m.1 = q then x.advance (x.total (u.getDesc x.handle)) m.2 else x) (u.getSlot q)) ∧
      (1 < ls.length → ∃ wr, AtWork s t st 1 (.compute p.1 o (u.getSlot o.a) (u.getSlot o.b) (u.getSlot o.c) (u.getSlot o.d) wr)
        (((List.range ls.length).map fun i => (at_ i, Act.read portEC (ls.getD i 0))) ++ [(at_ (ls.length - 1), .stage 0)]))) ∧
  ∀ (s : State) (st i wr : Nat) (j : Job) (k : EdKind) (o : EdOp) (a b c d : Slot), j.stream = 1 → j.kind = .compute k o a b c d wr → o.bad = none →
    (s.getStand st).edInject.arm = false → (s.getStand st).getJob j.id = some j →
    let u := s.getStand st
    let dd := u.getDesc d.handle
    let fs := fun (q : Slot) => ((u.getDesc q.handle).fmt, (u.getDesc q.handle).scaled)
    let us := k.uses (bit o.fn 0)
    let srcs := (if us.1 && !o.ai then [fs a] else []) ++ (if us.2.1 && !o.bi then [fs b] else []) ++ (if us.2.2 && !o.ci then [fs c] else [])
    let mode := (laneMode k srcs dd.fmt, dd.fmt == 1 || srcs.any fun p => p.1 == 1)
    let x := edSrcs u k o mode a b c j.got
    let r := edCompute k o mode.1 ((u.getDesc a.handle).e 0) dd x
    let t := standStage st j (.stage i) s
    (∃ new j', (t.getStand st).getJob j.id = some j' ∧ j'.acts = planActs new j.acts ∧ WritesExactly portEC new (d.writes dd r.out r.n)) ∧
    (t.getStand st).edSat = u.edSat.add r.sat ∧ (t.getStand st).edNonfin = u.edNonfin.add (r.nonfin + x.saturated) ∧
    DeckKept s t st ∧ RegsKept s t st ∧ (t.getStand st).slots = u.slots ∧ OthersKept s t st ∧ DeviceKept s t ∧ t.net = s.net ∧ t.tally = s.tally

/-- SK_MOVE, SK_ATOM, SK_SCRUB and SK_BIN, where they go, issue, and each starts to work; the Deck, the accumulators, weights and registers of the stand and the
owners and power of its banks are as they were, as is every other stand (R43, R138, R148, R182, R228). When the lines that an SK_MOVE into its own Deck reads
are at hand it writes, line by line, exactly its destination's bytes, each with its source's byte or zero under a NULL (R179, R228); a line of another move
leaves as one flit, with those bytes at their places (R227, R228). An SK_SCRUB reads a line in each of its cycles, from FIRST on. An SK_BIN writes exactly its
lists, counts and positions (R183). -/
def Obligations.SkidderMoves : Prop :=
  (∀ (s : State) (st : Nat) (h : Hdr) (i : Instr),
    ((∃ src dst sEn sReg dEn dReg dtok grain, i = .skMove st h src dst sEn sReg dEn dReg dtok grain) ∨
     (∃ op tgt src ret arEn areg imm, i = .skAtom st h op tgt src ret arEn areg imm) ∨
     (∃ first lines, i = .skScrub st h first lines) ∨ (∃ key list pos b, i = .skBin st h key list pos b)) →
    Goes s st 2 i →
    ∃ t, exec i s = .next t ∧ Issues s t st 2 h none ∧ IssueFrame s t st ∧ UnitsKept s t st ∧
      (t.getStand st).nextOp = (s.getStand st).nextOp + 1 ∧ (∃ o ∈ (t.getStand st).ops, o.id = (s.getStand st).nextOp ∧ o.stream = 2 ∧ o.pc = h.pc) ∧
      ((∃ first lines, i = .skScrub st h first lines) ∨ (∃ key list pos b, i = .skBin st h key list pos b) → t.net = s.net)) ∧
  (∀ (s : State) (st n : Nat) (j : Job) (mv : Move) (lines : List (Int × Nat × List MByte)), j.stream = 2 → j.kind = .move mv true lines n →
    (s.getStand st).getJob j.id = some j → (lines.map (·.1)).Nodup → (∀ x ∈ lines, ∀ b ∈ x.2.2, b.1 / 512 = x.1) →
    let t := standStage st j (.stage 1) s
    (∃ new j', (t.getStand st).getJob j.id = some j' ∧ j'.acts = planActs new j.acts ∧ new.length = lines.length ∧
      WritesExactly portSK new ((lines.map fun x => x.2.2.map fun b => (b.1, match b.2 with | some a => BitVec.ofNat 8 (LineTab.byte j.got a) | none => 0)).flatten)) ∧
    DeckKept s t st ∧ UnitsKept s t st ∧ OthersKept s t st ∧ DeviceKept s t ∧ t.net = s.net) ∧
  (∀ (s : State) (st n k : Nat) (j : Job) (mv : Move) (lines : List (Int × Nat × List MByte)) (l : Int) (late : Nat) (bs : List MByte),
    j.stream = 2 → j.kind = .move mv false lines n → lines[k]? = some (l, late, bs) → (bs.map (·.1)).Nodup → (∀ b ∈ bs, b.1 / 512 = l) →
    ∃ f, (standStage st j (.stage (k + 2)) s).net.flits = s.net.flits ++ [f] ∧ f.loc = .node st ∧ f.inPort = 4 ∧ f.seq = n + k ∧ f.ckt = 0 ∧
      f.last = (k + 1 == lines.length) ∧ f.suspect = j.suspect ∧ f.dom = (((s.getStand st).ctx).getD 0) ∧
      (memTier ((s.getStand st).getDesc mv.dst).tier = false → f.doff = doffOf l ∧ f.dtok = mv.dtok) ∧
      (∀ b ∈ bs, f.payload.getD (b.1 % 512).toNat 0 = (match b.2 with | some a => BitVec.ofNat 8 (LineTab.byte j.got a) | none => 0)) ∧
      ∀ w, w < 64 → bit f.be w = bs.any fun b => (b.1 % 512).toNat / 8 == w) ∧
  (∀ (s : State) (st left : Nat) (l : Int) (j : Job), j.stream = 2 → j.kind = .scrub l (left + 1) [] → (s.getStand st).getJob j.id = some j →
    Readable s st portSK [l] →
    let t := standStage st j (.atomic 0) s
    (∃ j', (t.getStand st).getJob j.id = some j' ∧ j'.kind = .scrub (l + 1) left []) ∧ (t.getStand st).lines = (s.getStand st).lines.add 1 ∧
    DeckKept s t st ∧ UnitsKept s t st ∧ OthersKept s t st ∧ DeviceKept s t ∧ t.net = s.net) ∧
  ∀ (s : State) (st key list pos b i : Nat) (j : Job), j.stream = 2 → j.kind = .bin key list pos b → (s.getStand st).getJob j.id = some j →
    let u := s.getStand st
    let x := binKeys ((u.getDesc list).e 1) ((u.getDesc list).e 0) b ((u.getDesc key).e 0) ((u.getDesc key).elemBits.map fun a => LineTab.elem j.got a 32)
    let t := standStage st j (.stage i) s
    (∃ new j', (t.getStand st).getJob j.id = some j' ∧ j'.acts = planActs new j.acts ∧ WritesExactly portSK new (u.binWrites list pos x)) ∧
    (t.getStand st).ixOver = (if x.excess = [] then u.ixOver else u.ixOver.add x.excess.length) ∧
    DeckKept s t st ∧ UnitsKept s t st ∧ OthersKept s t st ∧ DeviceKept s t ∧ t.net = s.net

/-- SK_OWN and SK_PWR, where they go (R128, R152), issue, and what they do takes effect with the next kept cycle: every bank of the mask then has the new
owner, or is in transition to the new power state unless it is in that state already; every other bank keeps its owner and state, and the Deck its bytes
(R128, R151).

BANK_TRANSITION_DONE on a bank in transition whose time has come puts the bank in its new state; a bank that goes OFF then reads as zero in every
byte, and no byte of another bank changes (R150, R151). On any other bank it changes nothing. -/
def Obligations.SkidderBanks : Prop :=
  ((∀ (s : State) (st : Nat) (h : Hdr) (owner mask : Nat), Goes s st 2 (.skOwn st h owner mask) →
      ∃ t, exec (.skOwn st h owner mask) s = .next t ∧
        Issues s t st 2 h none ∧ InFlight s t st 2 h.pt h.pc ∧ IssueFrame s t st ∧ UnitsKept s t st ∧ t.net = s.net ∧
        (t.getStand st).later = (s.getStand st).later ++ [(s.after st (s.standNow st) 1, .own owner mask)]) ∧
    (∀ (s : State) (st : Nat) (h : Hdr) (state mask : Nat), Goes s st 2 (.skPwr st h state mask) →
      ∃ t, exec (.skPwr st h state mask) s = .next t ∧
        Issues s t st 2 h none ∧ InFlight s t st 2 h.pt h.pc ∧ IssueFrame s t st ∧ UnitsKept s t st ∧ t.net = s.net ∧
        (t.getStand st).later = (s.getStand st).later ++ [(s.after st (s.standNow st) 1, .power state mask)]) ∧
    (∀ (s : State) (st owner mask : Nat) (p : Nat → Nat → Nat → Stand → Stand) (r : Nat → State → State),
      let t := s.takeLater st p r (.own owner mask)
      (∀ b, b < 32 → (t.getStand st).owner b = if bit mask b then owner else (s.getStand st).owner b) ∧
      t = s.updStand st fun x => { x with own := (t.getStand st).own, quiet := (t.getStand st).quiet }) ∧
    ∀ (s : State) (st state mask : Nat) (r : Nat → State → State),
      let t := s.takeLater st (fun now state mask => Stand.setPwr mask state (fun k => s.after st now k) 32) r (.power state mask)
      (∀ b, b < 32 → (t.getStand st).power b = (if bit mask b && (s.getStand st).power b ≠ state then 3 else (s.getStand st).power b) ∧
        (bit mask b = true → (s.getStand st).power b ≠ state →
          tfind? (t.getStand st).pwrTo b = some (state, s.after st (s.standNow st) (pwrTime ((s.getStand st).power b) state)))) ∧
      t = s.updStand st fun x => { x with pwr := (t.getStand st).pwr, pwrTo := (t.getStand st).pwrTo }) ∧
  ((∀ (s : State) (st b dst fin : Nat), (s.getStand st).power b = 3 → tfind? (s.getStand st).pwrTo b = some (dst, fin) → fin ≤ s.standNow st →
      ∃ t, exec (.bankTransitionDone st b) s = .next t ∧
        (t.getStand st).power b = dst ∧ (∀ j, j ≠ b → (t.getStand st).power j = (s.getStand st).power j) ∧
        DeviceKept s t ∧ OthersKept s t st ∧ PlanKept s t st ∧ RegsKept s t st ∧ (t.getStand st).own = (s.getStand st).own ∧
        ∀ a, memGet (t.getStand st).mem a =
          if dst = 0 ∧ b * bankBytes ≤ a ∧ a < (b + 1) * bankBytes then 0 else memGet (s.getStand st).mem a) ∧
    ∀ (s : State) (st b : Nat), (s.getStand st).power b ≠ 3 ∨ tfind? (s.getStand st).pwrTo b = none ∨
        (∃ dst fin, tfind? (s.getStand st).pwrTo b = some (dst, fin) ∧ s.standNow st < fin) →
      ∃ t, exec (.bankTransitionDone st b) s = .next t ∧ t.getStand st = s.getStand st ∧ OthersKept s t st ∧ DeviceKept s t ∧ t.net = s.net)

/-- The injection registers of a stand (R96, R121, R155, R250): written while a debug plan runs on the stand, with their fields in range, they read back
with the reserved bits off, armed by bit 63 (STAND_DK_INJECT only with a count of 1 or more); with no debug plan a write changes nothing, and one whose field
is out of range is ignored (R558). -/
def Obligations.InjectionRegisters : Prop :=
  ∀ (s : State) (st v : Nat),
    (s.debugOn st = false → exec (.standHrInject st v) s = .next s ∧ exec (.standEdInject st v) s = .next s ∧
      exec (.standDkInject st v) s = .next s ∧ exec (.standFlInject st v) s = .next s) ∧
    (640 ≤ fld v 41 32 → exec (.standHrInject st v) s = .next s) ∧ (384 ≤ fld v 40 32 → exec (.standDkInject st v) s = .next s) ∧
    (s.debugOn st = true → fld v 41 32 < 640 → exec (.standHrInject st v) s =
      .next (s.updStand st fun t => { t with hrInject := { arm := bit v 63, w := v &&& 0x3FF0000001F } })) ∧
    (s.debugOn st = true → exec (.standEdInject st v) s = .next (s.updStand st fun t => { t with edInject := { arm := bit v 63, w := v &&& 0xFF } })) ∧
    (s.debugOn st = true → fld v 40 32 < 384 → exec (.standDkInject st v) s =
      .next (s.updStand st fun t => { t with dkInject := { arm := bit v 63 && fld v 1 0 ≠ 0, w := v &&& 0x1F01FF00003F03 } })) ∧
    (s.debugOn st = true → ∃ t, exec (.standFlInject st v) s = .next t ∧
      (t.getNode (.node st)).inject = { arm := bit v 63, w := v &&& 0x10FFF } ∧ DeviceKept s t ∧ t.stand = s.stand)

/-- FLIT_FORWARD at a stand node toward a link (R221, R222, R229, R232, R234): the flit that the entry takes leaves for the next node, with the entry's
circuit, and waits there for its planned entry or in the crossing's FIFO; it counts as late where it comes from a FIFO after its planned entry.
With no entry or no flit for it, nothing changes. -/
def Obligations.FlitForwarded : Prop :=
  ∀ (s : State) (st o t : Nat) (cs : List Conn), s.entryNow (.node st) o = (cs, t) →
    ((cs.find? fun c => c.out == o && (c.kind == 1 || (c.kind == 3 && !freshAt (.node st) c.inp))) = none →
      exec (.flitForward (.node st) o false) s = .next s) ∧
    ∀ c, (cs.find? fun c => c.out == o && (c.kind == 1 || (c.kind == 3 && !freshAt (.node st) c.inp))) = some c →
      ((s.net.flits.find? fun f => f.fits s (.node st) c && f.resent == (c.kind == 3)) = none → exec (.flitForward (.node st) o false) s = .next s) ∧
      ∀ f l inp lat x, (s.net.flits.find? fun f => f.fits s (.node st) c && f.resent == (c.kind == 3)) = some f →
        f.inPort < 4 → c.inp = f.inPort → (∀ p, f.srcEnd ≠ .aelel p) →
        (cs.filter fun y => y.kind == c.kind && y.inp == c.inp && y.ckt == c.ckt) = [c] → nextHop (.node st) o t = some (l, inp, lat, x) →
        (x = true → s.fifoCount l (arrivePort l f.inPort inp) < 4) →
        ∃ u, exec (.flitForward (.node st) o false) s = .next u ∧
          u.net.flits = dropFirst (· == f) s.net.flits ++ [{ f with
            loc := l, inPort := arrivePort l f.inPort inp, ready := s.time + lat, due := t + lat, fifo := x, ckt := c.ckt
            pcyc := if x then t else f.pcyc, kept := false }] ∧
          (u.getNode (.node st)).late =
            (if f.fifo && decide (f.due < t) then (s.getNode (.node st)).late.add 1 else (s.getNode (.node st)).late) ∧
          u.net.pkts = s.net.pkts ∧ u.stand = s.stand ∧ DeviceKept s u ∧ u.ctx = s.ctx ∧ u.tally = s.tally ∧ u.out = s.out

/-- FLIT_ARRIVAL (R130, R142, R227, R229, R243): the oldest flit on output L of a stand leaves the Flume. Intact, of the stand's domain and not refused, its
enabled bytes are on their way into the Deck line that it names, where they land 4 cycles later; a refused one is counted and writes nothing. Until then no byte of
the Deck changes, and nothing of any other stand, no register and no accumulator does. With none there, nothing changes. -/
def Obligations.FlitArrives : Prop :=
  ∀ (s : State) (st : Nat) (corrupt : Bool),
    ((s.net.flits.find? fun f => f.loc == .stand st) = none → exec (.flitArrival st corrupt) s = .next s) ∧
    ∀ f, (s.net.flits.find? fun f => f.loc == .stand st) = some f → (∀ t ∈ (s.getNode (.stand st)).tracks, ∀ o, t.op = some o → o.1 = st) →
      (∀ o, f.op = some o → o.1 = st) →
      ∃ t, exec (.flitArrival st corrupt) s = .next t ∧ t.net.flits = dropFirst (· == f) s.net.flits ∧
        OthersKept s t st ∧ PlanKept s t st ∧ RegsKept s t st ∧ DeviceKept s t ∧ DeckKept s t st ∧
        ((s.getStand st).ctx = some f.dom → corrupt = false → f.intact = true → s.flInjects (.stand st) false f.ckt = false → f.resent = false →
          (t.getNode (.stand st)).flits = (s.getNode (.stand st)).flits.add 1 ∧
          ((s.getStand st).refusal portSK ((f.doff * 512 : Nat) : Int) (s.standNow st) true false = none →
            ∃ ms more, (t.getStand st).later = (s.getStand st).later ++
              (s.after st (s.standNow st) 4, Later.land portSK (f.doff * 512) (ofLe f.payload) (flitBE f.be &&& ((2 ^ 512 - 1) ^^^ f.keep)) ms) :: more) ∧
          (∀ c, (s.getStand st).refusal portSK ((f.doff * 512 : Nat) : Int) (s.standNow st) true false = some c →
            (t.getStand st).refused = (s.getStand st).refused.add 1 ∧ Failed s t f.dom 0x0206 (standUnit st 3) ∧
            ∀ e ∈ (t.getStand st).later, e ∈ (s.getStand st).later ∨ ∃ a b c, e.2 = Later.dtok a b c))

/-- An arrival from outside the domain of the stand it comes to (R144), be it a circuit flit, a token or credit post, an atomic, or a reply, is dropped: it is
gone, it changes nothing, and it is counted and reported, and the step is not marked. -/
def Obligations.FenceDrops : Prop :=
  ∀ (s : State) (st d : Nat) (corrupt : Bool), (s.getStand st).ctx = some d →
    (∀ f, (s.net.flits.find? fun f => f.loc == .stand st) = some f → f.dom ≠ d →
      ∃ t, exec (.flitArrival st corrupt) s = .next t ∧ t.net.flits = dropFirst (· == f) s.net.flits ∧ t.net.pkts = s.net.pkts ∧
        Fenced s t st d f.srcEnd.srcCode) ∧
    ∀ (c : Instr) (want : Payload → Bool), (c = .token (.stand st) corrupt ∧ want = (fun | .token .. => true | _ => false)) ∨
      (c = .atomic st corrupt ∧ want = (fun | .atomic .. => true | _ => false)) ∨
      (c = .atomReply st corrupt ∧ want = (fun | .atomReply .. => true | _ => false)) ∨
      (c = .notchReply st corrupt ∧ want = (fun | .notchReply .. => true | _ => false)) →
      ∀ p, FirstAt s (.stand st) want p → p.dom ≠ d →
        ∃ t, exec c s = .next t ∧ t.net.pkts = dropFirst (· == p) s.net.pkts ∧ t.net.flits = s.net.flits ∧ Fenced s t st d p.srcEnd.srcCode

/-- PACKET_FORWARD at a stand node (R236 to R238): a packet whose route is broken there is dropped with ROUTE_FAULT, which fails its domain's step;
otherwise the oldest packet that the entry's output is asked for goes on by one selector, requests before replies, where the next buffer has place, and its
RETURN gains the way back. -/
def Obligations.PacketForwarded : Prop :=
  ∀ (s : State) (st o : Nat),
    (∀ p, (s.net.pkts.filter fun p => p.loc == .node st && decide (p.ready ≤ s.time) && p.next.isNone) = [p] →
      ((s.conns (.node st) (s.locNow (.node st))).find? fun c => c.out == o && c.kind == 2) = none →
      ∃ t, exec (.packetForward (.node st) o) s = .next t ∧ t.net.pkts = dropFirst (· == p) s.net.pkts ∧ Failed s t p.dom 0x0305 (standUnit st 3) ∧
        t.net.flits = s.net.flits ∧ t.stand = s.stand ∧ t.ctx = s.ctx ∧ t.prot = s.prot ∧ t.pending = s.pending) ∧
    ((s.net.pkts.filter fun p => p.loc == .node st && decide (p.ready ≤ s.time) && p.next.isNone) = [] →
      (((s.conns (.node st) (s.locNow (.node st))).find? fun c => c.out == o && c.kind == 2) = none → exec (.packetForward (.node st) o) s = .next s) ∧
      ∀ c p l inp lat x k, ((s.conns (.node st) (s.locNow (.node st))).find? fun c => c.out == o && c.kind == 2) = some c →
        (s.getCmp (standCmp st)).keptNow = true → s.pickPacket (.node st) c = some p → p.inPort < 4 →
        nextHop (.node st) c.out (s.locNow (.node st)) = some (l, inp, lat, x) → p.next = some (c.out, k) → s.pktRoom l inp p.reply = true →
        ∃ t, exec (.packetForward (.node st) o) s = .next t ∧
          t.net.pkts = dropFirst (· == p) s.net.pkts ++ [{ p with
            loc := l, inPort := arrivePort l p.inPort inp, ready := s.time + lat, ptr := p.ptr + k, ret := p.ret ++ [[p.inPort]] }] ∧
          t.net.flits = s.net.flits ∧ t.net.node = s.net.node ∧ t.stand = s.stand ∧ t.ctx = s.ctx ∧ t.tally = s.tally ∧ t.out = s.out ∧ DeviceKept s t)

/-- TOKEN at a stand or at the Grader (R196, R239, R417): the packet is taken, and its counter, and no other, takes a post of its amount, which counts in at the
end of the cycle; a post to token 0, or past the last counter, has no effect; nothing else of the stand but counts changes.

R197, R198: at the end of a cycle its posts count in, after what issue took: a count stays at 0xFFFF where it would pass it, and then the SUSPECT flag of a
token counter is set, as it is by a post that carries it (R200); SYNC_OVERFLOW is counted and the step fails. A credit counter has no flag. -/
def Obligations.TokenPosts : Prop :=
  (∀ (s : State) (st i k : Nat) (sus : Bool) (p : Packet),
      (p.payload = .token false i k sus → GivenOut s (.stand st) (fun | .token .. => true | _ => false) p →
        ∃ t, exec (.token (.stand st) false) s = .next t ∧ t.net.pkts = dropFirst (· == p) s.net.pkts ∧
          (∀ j, (t.getStand st).getTok j = if j = i ∧ 1 ≤ i ∧ i ≤ 31 then ((s.getStand st).getTok j).post s.time k sus else (s.getStand st).getTok j) ∧
          (t.getStand st).cred = (s.getStand st).cred ∧ (t.getNode (.stand st)).pkts = (s.getNode (.stand st)).pkts.add 1 ∧
          DeckKept s t st ∧ RegsKept s t st ∧ PlanKept s t st ∧ OthersKept s t st ∧ DeviceKept s t) ∧
      (p.payload = .token true i k sus → GivenOut s (.stand st) (fun | .token .. => true | _ => false) p →
        ∃ t, exec (.token (.stand st) false) s = .next t ∧ t.net.pkts = dropFirst (· == p) s.net.pkts ∧
          (∀ j, (t.getStand st).getCred j = if j = i ∧ 1 ≤ i ∧ i ≤ 15 then ((s.getStand st).getCred j).post s.time k false else (s.getStand st).getCred j) ∧
          (t.getStand st).tok = (s.getStand st).tok ∧
          DeckKept s t st ∧ RegsKept s t st ∧ PlanKept s t st ∧ OthersKept s t st ∧ DeviceKept s t) ∧
      (p.payload = .token false i k sus → GivenOut s (.unit 46) (fun | .token .. => true | _ => false) p →
        ∃ t, exec (.token (.unit 46) false) s = .next t ∧ t.net.pkts = dropFirst (· == p) s.net.pkts ∧ t.stand = s.stand ∧
          ∀ j, tget {} (t.getGr p.dom).tok j =
            if j = i ∧ 1 ≤ i ∧ i ≤ 16 then (tget ({} : Cnt) (s.getGr p.dom).tok j).post s.time k sus else tget {} (s.getGr p.dom).tok j)) ∧
  (∀ (s : State) (st i : Nat),
      let t := s.settleStandCounters st
      let sum := fun (c : Cnt) => c.n + ((c.posts.filter fun p => decide (p.time ≤ s.time)).map (·.k)).foldl (· + ·) 0
      ((t.getStand st).getTok i).n = min 0xFFFF (sum ((s.getStand st).getTok i)) ∧
      ((t.getStand st).getTok i).suspect = (((s.getStand st).getTok i).suspect || decide (0xFFFF < sum ((s.getStand st).getTok i)) ||
        (((s.getStand st).getTok i).posts.filter fun p => decide (p.time ≤ s.time)).any (·.sus)) ∧
      ((t.getStand st).getCred i).n = min 0xFFFF (sum ((s.getStand st).getCred i)) ∧ ((t.getStand st).getCred i).suspect = false ∧
      (∀ d, (s.getStand st).ctx = some d → 0xFFFF < sum ((s.getStand st).getTok i) ∨ 0xFFFF < sum ((s.getStand st).getCred i) →
        Failed s t d 0x020A (standUnit st 0)) ∧
      DeckKept s t st ∧ RegsKept s t st ∧ PlanKept s t st ∧ OthersKept s t st ∧ DeviceKept s t ∧ t.net = s.net)

/-- ATOMIC and ATOM_REPLY at a stand (R138 to R140, R216, R239): an atomic is answered along its RETURN by one reply packet, which can leave 4 cycles later; one that
is not refused on an undamaged Deck gives back its old value, and its new value, and no other byte, lands 2 cycles later. A reply takes one awaited part off the
requester's operation and, where that has a RET element, sends the value, sign-extended from its width, on its way there. Until something lands no byte of the
Deck changes, and no register, accumulator or other stand does.

NOTCH_REPLY at the stand that asked (R203, R291, R294, R298): a reply with a STATUS, or one to an ADD with SAT, fails the requester's running step; a reply to
a READ is on its way to RET, VALUE first and then META, and to no other byte; no register, accumulator or other stand changes. -/
def Obligations.RepliesAndAtomics : Prop :=
  (∀ (s : State) (st : Nat) (p : Packet),
      (∀ op off v tag, p.payload = .atomic op off v tag → GivenOut s (.stand st) (fun | .atomic .. => true | _ => false) p →
        ∃ t q old sus, exec (.atomic st false) s = .next t ∧ t.net.pkts = dropFirst (· == p) s.net.pkts ++ [q] ∧
          q.payload = .atomReply old sus tag ∧ q.reply = true ∧ q.route = p.ret.reverse.flatten ∧ q.dom = p.dom ∧ q.ready = s.time + 4 ∧
          RegsKept s t st ∧ PlanKept s t st ∧ OthersKept s t st ∧ DeviceKept s t ∧ DeckKept s t st ∧
          (Undamaged s st → off % (atomicBytes op : Int) = 0 → (s.getStand st).refusal portSK off (s.standNow st) true true = none →
            old = ofLe (memRead (s.getStand st).mem off.toNat (atomicBytes op)) ∧ sus = false ∧
            ∃ a img be, (t.getStand st).later = (s.getStand st).later ++ [(s.after st (s.standNow st) 2, .land portSK a img be [])] ∧
              let u := (t.getStand st).land a img be []
              ofLe (memRead u.mem off.toNat (atomicBytes op)) = atomicResult op old v ∧
              ∀ b : Nat, (b : Int) < off ∨ off + atomicBytes op ≤ (b : Int) → memGet u.mem b = memGet (s.getStand st).mem b)) ∧
      ∀ old sus op ret w, p.payload = .atomReply old sus ⟨st, op, ret, w⟩ → GivenOut s (.stand st) (fun | .atomReply .. => true | _ => false) p →
        ∃ t, exec (.atomReply st false) s = .next t ∧ t.net.pkts = dropFirst (· == p) s.net.pkts ∧
          RegsKept s t st ∧ PlanKept s t st ∧ OthersKept s t st ∧ DeviceKept s t ∧ DeckKept s t st ∧
          (∀ o ∈ (s.getStand st).ops, ∀ n, o.id = op → o.kind = .await (n + 1) → ∃ o' ∈ (t.getStand st).ops, o'.id = op ∧ o'.kind = .await n ∧
            (sus = true → o'.suspect = true)) ∧
          (ret = none → (t.getStand st).later = (s.getStand st).later) ∧
          ∀ off k, ret = some (off, k) → k = 4 ∨ k = 8 → off % (k : Int) = 0 → (s.getStand st).refusal portSK off (s.standNow st) true false = none →
            ∃ a img be ms, (t.getStand st).later = (s.getStand st).later ++ [(s.after st (s.standNow st) 4, .land portSK a img be ms)] ∧
              (Undamaged s st →
                let u := (t.getStand st).land a img be ms
                ofLe (memRead u.mem off.toNat k) = wrapInt (8 * k) (sext (8 * w) old) ∧
                ∀ b : Nat, (b : Int) < off ∨ off + (k : Int) ≤ (b : Int) → memGet u.mem b = memGet (s.getStand st).mem b)) ∧
  (∀ (s : State) (st value md op status n o w : Nat) (ret : Option (Int × Nat)) (p : Packet),
      p.payload = .notchReply value md op status n ⟨st, o, ret, w⟩ → GivenOut s (.stand st) (fun | .notchReply .. => true | _ => false) p →
      ∃ t, exec (.notchReply st false) s = .next t ∧ t.net.pkts = dropFirst (· == p) s.net.pkts ∧
        RegsKept s t st ∧ PlanKept s t st ∧ OthersKept s t st ∧ DeviceKept s t ∧ DeckKept s t st ∧
        (ret = none → (t.getStand st).later = (s.getStand st).later ∧
          ∀ d, s.running st = some d → replyCause op status md ≠ 0 → Failed s t d (replyCause op status md) (standUnit st 3)) ∧
        (∀ off k, ret = some (off, k) → off % 8 = 0 → (s.getStand st).refusal portSK off (s.standNow st) true false = none →
          ∃ a img be ms, (t.getStand st).later = (s.getStand st).later ++ [(s.after st (s.standNow st) 4, .land portSK a img be ms)] ∧
            (Undamaged s st →
              let u := (t.getStand st).land a img be ms
              memRead u.mem off.toNat 8 = leBytes 4 value ++ leBytes 4 md ∧
              ∀ b : Nat, (b : Int) < off ∨ off + 8 ≤ (b : Int) → memGet u.mem b = memGet (s.getStand st).mem b)) ∧
        (t.getStand st).waits = (s.getStand st).waits - (if op = 3 then 1 else 0))

/-- NACK at a source (R244, R245): an item of the log sent at most W cycles ago, with a resend entry left in the ring and, of its transfer, fewer than four flits
waiting, joins the items to be sent again; where one of these fails the plan of the domain halts at the ring boundary. FLUME_RESEND sends the first such item that
its entry serves again, marked RESENT, where the next buffer has place, takes it off the list and counts it. -/
def Obligations.NackAndResend : Prop :=
  (∀ (s : State) (l : Loc) (p : Packet) (packet : Bool) (ckt : Nat) (route : List Nat) (rail seq : Nat),
    p.payload = .nack packet ckt route rail seq → GivenOut s l (fun | .nack .. => true | _ => false) p →
    ((s.getNode l).log.reverse.find? (·.named packet ckt route rail seq) = none →
      ∃ t, exec (.nack l false) s = .next t ∧ (t.getCtx p.dom).resendOut.isSome = true ∧
        Raised s t p.dom 0x0301 l.unitCode (s.locNow l) (chanItem packet ckt route rail) seq ∧
        t.net.pkts = dropFirst (· == p) s.net.pkts ∧ t.stand = s.stand ∧ t.net.flits = s.net.flits) ∧
    ∀ e, (s.getNode l).log.reverse.find? (·.named packet ckt route rail seq) = some e →
      (e.time + (s.getCtx p.dom).resendW < s.time →
        ∃ t, exec (.nack l false) s = .next t ∧ (t.getCtx p.dom).resendOut.isSome = true ∧ (t.getNode l).resends = (s.getNode l).resends) ∧
      (s.time ≤ e.time + (s.getCtx p.dom).resendW → s.resendEntryLeft l e.item = true →
        (packet = true ∨ ((s.getNode l).resends.filter fun r => r.1.xfer == e.xfer && !r.1.item.isPkt).length < 4) →
        ∃ t, exec (.nack l false) s = .next t ∧ (t.getNode l).resends.length = (s.getNode l).resends.length + 1 ∧
          (e.item.rereads = false → (∀ r ∈ (s.getNode l).resends, r.2 = true) → (t.getNode l).resends = (s.getNode l).resends ++ [(e, true)] ∧
            t.stand = s.stand ∧ t.tally = s.tally) ∧
          t.net.pkts = dropFirst (· == p) s.net.pkts ∧ t.net.flits = s.net.flits ∧ t.ctx = s.ctx ∧ DeviceKept s t)) ∧
  ∀ (s : State) (st o : Nat) (c : Conn) (e : LogEnt) (b : Bool), (s.getCmp (standCmp st)).keptNow = true →
    let l := Loc.node st
    let cs := s.conns l (s.locNow l)
    (cs.find? fun c => c.out == o && c.kind == 3 && c.inp == 4) = some c →
    (s.getNode l).resends.find? (fun r => r.2 && resendFor l 4 r.1.item c) = some (e, b) →
    (∀ f l' inp lat x, e.item = .flit f → (cs.filter fun x => x.kind == 3 && x.inp == c.inp && x.ckt == c.ckt) = [c] →
      nextHop l c.out (s.locNow l) = some (l', inp, lat, x) → (x = true → s.fifoCount l' (arrivePort l' 4 inp) < 4) →
      ∃ t g, exec (.flumeResend l o) s = .next t ∧ t.net.flits = s.net.flits ++ [g] ∧ g.resent = true ∧ g.loc = l' ∧ g.payload = f.payload ∧ g.seq = f.seq ∧
        g.ckt = c.ckt ∧ g.doff = f.doff ∧ g.be = f.be ∧ (f.bad = false → g.crc = g.check) ∧
        (t.getNode l).resends = dropFirst (· == (e, b)) (s.getNode l).resends ∧ (t.getNode l).resent = (s.getNode l).resent.add 1 ∧
        t.stand = s.stand ∧ t.net.pkts = s.net.pkts ∧ DeviceKept s t) ∧
    ∀ p l' inp lat x k, e.item = .pkt p → nextHop l c.out (s.locNow l) = some (l', inp, lat, x) → s.pktRoom l' inp p.reply = true →
      ({ p with loc := l, inPort := 4 } : Packet).next = some (c.out, k) → (∀ q ∈ s.net.pkts, q.loc ≠ l ∨ q.inPort ≠ 4) →
      ∃ t, exec (.flumeResend l o) s = .next t ∧
        t.net.pkts = s.net.pkts ++ [{ p with loc := l', inPort := arrivePort l' 4 inp, ready := s.time + lat, op := none, resent := true
                                             ptr := p.ptr + k, ret := p.ret ++ [[4]] }] ∧
        (t.getNode l).resends = dropFirst (· == (e, b)) (s.getNode l).resends ∧ (t.getNode l).resent = (s.getNode l).resent.add 1 ∧
        t.stand = s.stand ∧ t.net.flits = s.net.flits ∧ DeviceKept s t

/-- FRAME_RECEIVE on a port that is UP, no more than 16 uncorrectable codewords with this one in the ring (R254, R257, R260, R263, R264, R266, R269): of frames that
hold their check, an IDLE and one not later than the last accepted are ignored; an accepted frame of a plan of the port's domain that runs gives its packets to the
bridge at its release entry, waits as the first half of a flit, or makes the flit with the half that waits; one of another tag is counted in AEL_TAGDROP. Frames lost,
and one that fails its check, are counted, recorded and asked for again. -/
def Obligations.FramesReceived : Prop :=
  ∀ (s : State) (p slot : Nat) (f : Frame) (corr words : Nat), (s.getAel p).state = 2 → (s.getAel p).badWords + words ≤ 16 →
    (f.ftype = 0 ∨ f.fchk = f.check →
      (f.ftype = 0 ∨ f.ftype > 3 ∨ (s.getAel p).later f = false → exec (.frameReceive p slot f 0 corr words) s = .next (Heard s p corr words)) ∧
      (f.ftype = 2 → (s.getAel p).later f = true → ∀ d, s.frameDom p f = some d →
        ∃ t, exec (.frameReceive p slot f 0 corr words) s = .next t ∧
          t.net = { s.net with pkts := s.net.pkts ++ f.pkts.map fun q =>
            { q with loc := .bridge, inPort := 32 + p, ready := s.time + s.untilEntry (s.releaseEntry p slot f.half), dom := d, op := none } } ∧
          (t.getAel p).framesRx = (s.getAel p).framesRx.add 1 ∧ (∀ q, q ≠ p → t.getAel q = s.getAel q) ∧
          t.stand = s.stand ∧ t.ctx = s.ctx ∧ t.tally = s.tally ∧ t.prot = s.prot ∧ t.out = s.out ∧ t.pending = s.pending) ∧
      (f.ftype = 1 → f.half = 0 → (s.getAel p).later f = true → (s.frameDom p f).isSome = true →
        ∃ t, exec (.frameReceive p slot f 0 corr words) s = .next t ∧ (t.getAel p).half = some f ∧ (∀ q, q ≠ p → t.getAel q = s.getAel q) ∧
          OnlyPorts s t ∧ t.out = s.out) ∧
      (∀ g d, f.ftype = 1 → f.half = 1 → (s.getAel p).later f = true → s.frameDom p f = some d → (s.getAel p).half = some g →
        ∃ t x, exec (.frameReceive p slot f 0 corr words) s = .next t ∧ t.net = { s.net with flits := s.net.flits ++ [x] } ∧
          x.payload = padTo 256 g.payload ++ padTo 256 f.payload ∧ x.ckt = f.ckt ∧ x.seq = f.seq ∧ x.last = f.last ∧ x.doff = f.doff ∧
          x.loc = .bridge ∧ x.inPort = 32 + p ∧ x.dom = d ∧ x.ready = s.time + s.untilEntry (s.releaseEntry p slot 1) ∧
          (g.ftype = 1 → g.ckt = f.ckt → g.seq = f.seq → x.bad = false) ∧ (g.ftype = 3 ∨ g.ckt ≠ f.ckt → x.bad = true) ∧
          (t.getAel p).half = none ∧ (∀ q, q ≠ p → t.getAel q = s.getAel q) ∧
          t.stand = s.stand ∧ t.ctx = s.ctx ∧ t.tally = s.tally ∧ t.prot = s.prot ∧ t.out = s.out ∧ t.pending = s.pending) ∧
      (f.ftype ≠ 0 → f.ftype ≤ 3 → (s.getAel p).later f = true → s.frameDom p f = none →
        ∃ t, exec (.frameReceive p slot f 0 corr words) s = .next t ∧ (t.getAel p).tagDrop = (s.getAel p).tagDrop.add 1 ∧
          t.net = s.net ∧ t.stand = s.stand ∧ t.ctx = s.ctx ∧ t.prot = s.prot ∧ t.pending = s.pending)) ∧
    ∀ lost n kind, (0 < lost ∧ n = lost ∧ kind = 0) ∨ (lost = 0 ∧ f.ftype ≠ 0 ∧ f.fchk ≠ f.check ∧ n = 1 ∧ kind = 1) →
      ∃ t, exec (.frameReceive p slot f lost corr words) s = .next t ∧ (t.getAel p).fecUncorr = (s.getAel p).fecUncorr.add n ∧
        (t.getAel p).ctl = (s.getAel p).ctl ++ askedAgain f.lseq n ∧
        (t.getAel p).err = (s.getAel p).err.latch (at_ kind 59 + at_ f.lseq 32 + at_ f.ckt 20 + s.ring.cycle) s.ring.count 0 ∧
        (t.getAel p).lseqRx = (s.getAel p).lseqRx ∧ (∀ q, q ≠ p → t.getAel q = s.getAel q) ∧ t.net.pkts = s.net.pkts ∧
        (n = 1 → f.ftype ≠ 1 → f.ftype ≠ 3 → t.net = s.net) ∧ (s.frameDom p f = none → t.net = s.net) ∧
        t.stand = s.stand ∧ t.ctx = s.ctx ∧ t.tally = s.tally ∧ t.prot = s.prot ∧ t.out = s.out ∧ t.pending = s.pending

/-- RESEND_REQ and LINK_RESEND (R265, R267): frames that the replay buffer still holds, with a link resend slot left in the ring, wait to be sent again,
the other frame of each flit with them; where one is gone the plan of the domain halts at the ring boundary. A resend slot sends the first frame that
waits, both frames of a flit together, marked RESENT. -/
def Obligations.LinkResends : Prop :=
  (∀ (s : State) (p first count : Nat), (s.getAel p).state = 2 →
    let named := (List.range count).map fun i => (first + i) % 65536
    let held := fun (n : Nat) => (s.getAel p).replay.any fun f => f.lseq == n
    (named.all held = true → s.linkSlotLeft p = true → ∃ t, exec (.resendReq p first count) s = .next t ∧
      (t.getAel p).pend = (s.getAel p).pend ++ (s.getAel p).replay.filter (fun g => named.contains g.lseq ||
        ((s.getAel p).replay.any fun h => named.contains h.lseq && h.ftype != 2 && h.pairLseq == g.lseq)) ∧
      (∀ q, q ≠ p → t.getAel q = s.getAel q) ∧ OnlyPorts s t ∧ t.out = s.out) ∧
    ∀ d, named.all held = false → s.aelDom p = some d → ∃ t, exec (.resendReq p first count) s = .next t ∧ (t.getCtx d).resendOut.isSome = true ∧
      (t.getAel p).err.valid = true ∧ (t.getAel p).pend = (s.getAel p).pend ∧ t.stand = s.stand ∧ t.net = s.net ∧ t.prot = s.prot ∧
      t.pending = s.pending) ∧
  ∀ (s : State) (p : Nat) (f : Frame) (rest : List Frame), (s.getAel p).state = 2 → (s.getAel p).pend = f :: rest →
    ((s.conns .bridge (s.locNow .bridge)).any fun c => c.kind == 3 && c.out == 32 + p && c.ckt == 0) = true →
    (f.ftype = 2 → ∃ t, exec (.linkResend p) s = .next t ∧ (t.getAel p).pend = rest ∧ (t.getAel p).resent = (s.getAel p).resent.add 1 ∧
      (t.getAel p).lseqTx = ((s.getAel p).lseqTx + 1) % 2 ^ 16 ∧
      t.out = s.out ++ [.frame p (s.slotAt p) (sentAs f (s.getAel p).lseqTx)] ∧
      (∀ q, q ≠ p → t.getAel q = s.getAel q) ∧ t.stand = s.stand ∧ t.net = s.net ∧ t.ctx = s.ctx ∧ t.prot = s.prot ∧ t.pending = s.pending) ∧
    ∀ g gs, f.ftype ≠ 2 → rest = g :: gs → g.ckt = f.ckt → g.seq = f.seq → g.half = 1 →
      ∃ t, exec (.linkResend p) s = .next t ∧ (t.getAel p).pend = gs ∧ (t.getAel p).resent = (s.getAel p).resent.add 2 ∧
        t.out = s.out ++ [.frame p (s.slotAt p) (sentAs f (s.getAel p).lseqTx),
          .frame p (s.slotAt p + 1) (sentAs g (((s.getAel p).lseqTx + 1) % 2 ^ 16))] ∧
        (∀ q, q ≠ p → t.getAel q = s.getAel q) ∧ t.stand = s.stand ∧ t.net = s.net ∧ t.ctx = s.ctx ∧ t.prot = s.prot ∧ t.pending = s.pending

/-- RING_MARK on a port that is UP (R275, R276, R277, R522): the mark is kept; the grandmaster does nothing more with it. Another device that has no ring
time yet averages the marks of its parent, and one that is locked loses its lock by a mark of its parent that is off by more than 3 ns: its running
plans halt at the next ring boundary and its armed ones return to LOADED. -/
def Obligations.RingMarks : Prop :=
  ∀ (s : State) (p ring gm hops : Nat) (locked : Bool) (arr : Int), (s.getAel p).state = 2 →
    (s.ael.isGm = true → exec (.ringMark p ring gm hops locked arr) s = .next (Marked s p ring gm hops locked arr)) ∧
    (s.ael.isGm = false → (Marked s p ring gm hops locked arr).bestParent = some p →
      (s.ael.seeded = false → s.ael.acqN < 128 → exec (.ringMark p ring gm hops locked arr) s =
        .next ((Marked s p ring gm hops locked arr).updAelSt fun x => { x with
          parent := some p, hops := hops + 1, acqN := x.acqN + 1, acqSum := x.acqSum + markError s p ring arr, acqRing := ring })) ∧
      (s.ael.seeded = true → s.ring.locked = true → 480 < (markError s p ring arr).natAbs →
        ∃ t, exec (.ringMark p ring gm hops locked arr) s = .next t ∧ t.ring = { s.ring with locked := false } ∧
          t.ael.parent = some p ∧ t.ael.phase = markError s p ring arr ∧ t.ael.inTol = 0 ∧ t.prot = s.prot ∧ t.pending = s.pending ∧
          (∀ st, t.getStand st = match (s.getStand st).ctx with
            | some d => if d < 16 ∧ (s.getCtx d).state = .armed then (s.getStand st).endRefill else s.getStand st
            | none => s.getStand st) ∧
          ∀ d, d < 16 →
            ((s.getCtx d).state = .armed → t.getCtx d = { s.getCtx d with state := .loaded, goHeld := false, disarmAtHalt := false }) ∧
            ((s.getCtx d).state ∈ [PState.running, .stopping] →
              ((s.getCtx d).halt.any fun h => decide (h.ring ≤ s.ring.count + 1)) = false →
              t.getCtx d = { s.getCtx d with halt := some { cause := 0x0106, ring := s.ring.count + 1, unit := noUnit } }) ∧
            ((s.getCtx d).state ∈ [PState.none, .loaded, .halted] → t.getCtx d = s.getCtx d)))

/-- PROBE, ECHO and DISCOVER on a port that is UP (R261, R276, R520): a PROBE is answered with an ECHO, which
waits for its slot; an ECHO sets the round trip and the flight; a
DISCOVER that agrees sets the peer, and the own ID of a device that knows none.

AEL_MAP_DATA (R272, R285): an entry of the own range is a configuration change, written while no plan of the domain is engaged; any other write
changes nothing. CONTROL_BLOCK_CHECK_FAIL records and counts (R258, R259). -/
def Obligations.ControlBlocks : Prop :=
  (∀ (s : State) (p : Nat), (s.getAel p).state = 2 →
      (∀ time turn, exec (.probe p time turn) s =
        .next (s.updAel p fun a => { a with ctl := a.ctl ++ [{ type := 3, fields := [time, turn], left := 1 }] })) ∧
      (∀ sent arr turn, (arr - sent - turn) / 2 ≤ 3840 →
        exec (.echo p sent arr turn) s = .next (s.updAel p fun a => { a with rtt := arr - sent - turn, flight := (arr - sent - turn) / 2 })) ∧
      ∀ b : Discover, b.nx = s.ael.nx → b.ny = s.ael.ny → b.gm = s.ael.gm → b.lenLog2 = s.ring.lenLog2 → b.mode = (s.getAel p).mode →
        b.port = oppositePort p → b.known = true → s.ael.known = false →
        ∃ t, exec (.discover p b) s = .next t ∧ t.ael.known = true ∧ t.ael.id = stepId s.ael.nx s.ael.ny p b.phys ∧
          (t.getAel p).peer = b.phys ∧ (t.getAel p).peerPort = b.port ∧ (∀ q, q ≠ p → t.getAel q = s.getAel q) ∧ t = { s with ael := t.ael }) ∧
  ((∀ (s : State) (d v : Nat), s.seen d = true →
      (inRange (s.getDom d).lids (tget 0 s.ael.mapSel d) = false ∨ (s.getCtx d).engaged = true → exec (.aelMapData d v) s = .next s) ∧
      (inRange (s.getDom d).lids (tget 0 s.ael.mapSel d) = true → (s.getCtx d).engaged = false → (s.getTally d).epoch < 0xFFFFFFFF →
        ∃ t, exec (.aelMapData d v) s = .next t ∧ tget (false, 0) t.ael.map (tget 0 s.ael.mapSel d) = (bit v 16, fld v 15 0) ∧
          (∀ l, l ≠ tget 0 s.ael.mapSel d → tget (false, 0) t.ael.map l = tget (false, 0) s.ael.map l) ∧
          (t.getTally d).epoch = (s.getTally d).epoch + 1 ∧ t.ledger.next = (s.ledger.next + 1) % 2 ^ 32 ∧
          t.ctx = s.ctx ∧ t.stand = s.stand ∧ t.net = s.net ∧ t.prot = s.prot ∧ t.out = s.out ∧ t.pending = s.pending)) ∧
    ∀ (s : State) (p : Nat), (s.getAel p).state = 2 → exec (.controlBlockCheckFail p) s =
      .next (s.updAel p fun a => { a with err := a.err.latch (at_ 4 59 + s.ring.cycle) s.ring.count 0, ctlFail := a.ctlFail.add 1 }))

/-- The state of a port (R254): lost lane lock and a failed training take it DOWN and raise LINK_DOWN; RETRAIN trains it unless a plan of its domain is
engaged; DOWN waits for the ring boundary; a training that ends well brings it UP with its flight.

The reference (R279, R280): lost, with no port to recover from, the device runs on its local oscillator, and every running plan halts at the end of its
step with cause REF_LOST; it is taken again from 1 ms after its return. -/
def Obligations.PortsAndReference : Prop :=
  (∀ (s : State) (p : Nat), p < 12 → s.sec.stage ≠ 8 →
      (∀ c, (c = .laneLockLoss p ∧ (s.getAel p).state ≠ 0) ∨ (∃ fl, c = .linkTrained p fl false ∧ (s.getAel p).state = 1) → s.ael.recov ≠ some p →
        ∃ t, exec c s = .next t ∧ (t.getAel p).state = 0 ∧ (t.getAel p).lanes = 0 ∧
          (t.getAel p).err = (s.getAel p).err.latch (at_ 3 59 + s.ring.cycle) s.ring.count 0 ∧ (∀ q, q ≠ p → t.getAel q = s.getAel q) ∧
          (∀ d, s.aelDom p = some d → Raised s t d 0x0303 noUnit s.ring.cycle p 0) ∧
          t.stand = s.stand ∧ t.ctx = s.ctx ∧ t.prot = s.prot ∧ t.pending = s.pending) ∧
      (∀ d ld, s.aelDom p = some d → (ld = none ∨ (ld = some d ∧ s.ready = true)) → (s.getCtx d).engaged = true → exec (.retrain p ld) s = .next s) ∧
      (∀ ld, (ld = none ∨ (∃ d, ld = some d ∧ s.aelDom p = some d ∧ s.ready = true)) →
        ((s.getAel p).mode ≠ 0 → (∀ d, s.aelDom p = some d → (s.getCtx d).engaged = false) →
          exec (.retrain p ld) s = .next (s.updAel p fun a => { a with state := 1, lanes := 0, half := none, pend := [], ctl := [] })) ∧
        exec (.down p ld) s = .next (s.updAel p fun a => { a with downAsked := true })) ∧
      ∀ flight, (s.getAel p).state = 1 → flight ≤ 3840 → exec (.linkTrained p flight true) s =
        .next (s.updAel p fun a => { a with state := 2, lanes := 0xFF, rtt := 2 * flight, flight := flight, lseqRx := none })) ∧
  (∀ s : State,
      (s.ael.refDrives = true → s.ael.recovery = [] → s.ael.parent = none → ∃ t, exec .refLost s = .next t ∧
        t.ael.refDrives = false ∧ t.ael.freeRun = true ∧ t.ael.recov = none ∧ t.ael.restoreAt = none ∧ t.stand = s.stand ∧ t.prot = s.prot ∧
        (∀ d, (s.getCtx d).state ∈ [PState.running, .stopping] →
          t.getCtx d = { s.getCtx d with haltAtStepEnd := if (s.getCtx d).haltAtStepEnd = 0 then 0x0103 else (s.getCtx d).haltAtStepEnd }) ∧
        ∀ d, (s.getCtx d).state ∉ [PState.running, .stopping] → t.getCtx d = s.getCtx d) ∧
      (s.ael.refDrives = false → exec .referenceReturn s =
        .next { s with ael := { s.ael with restoreAt := some (s.time + 1250000) } }) ∧
      (s.ael.refDrives = true → exec .referenceReturn s = .next s))

/-- NOTCH_ADD, NOTCH_SET, NOTCH_READ and NOTCH_WAIT_GE (R288, R289): a packet that is given out has reached the bank, which applies it in its next cycle;
no notch and no waiter has changed yet. With no such packet there, nothing changes.

The bank's cycle (R288, R289, R291, R293, R296) with one operation from a packet of the notch's domain: an ADD or a SET gives the notch its value, its reply
carries the value after it, and the waiters that it satisfies are answered and freed; a READ is answered; a WAIT_GE is answered at once where the notch satisfies
it, otherwise takes a waiter, and with none free it is refused.

R287, R294: an operation whose packet is not of the notch's domain, or a WAIT_GE that WMODE refuses, is not applied: its reply carries STATUS 1, and NOTCH_FENCE
is raised for the packet's domain. R289, R304: of two operations of one cycle on a notch the one from the lower input comes first; a queue's WAIT is noted as met
where the notch satisfies it before the last ring of its bound. -/
def Obligations.NotchPackets : Prop :=
  (∀ (s : State) (op : Nat) (c : Instr), (op, c) ∈ [(0, Instr.notchAdd false), (1, .notchSet false), (2, .notchRead false), (3, .notchWaitGe false)] →
      (s.net.pkts = [] → (s.getNode (.unit 44)).kept = [] → exec c s = .next s) ∧
      ∀ (n v : Nat) (p : Packet) (tag : Tag), p.payload = .notch op n v tag →
        GivenOut s (.unit 44) (fun | .notch o _ _ _ => o == op | _ => false) p →
        ∃ t, exec c s = .next t ∧ t.net.pkts = dropFirst (· == p) s.net.pkts ∧
          t.notch.inbox = s.notch.inbox ++ [{ src := packetSrc p, op := op, notch := n, value := v, pkt := some (p, tag) }] ∧
          t.notch.n = s.notch.n ∧ t.notch.waiters = s.notch.waiters ∧ t.queue = s.queue ∧ t.stand = s.stand ∧ t.ctx = s.ctx ∧ t.mem = s.mem ∧
          t.prot = s.prot ∧ t.net.flits = s.net.flits ∧ t.pending = s.pending) ∧
  (∀ (s : State) (x : NSrc) (op n v : Nat) (p : Packet) (tag : Tag), x.input ≤ 2 →
      s.notch.inbox = [{ src := x, op := op, notch := n, value := v, pkt := some (p, tag) }] → s.notchDomain n = some p.dom →
      let t := s.notchCycle
      let y := notchAfter op v (s.getNotch n)
      let meet := y.meets v
      t.notch.inbox = [] ∧ t.getNotch n = y ∧ OnlyNotch s t n ∧
      (op ≤ 2 ∨ (op = 3 ∧ (s.getNotch n).wmode ≤ 1 ∧ meet = true) →
        ∃ q more, t.net.pkts = s.net.pkts ++ q :: more ∧ q.payload = .notchReply y.value (t.notchMeta n) op 0 n tag ∧
          q.route = p.ret.reverse.flatten ∧ q.reply = true ∧ q.dom = p.dom ∧ q.ready = s.time + 1 ∧ (2 ≤ op → more = []) ∧
          t.notch.waiters = (if op < 2 then s.notch.waiters.filter fun w => !(w.notch == n && y.meets w.thr) else s.notch.waiters)) ∧
      (op = 3 → (s.getNotch n).wmode ≤ 1 → meet = false → s.notch.waiters.length < 16384 →
        t.notch.waiters = s.notch.waiters ++ [{ notch := n, thr := v, pkt := p }] ∧ t.net.pkts = s.net.pkts) ∧
      (op = 3 → (s.getNotch n).wmode ≤ 1 → meet = false → 16384 ≤ s.notch.waiters.length →
        t.notch.waiters = s.notch.waiters ∧ Raised s t p.dom 0x0404 noUnit (s.getCmp 19).loc n x.code ∧
        ∃ q w, t.net.pkts = s.net.pkts ++ [q] ∧ q.payload = .notchReply w (s.notchMeta n) 3 2 n tag)) ∧
  ((∀ (s : State) (x : NSrc) (op n v : Nat) (p : Packet) (tag : Tag), x.input ≤ 2 → op ≤ 3 →
      s.notch.inbox = [{ src := x, op := op, notch := n, value := v, pkt := some (p, tag) }] →
      (s.notchDomain n ≠ some p.dom ∨ (op = 3 ∧ 1 < (s.getNotch n).wmode)) →
      let t := s.notchCycle
      (∃ q w, t.net.pkts = s.net.pkts ++ [q] ∧ q.payload = .notchReply w (s.notchMeta n) op 1 n tag ∧ q.route = p.ret.reverse.flatten) ∧
      t.getNotch n = s.getNotch n ∧ OnlyNotch s t n ∧ t.notch.waiters = s.notch.waiters ∧
      Raised s t p.dom 0x0403 noUnit (s.getCmp 19).loc n x.code) ∧
    (∀ (s : State) (a b : NOp), (s.notch.inbox = [a, b] ∨ s.notch.inbox = [b, a]) → a.src.input < b.src.input → b.src.input ≤ 2 → a.op ≤ 1 → b.op ≤ 1 →
      a.notch = b.notch → a.pkt = none → b.pkt = none →
      s.notchCycle.getNotch a.notch = notchAfter b.op b.value (notchAfter a.op a.value (s.getNotch a.notch)) ∧ s.notchCycle.notch.inbox = []) ∧
    ∀ (s : State) (q n v : Nat), s.notch.inbox = [{ src := { input := 1, end_ := q }, op := 4, notch := n, value := v }] → (s.getQueue q).state = 2 →
      (s.getQueue q).waitNotch = n → (s.getQueue q).waitValue = v →
      (s.notchCycle.getQueue q).met = ((s.getQueue q).met || ((s.getNotch n).meets v && decide (s.ring.count < (s.getQueue q).waitExpiry))))

/-- The register window of the Notch bank (R289, R291, R292, R299): an LD's SET or ADD on a notch of its domain's range reaches the bank as one of its third input, MODE
is a configuration change; a write to any other notch is dropped and counted. -/
def Obligations.HostNotches : Prop :=
  ∀ (s : State) (ld n v : Nat), s.seen ld = true →
    (s.notchDomain n ≠ some ld → ∀ c ∈ [Instr.hostNotchSet ld n v, .hostNotchAdd ld n v, .hostNotchMode ld n v],
      exec c s = .next (s.updNotchDom ld fun r => { r with drop := r.drop.add 1 })) ∧
    (s.notchDomain n = some ld →
      (∀ p ∈ [(0, Instr.hostNotchAdd ld n v), (1, .hostNotchSet ld n v)], ∃ t, exec p.2 s = .next t ∧
        t.notch.inbox = s.notch.inbox ++ [{ src := { input := 2 }, op := p.1, notch := n, value := v % 2 ^ 32 }] ∧
        t.getNotch n = s.getNotch n ∧ t.notch.waiters = s.notch.waiters ∧ t.net = s.net ∧ OnlyNotch s t n) ∧
      ((s.getTally ld).epoch < 0xFFFFFFFF → ∃ t, exec (.hostNotchMode ld n v) s = .next t ∧
        t.getNotch n = { s.getNotch n with wmode := fld v 59 58 } ∧ (t.getTally ld).epoch = (s.getTally ld).epoch + 1 ∧ OnlyNotch s t n ∧
        t.out = s.out ∧ t.net = s.net))

/-- R307: every queue is DISABLED with every context field zero at reset; the four commands in the four states of a queue (0 DISABLED, 1 ACTIVE, 2 BLOCKED,
3 FAULTED), each of them idempotent. No other field of its context changes, nor any other queue or request. ENABLE with a DEF_WAIT of 0 faults the queue, and
a command for a queue outside the LD's range does nothing (R310, R313). -/
def Obligations.QueueCommands : Prop :=
  (∀ q, State.reset.getQueue q = {}) ∧
  ∀ (s : State) (d q : Nat), s.seen d = true →
    (∀ c ∈ [Instr.enable d q, .disable d q, .resume d q, .queueReset d q], ∀ t u, exec c s = .next t → exec c t = .next u → ∀ j, u.getQueue j = t.getQueue j) ∧
    (s.queueDom q ≠ some d → ∀ c ∈ [Instr.enable d q, .disable d q, .resume d q, .queueReset d q], exec c s = .next s) ∧
    (s.queueDom q = some d →
      let u := s.touchQueue d q
      ((s.getQueue q).state = 0 → (s.getQueue q).defWait ≠ 0 → exec (.enable d q) s = .next (u.updQueue q fun x => { x with state := 1 })) ∧
      ((s.getQueue q).state = 0 → (s.getQueue q).defWait = 0 → ∃ t, exec (.enable d q) s = .next t ∧ QueueFaulted u t d q 2 (s.getQueue q).cons) ∧
      ((s.getQueue q).state ≠ 0 → exec (.enable d q) s = .next u) ∧
      exec (.disable d q) s = .next (u.updQueue q fun x => { x with state := 0, met := false }) ∧
      ((s.getQueue q).state = 3 → exec (.resume d q) s = .next (u.updQueue q fun x => { x with state := 1 })) ∧
      ((s.getQueue q).state ≠ 3 → exec (.resume d q) s = .next u) ∧
      exec (.queueReset d q) s = .next (u.updQueue q fun x => { x with state := 0, cons := x.prod, status := 0, met := false }))

/-- QCTX_DOORBELL and QCTX_DATA (R308, R310): a new PROD below SIZE is taken in any state; one outside the range of the LD is dropped and counted, and one at
SIZE or above faults the queue as well. Context words are written only while the queue is DISABLED, each a configuration change.

An access of a queue's context (R309, R316, R331): it may miss, and only a fetch of a context with an error in it changes more than the miss counter. -/
def Obligations.QueueRegisters : Prop :=
  (∀ (s : State) (d v : Nat), s.seen d = true →
      (s.queueDom (fld v 15 0) ≠ some d → exec (.qctxDoorbell d v) s = .next (s.updQld d fun x => { x with dbDrop := x.dbDrop.add 1 })) ∧
      (s.queueDom (fld v 15 0) = some d →
        let u := s.touchQueue d (fld v 15 0)
        (fld v 63 32 < (s.getQueue (fld v 15 0)).size →
          exec (.qctxDoorbell d v) s = .next (u.updQueue (fld v 15 0) fun x => { x with prod := fld v 63 32 })) ∧
        ((s.getQueue (fld v 15 0)).size ≤ fld v 63 32 → ∃ t, exec (.qctxDoorbell d v) s = .next t ∧
          QueueFaulted u t d (fld v 15 0) 5 (s.getQueue (fld v 15 0)).cons ∧ (t.getQld d).dbDrop = (s.getQld d).dbDrop.add 1)) ∧
      ∀ q, (s.getQld d).selQueue = q →
        (s.queueDom q ≠ some d → exec (.qctxData d v) s = .next s) ∧
        (s.queueDom q = some d → (s.getQueue q).state ≠ 0 →
          exec (.qctxData d v) s = .next ((s.touchQueue d q).updQld d fun x => { x with drop := x.drop.add 1 })) ∧
        ∀ w y, s.queueDom q = some d → (s.getQueue q).state = 0 → (s.getQld d).selWord = w → (s.getQueue q).setWord w v = some y →
          (w = 1 ∨ w = 2 → y.loc = true ∨ s.placed d y.ringBase 64 y.size = true) → (s.getTally d).epoch < 0xFFFFFFFF →
          ∃ t, exec (.qctxData d v) s = .next t ∧ t.getQueue q = y ∧ (∀ j, j ≠ q → t.getQueue j = s.getQueue j) ∧
            (t.getTally d).epoch = (s.getTally d).epoch + 1 ∧ t.ledger.next = (s.ledger.next + 1) % 2 ^ 32 ∧ t.stand = s.stand ∧ t.ctx = s.ctx ∧
            t.notch = s.notch ∧ t.prot = s.prot ∧ (s.mem.flip = [] → t.out = s.out) ∧ t.pending = s.pending) ∧
  (∀ (s : State) (d q : Nat), let t := s.touchQueue d q
      t.queue.ctx = s.queue.ctx ∧ t.stand = s.stand ∧ t.ctx = s.ctx ∧ t.net = s.net ∧ t.notch = s.notch ∧ t.weight = s.weight ∧ t.mem.mem = s.mem.mem ∧
      t.prot = s.prot ∧ t.pending = s.pending ∧ (∀ e, e ≠ d → t.getQld e = s.getQld e) ∧
      (s.mem.flip = [] → t = { s with free := s.free + 1, queue := t.queue }))

/-- WAIT, BIND and CANCEL (R302, R304, R306, R349, R385): a WAIT on a notch of the domain whose mode admits it blocks its queue until its bound; a BIND of a
weight generation that is current, or of an adapter, is taken and passed, any other faults the queue; a CANCEL of no request passes with CANCEL_MISS.

SIGNAL (R288, R289, R302): the amount goes to the bank as an ADD of a notch of the domain, and the entry passes; a notch of another domain faults the
queue. An entry that is malformed or cannot be read faults its queue whichever row comes (R306). -/
def Obligations.QueueEntries : Prop :=
  (∀ (s : State) (d q : Nat) (bs : List Byte),
      let e := (s.queueEntry d q).1
      (Entry s d q 2 bs → s.notchDomain (num bs 8 2) = some d → (s.getNotch (num bs 8 2)).wmode % 2 = 0 → ∃ t, exec (.wait q) s = .next t ∧
        t.getQueue q = { s.getQueue q with
          state := 2, waitValue := num bs 12 4, waitNotch := num bs 8 2, met := false
          waitExpiry := s.ring.count + (if num bs 16 4 = 0 then (s.getQueue q).defWait else num bs 16 4) } ∧
        (∀ j, j ≠ q → t.getQueue j = s.getQueue j) ∧ EntryFrame s t ∧ Reached s t q 4 (num bs 8 2) (num bs 12 4) ∧ t.hub = s.hub) ∧
      (Entry s d q 2 bs → (s.notchDomain (num bs 8 2) ≠ some d ∨ (s.getNotch (num bs 8 2)).wmode % 2 = 1) →
        ∃ t, exec (.wait q) s = .next t ∧ QueueFaulted e t d q 4 (s.getQueue q).cons) ∧
      (Entry s d q 4 bs → num bs 1 1 = 1 → ∃ t, exec (.bind q) s = .next t ∧ Passed s t q 0 { s.getQueue q with adapter := num bs 16 4 } ∧
        EntryFrame s t ∧ t.notch = s.notch ∧ t.hub = s.hub) ∧
      (∀ i, Entry s d q 4 bs → num bs 1 1 = 0 → s.currentSet d (num bs 8 2) = some i → (num bs 12 4 = 0 ∨ num bs 12 4 = (s.getSet i).gen) →
        ∃ t, exec (.bind q) s = .next t ∧ Passed s t q 0 { s.getQueue q with model := num bs 8 2, gen := num bs 12 4 } ∧
          EntryFrame s t ∧ t.notch = s.notch ∧ t.hub = s.hub) ∧
      (Entry s d q 4 bs → num bs 1 1 = 0 → s.currentSet d (num bs 8 2) = none →
        ∃ t, exec (.bind q) s = .next t ∧ QueueFaulted e t d q 3 (s.getQueue q).cons) ∧
      (Entry s d q 5 bs → (((s.getLnd d).live ++ (s.getLnd d).pending).any fun r => r.queue == q && r.reqId == num bs 4 4) = false →
        ∃ t, exec (.cancel q) s = .next t ∧ Passed s t q 7 (s.getQueue q) ∧ EntryFrame s t ∧ t.notch = s.notch ∧ t.hub = s.hub) ∧
      (Entry s d q 5 bs → ((s.getLnd d).live.any fun r => r.queue == q && r.reqId == num bs 4 4 && !r.cancel) = true →
        ∃ t, exec (.cancel q) s = .next t ∧ Passed s t q 0 (s.getQueue q) ∧ EntryFrame s t ∧ t.notch = s.notch ∧ (t.getLnd d).pending = (s.getLnd d).pending ∧
          (t.getLnd d).live = updFirst (fun r => r.queue == q && r.reqId == num bs 4 4 && !r.cancel) (fun r => { r with cancel := true }) (s.getLnd d).live)) ∧
  ((∀ (s : State) (d q : Nat) (bs : List Byte), Entry s d q 3 bs →
      (s.notchDomain (num bs 8 2) = some d → ∃ t, exec (.signal q) s = .next t ∧ Passed s t q 0 (s.getQueue q) ∧ EntryFrame s t ∧
        Reached s t q 0 (num bs 8 2) (num bs 12 4)) ∧
      (s.notchDomain (num bs 8 2) ≠ some d → ∃ t, exec (.signal q) s = .next t ∧ QueueFaulted (s.queueEntry d q).1 t d q 4 (s.getQueue q).cons)) ∧
    ∀ (s : State) (d q : Nat) (bs : List Byte), s.queueDom q = some d → s.queueTurn q = true →
      ∀ c ∈ [Instr.request q, .wait q, .signal q, .bind q, .cancel q],
        ((s.queueEntry d q).2 = some none → ∃ t, exec c s = .next t ∧ QueueFaulted (s.queueEntry d q).1 t d q 6 (s.getQueue q).cons) ∧
        ((s.queueEntry d q).2 = some (some bs) → entryOk bs = false →
          ∃ t, exec c s = .next t ∧ QueueFaulted (s.queueEntry d q).1 t d q 2 (s.getQueue q).cons))

/-- QUEUE_WAIT_RELEASE and WAIT_EXPIRED (R303 to R305): a satisfied WAIT passes OK and its queue is ACTIVE; one that no change has satisfied by the ring of
its bound passes with WAIT_EXPIRED, and its queue is FAULTED with the index recorded. -/
def Obligations.WaitsEnd : Prop :=
  ∀ (s : State) (q d : Nat), s.queueDom q = some d → (s.getQueue q).state = 2 →
    ((s.getQueue q).met = true → ∃ t, exec (.queueWaitRelease q) s = .next t ∧
      Passed s t q 0 { s.getQueue q with state := 1, met := false } ∧ EntryFrame s t ∧ t.notch = s.notch ∧ t.hub = s.hub) ∧
    ((s.getQueue q).met = false → (s.getQueue q).waitExpiry ≤ s.ring.count → (s.getCtx d).debugging = false →
      ∃ t, exec (.waitExpired q) s = .next t ∧ Passed s t q 1 { s.getQueue q with state := 3, faultIdx := (s.getQueue q).cons } ∧
        (s.mem.flip = [] → Raised s t d 0x0401 noUnit (s.getCmp 19).loc q 1) ∧ (t.getQld d).expired = (s.getQld d).expired.add 1 ∧ EntryFrame s t ∧
        t.notch = s.notch ∧ t.hub = s.hub) ∧
    ((s.getQueue q).met = false → exec (.queueWaitRelease q) s = .next s) ∧
    ((s.getQueue q).met = true ∨ s.ring.count < (s.getQueue q).waitExpiry → exec (.waitExpired q) s = .next s)

/-- REQUEST and PROMPT_STAGED (R302, R373, R374): a REQUEST whose prompt has come becomes the last arrival, with the next arrival number and what its
entry and its queue give it, and the queue passes it; a prompt in device memory is staged by a copy. -/
def Obligations.RequestsArrive : Prop :=
  ∀ (s : State) (d q : Nat) (bs : List Byte), Entry s d q 1 bs →
    (∀ p, (s.getCtx d).state ≠ .none → (s.getTally d).jrnReplay = false → s.requestCount < 65536 →
      (∀ r, s.homed d (s.getQueue q).partition = some r →
        ((s.getLnd d).pending.filter fun p => p.replica == (s.getQueue q).partition).length < r.pending) →
      s.stagedPrompt d q bs = some p → ∃ t, exec (.request q) s = .next t ∧
        (t.getLnd d).pending = (s.getLnd d).pending ++
          [serveOf q (s.getQueue q).partition (s.getQueue q) bs (s.getLnd d).nextArr s.ring.count p] ∧
        (t.getLnd d).nextArr = (s.getLnd d).nextArr + 1 ∧ (t.getLnd d).arrivals = (s.getLnd d).arrivals.add 1 ∧ (t.getLnd d).live = (s.getLnd d).live ∧
        (∀ e, e ≠ d → t.getLnd e = s.getLnd e) ∧ Passed s t q 0 (s.getQueue q) ∧ EntryFrame s t ∧ t.notch = s.notch ∧
        (s.mem.flip = [] → t.tally = s.tally)) ∧
    (∀ r, bit (num bs 24 8) 63 = true → s.promptIn d (num bs 24 8) (num bs 8 4) = true → s.homed d (s.getQueue q).partition = some r →
      (s.getLnd d).stagedBytes (s.getQueue q).partition + 4 * num bs 8 4 ≤ 65536 * r.stagePages →
      ∃ t, exec (.promptStaged q) s = .next t ∧
        tfind? (t.getLnd d).staged q = some (match (s.unitRead d 19 (fld (num bs 24 8) 62 0) (4 * num bs 8 4)).2 with
          | some p => .ok (promptToks (num bs 8 4) p)
          | none => .bad) ∧
        t.queue.ctx = s.queue.ctx ∧ EntryFrame s t ∧ t.notch = s.notch)

/-- REQUEST_FLIT, MEM_READ_ENTRY, MEM_WRITE_ENTRY and SELF_REFRESH_ENTRY (R317, R322, R325, R329, R336, R339): entries and write data that hold their check join
their port's queues in the order they come; a READ entry sends the line of the head of the queue, or zeros marked SUSPECT where the access is refused; a WRITE entry
enters the enabled bytes of one line of an access that is allowed, which land 8 entries later; a unit that is not stack 0 and has rested enters self-refresh.

A hub unit reads the system window, a range of the windows of a domain, or its job ring (R316, R329 to R331): with no error in DRAM the first changes nothing; an
error changes the records and counts of the domain and its events and nothing else. -/
def Obligations.MemoryEntries : Prop :=
  ((∀ (s : State) (p : Nat),
      ((s.net.flits.find? fun f => f.loc == .ctrl p && s.come f) = none → exec (.requestFlit p false) s = .next s) ∧
      ∀ f, (s.net.flits.find? fun f => f.loc == .ctrl p && s.come f) = some f → f.intact = true → ∃ t, exec (.requestFlit p false) s = .next t ∧
        t.net = { s.net with flits := dropFirst (· == f) s.net.flits } ∧
        t.getPort p = (if f.request then
            { s.getPort p with reads := (s.getPort p).reads ++ (reqsOf f).filter (!·.write), writes := (s.getPort p).writes ++ (reqsOf f).filter (·.write) }
          else { s.getPort p with data := (s.getPort p).data ++ [f] }) ∧
        (∀ q, q ≠ p → t.getPort q = s.getPort q) ∧ t.mem = { s.mem with port := t.mem.port } ∧ t = { s with net := t.net, mem := t.mem }) ∧
    (∀ (s : State) (u half port p : Nat) (r : Req) (rest : List Req) (a : Nat), s.ctrlEntry u half (s.getCmp 18).loc = (1, port) → p = ctrlPortOf u port →
      (s.getCmp 18).keptNow = true → (s.getPort p).reads = r :: rest → r.grain = none → Leads s u r a →
        ∃ t f, exec (.memReadEntry u half) s = .next t ∧
          t.net = (if 16 ≤ u then { s.net with outbox := s.net.outbox ++ [f] } else { s.net with flits := s.net.flits ++ [f] }) ∧
          f.dom = r.dom ∧ f.doff = r.doff ∧ f.dtok = r.dtok ∧ f.last = r.last ∧ f.seq = (s.getPort p).seq ∧ (t.getPort p).reads = rest ∧
          (∀ q, q ≠ p → t.getPort q = s.getPort q) ∧ t.mem.mem = s.mem.mem ∧ t.mem.flip = s.mem.flip ∧ t.stand = s.stand ∧ t.ctx = s.ctx ∧
          t.prot = s.prot ∧ t.pending = s.pending ∧
          (s.memRefusal r.dom a r.cls false false 0 = none → s.mem.flip = [] →
            (f.payload, f.be) = r.part.place (memRead s.mem.mem a 512) ∧ f.suspect = r.suspect ∧ t = { s with net := t.net, mem := t.mem }) ∧
          ∀ cause, s.memRefusal r.dom a r.cls false false 0 = some cause →
            (f.payload, f.be) = r.part.place (zeros 512) ∧ f.suspect = true ∧ (t.getMemDom r.dom).refused = (s.getMemDom r.dom).refused.add 1) ∧
    (∀ (s : State) (u half port p : Nat) (r : Req) (rest : List Req) (f : Flit) (fs : List Flit) (a : Nat),
      s.ctrlEntry u half (s.getCmp 18).loc = (2, port) → p = ctrlPortOf u port → (s.getCmp 18).keptNow = true → (s.getPort p).writes = r :: rest →
      (s.getPort p).data = f :: fs → Leads s u r a →
        ∃ t, exec (.memWriteEntry u half) s = .next t ∧ (t.getPort p).writes = rest ∧ (t.getPort p).data = fs ∧ t.mem.mem = s.mem.mem ∧
          t.mem.flip = s.mem.flip ∧ (∀ q, q ≠ p → t.getPort q = s.getPort q) ∧ t.net = s.net ∧ t.ctx = s.ctx ∧ t.prot = s.prot ∧ t.pending = s.pending ∧
          (s.memRefusal r.dom a r.cls true false r.be = none → t.mem.landing = s.mem.landing ++ [(8, a, f.payload, r.be)] ∧ t.stand = s.stand ∧
            ((s.getCtx r.dom).debugging = false → t = { s with mem := t.mem })) ∧
          ∀ cause, s.memRefusal r.dom a r.cls true false r.be = some cause → t.mem.landing = s.mem.landing ∧
            (t.getMemDom r.dom).refused = (s.getMemDom r.dom).refused.add 1 ∧ OthersKept s t r.stand) ∧
    (∀ (s : State) (a be : Nat) (bs : List Byte), s.mem.landing = [(1, a, bs, be)] → bs.length = 512 → let t := s.landDram
      (∀ b, memGet t.mem.mem b = if a ≤ b ∧ b < a + 512 ∧ be.testBit ((b - a) / 8) = true then bs.getD (b - a) 0 else memGet s.mem.mem b) ∧
      t.mem.landing = [] ∧ t = { s with mem := t.mem }) ∧
    ∀ (s : State) (u : Nat), (u = 0 → exec (.selfRefreshEntry u) s = .next s) ∧
      (u ≠ 0 → isUnit u = true → s.unitBusy u = false → (s.getUnit u).lastAcc + 4096 ≤ s.time →
        exec (.selfRefreshEntry u) s = .next (s.updUnit u fun m => { m with selfRefresh := true }))) ∧
  (∀ (s : State) (d k a n : Nat),
      (s.mem.flip = [] → s.readSystem d a n = (s, false)) ∧ ReadFrame s (s.readSystem d a n).1 ∧
      ((s.readSystem d a n).2 = true → Failed s (s.readSystem d a n).1 d 0x0203 noUnit ∧
        Raised s (s.readSystem d a n).1 d 0x0203 noUnit (s.getCmp 18).loc 0 a) ∧
      ReadFrame s (s.unitRead d k a n).1 ∧ ReadFrame s (s.jobSets d).1 ∧
      (s.mem.flip = [] → (∀ l, s.memRefusal d (512 * l : Nat) ((s.getDom d).classAt a) false false 0 = none) → (s.getDom d).covers a n = true →
        s.unitRead d k a n = (s, some (memRead s.mem.mem a n))) ∧
      ((s.getDom d).covers a n = false → s.unitRead d k a n = (s, none)))

/-- CREATE, SEAL, SWITCH, DRAIN, RELEASE and JOB_RESUME (R343, R345 to R348, R350, R353): what each makes of a set of the LD's domain in each state, and the
statuses; a set of another domain is refused with WRONG_SET and nothing else changes. -/
def Obligations.SetCommands : Prop :=
  ∀ (s : State) (d : Nat), s.seen d = true →
    (∀ b i, (s.template d).2 = some (some b) → firstBelow (fun j => (s.getSet j).state == 0) 256 = some i →
      let e := templateOf d b
      (s.templateOk d b = true → tget 0 s.weight.marks (65536 * d + e.model) < e.gen → e.gen ≤ 0xFFFFFFFF → ∃ t, exec (.create d) s = .next t ∧
        t.getSet i = e ∧ tget 0 t.weight.marks (65536 * d + e.model) = e.gen ∧ BuckResult t d 0 i e.gen ∧
        (∀ j, j ≠ i → t.getSet j = s.getSet j) ∧ t.mem.mem = s.mem.mem ∧ t.prot = s.prot ∧ t.stand = s.stand ∧ t.ctx = s.ctx) ∧
      (tget 0 s.weight.marks (65536 * d + e.model) ≠ 0xFFFFFFFF → e.gen ≤ tget 0 s.weight.marks (65536 * d + e.model) → ∃ t, exec (.create d) s = .next t ∧
        BuckResult t d 5 0 e.gen ∧ t.weight.sets = s.weight.sets ∧ t.weight.marks = s.weight.marks)) ∧
    ((s.template d).2 = none → exec (.create d) s = .next s) ∧
    (∀ i jobs c, c ∈ [Instr.sealSet d i jobs, .switch d i, .release d i jobs] → (s.getSet i).state ≠ 0 → (s.getSet i).domain ≠ d →
      exec c s = .next ((s.touchSet d i).buckAnswer d 2 i 0)) ∧
    (∀ i jobs, (s.getSet i).domain = d →
      let u := s.touchSet d i
      let v := (u.jobSets d).1
      let named := (u.jobSets d).2 ++ jobs
      ((s.getSet i).state = 1 → named.contains i = false →
        exec (.sealSet d i jobs) s = .next ((v.updSet i fun e => { e with state := 2 }).buckAnswer d 0 i (s.getSet i).gen)) ∧
      ((s.getSet i).state = 1 → named.contains i = true → exec (.sealSet d i jobs) s = .next (v.buckAnswer d 7 i (s.getSet i).gen)) ∧
      ((s.getSet i).state = 2 → exec (.sealSet d i jobs) s = .next (u.buckAnswer d 0 i (s.getSet i).gen)) ∧
      (2 < (s.getSet i).state → exec (.sealSet d i jobs) s = .next (u.buckAnswer d 1 i (s.getSet i).gen)) ∧
      ((s.getSet i).state ∈ [1, 2, 5] → named.contains i = false → ∃ t, exec (.release d i jobs) s = .next t ∧
        t.getSet i = {} ∧ BuckResult t d 0 i (s.getSet i).gen ∧ OnlySet v t i ∧ t.weight.marks = s.weight.marks ∧
        t.weight.switches = s.weight.switches.filter (·.set != i)) ∧
      ((s.getSet i).state ∈ [1, 2, 5] → named.contains i = true → exec (.release d i jobs) s = .next (v.buckAnswer d 7 i (s.getSet i).gen)) ∧
      ((s.getSet i).state ∈ [3, 4] → exec (.release d i jobs) s = .next (u.buckAnswer d 1 i (s.getSet i).gen)) ∧
      ((s.getSet i).state = 3 ∨ (s.weight.switches.any (·.set == i)) = true → exec (.switch d i) s = .next (u.buckAnswer d 0 i (s.getSet i).gen)) ∧
      ((s.weight.switches.any (·.set == i)) = false → (s.getSet i).state ∈ [0, 1, 4, 5] →
        exec (.switch d i) s = .next (u.buckAnswer d 1 i (s.getSet i).gen)) ∧
      ((s.getSet i).state = 2 → (s.weight.switches.any (·.set == i)) = false →
        let two := (s.drainingSet d (s.getSet i).model).isSome || s.weight.switches.any fun w => w.dom == d && (s.getSet w.set).model == (s.getSet i).model
        (two = true → exec (.switch d i) s = .next (u.buckAnswer d 8 i (s.getSet i).gen)) ∧
        (two = false → s.ctxRuns d = true → ∃ t, exec (.switch d i) s = .next t ∧ BuckResult t d 0 i (s.getSet i).gen ∧
          t.weight.switches = s.weight.switches ++ [{ dom := d, set := i, ring := s.ring.count }] ∧ t.weight.sets = s.weight.sets ∧ OnlySet u t i) ∧
        (two = false → s.ctxRuns d = false → ∃ t, exec (.switch d i) s = .next t ∧ BuckResult t d 0 i (s.getSet i).gen ∧
          t.getSet i = { s.getSet i with state := 3 } ∧
          (∀ j, j ≠ i → s.currentSet d (s.getSet i).model ≠ some j → t.getSet j = s.getSet j) ∧
          ∀ p, s.currentSet d (s.getSet i).model = some p →
            t.getSet p = if (s.getSet p).live = 0 then {} else { s.getSet p with state := 4 }))) ∧
    (∀ m, s.currentSet d m = none → exec (.drain d m) s = .next (s.buckAnswer d 9 0 0)) ∧
    (∀ m i, s.currentSet d m = some i → ∃ t, exec (.drain d m) s = .next t ∧ BuckResult t d 0 i (s.getSet i).gen ∧ t.weight.sets = s.weight.sets ∧
      OnlySet (s.touchSet d i) t i ∧ t.weight.drains = s.weight.drains ++ (if s.weight.drains.any fun h => h.dom == d && h.model == m then []
        else [{ dom := d, model := m, on := false, noted := false }])) ∧
    ∃ t, exec (.jobResume d) s = .next t ∧ BuckResult t d 0 0 0 ∧ OnlySet s t 0 ∧ t.weight.sets = s.weight.sets ∧ (t.getBuck d).stopped = false ∧
      (t.getBuck d).jobCons = (if (s.getBuck d).stopped then ((s.getBuck d).jobCons + 1) % (s.getBuck d).jobSize else (s.getBuck d).jobCons)

/-- BUCK_JOB_DOORBELL, CONVERT, COPY, ADAPTER and BUCKER_JOB_COMPLETE (R354, R355, R359, R361, R364, R366): a job at CONS runs where a plan runs and the ring is
not stopped, and no line outside the extents of its set is written; its completion writes STATUS and advances CONS, and a status other
than 0 stops the ring and, from 3 to 7, fails a set that is being built. -/
def Obligations.BuckerJobs : Prop :=
  (∀ (s : State) (d v : Nat), s.seen d = true →
    (fld v 16 0 = (s.getBuck d).jobSize → exec (.buckJobDoorbell d v) s =
      .next (s.updBuck d fun b => if fld v 63 32 < b.jobSize then { b with jobProd := fld v 63 32 } else b)) ∧
    ((s.getBuck d).jobDev = true → (s.getBuck d).jobCons = (s.getBuck d).jobProd → 2 ≤ fld v 16 0 → fld v 16 0 ≤ 65536 → fld v 16 0 ≠ (s.getBuck d).jobSize →
      fld v 63 32 < fld v 16 0 → exec (.buckJobDoorbell d v) s =
        .next (s.updBuck d fun b => { b with jobSize := fld v 16 0, jobCons := b.jobCons % fld v 16 0, jobProd := fld v 63 32 }))) ∧
  (∀ (s : State) (d : Nat) (selfBad : Bool), ∀ p ∈ [(1, Instr.convert d selfBad), (2, .copy d), (3, .adapter d selfBad)],
    let b := s.getBuck d
    (b.stopped = true ∨ b.done.isSome = true ∨ b.jobCons = b.jobProd ∨ s.ctxRuns d = false → exec p.2 s = .next s) ∧
    (b.stopped = false → b.done = none → b.jobCons ≠ b.jobProd → s.ctxRuns d = true →
      ((s.jobEntry d).2 = some none → ∃ t r, exec p.2 s = .next t ∧ (t.getBuck d).done = some r ∧ r.status = 7 ∧ t.mem.mem = s.mem.mem ∧
        t.mem.landing = s.mem.landing ∧ t.weight.sets = s.weight.sets) ∧
      ∀ bs e, (s.jobEntry d).2 = some (some bs) → num bs 0 1 = p.1 → e = s.getSet (num bs 4 1) → e.adBase % 512 = 0 →
        e.adBase + 512 * e.adLines * e.adCount ≤ e.length →
        (let j := BuckJob.ofBytes bs
         p.1 = 2 ∨ j.srcKind = 1 ∨ j.srcKind = 3 ∨ (j.srcKind = 0 ∧ s.sourceRead d j = true) ∨
         (j.srcKind = 2 ∧ s.linkChecked (j.src % 4096) = s ∧ s.linkReady (j.src % 4096) (if j.srcFmt = 0x10 then 2 ^ 64 else j.span) = true)) →
        ∃ t r more, exec p.2 s = .next t ∧ (t.getBuck d).done = some r ∧ r.type = p.1 ∧ r.set = num bs 4 1 ∧ r.notch = num bs 48 2 ∧ r.add = num bs 52 4 ∧
          (t.getBuck d).jobCons = b.jobCons ∧ (∀ i, (t.getSet i).state = (s.getSet i).state) ∧
          (s.jobOk d bs = true → e.domain = d → e.state = 4 → p.1 = 1 → r.status = 2 ∧ more = [] ∧ t.mem.mem = s.mem.mem) ∧
          (∀ a, (∀ x ∈ e.ext, a < x.1 * 65536 ∨ (x.1 + x.2) * 65536 ≤ a) → memGet t.mem.mem a = memGet s.mem.mem a) ∧
          t.mem.landing = s.mem.landing ++ more ∧
          (∀ l ∈ more, ∃ x ∈ e.ext, x.1 * 65536 ≤ l.2.1 ∧ l.2.1 + 512 ≤ (x.1 + x.2) * 65536 ∧ l.2.2.1.length ≤ 512) ∧
          t.stand = s.stand ∧ t.ctx = s.ctx ∧ t.prot = s.prot ∧ t.notch = s.notch ∧ t.queue = s.queue ∧ t.hub.lnd = s.hub.lnd ∧ t.pending = s.pending)) ∧
  ∀ (s : State) (d : Nat),
    ((s.getBuck d).done = none → exec (.buckerJobComplete d) s = .next s) ∧
    ∀ r, (s.getBuck d).done = some r → (s.getBuck d).jobDev = true →
      (r.status = 0 → r.type ≠ 3 → ∃ t, exec (.buckerJobComplete d) s = .next t ∧ (t.getBuck d).done = none ∧
        (t.getBuck d).jobCons = ((s.getBuck d).jobCons + 1) % (s.getBuck d).jobSize ∧ t.weight.sets = s.weight.sets ∧
        (∀ a, memGet t.mem.mem a = if a = (s.getBuck d).jobBase + 64 * (s.getBuck d).jobCons + 56 then 0 else memGet s.mem.mem a) ∧
        (r.notch = 0xFFFF → t = { s with mem := t.mem, weight := t.weight }) ∧
        (r.notch ≠ 0xFFFF → t.notch.inbox = s.notch.inbox ++ [{ src := unitSrc 48, op := 0, notch := r.notch, value := r.add }] ∧
          t.notch.n = s.notch.n)) ∧
      (0 < r.status → r.status ≤ 8 → ∃ t, exec (.buckerJobComplete d) s = .next t ∧ (t.getBuck d).done = none ∧ (t.getBuck d).stopped = true ∧
        (t.getBuck d).stopStatus = r.status ∧ (t.getBuck d).jobCons = (s.getBuck d).jobCons ∧ (t.getBuck d).jobFail = (s.getBuck d).jobFail.add 1 ∧
        Raised s t d 0x0507 noUnit (s.getCmp 19).loc r.set r.status ∧
        t.getSet r.set = (if 3 ≤ r.status ∧ r.status ≤ 7 ∧ ((s.getSet r.set).state = 1 ∨ (s.getSet r.set).state = 2) ∧ (s.getSet r.set).domain = d
          then { s.getSet r.set with state := 5 } else s.getSet r.set) ∧
        (∀ i, i ≠ r.set → t.getSet i = s.getSet i) ∧
        (∀ a, memGet t.mem.mem a = if a = (s.getBuck d).jobBase + 64 * (s.getBuck d).jobCons + 56 then BitVec.ofNat 8 r.status else memGet s.mem.mem a) ∧
        t.stand = s.stand ∧ t.ctx = s.ctx ∧ t.prot = s.prot ∧ t.pending = s.pending)

/-- The BASE, CFG and IDX registers of the rings in host memory (R389, R395, R452, R484, R507, R558): a ring that lies in the host region is taken while
no plan is armed or runs, and a new base or size restarts its indices; one outside the region is dropped and counted; a size out of range changes
nothing; CONS is taken where it does not pass PROD. -/
def Obligations.HostRings : Prop :=
  ∀ (s : State) (d v : Nat), s.seen d = true → (s.getTally d).backlog = [] → (s.getTally d).jrnReplay = false → (s.getTally d).signAsked = false →
    s.ledger.bootGiven.contains d = true → ∀ r ∈ hostRings d,
    let ring := r.2.2.2.1
    let unit := r.2.2.2.2.1
    let b := v / unit % (2 ^ 64 / unit) * unit
    let n := fld v 24 0
    let c := fld v 63 32
    (s.placed d b unit (ring s).size = true → s.cfgOpen d = true → (s.getTally d).epoch < 0xFFFFFFFF → ∃ t, exec (r.1 d v) s = .next t ∧
      ring t = (if (ring s).base = b then ring s else { ring s with base := b, cons := 0, prod := 0 }) ∧ Changed s t d) ∧
    (s.placed d b unit (ring s).size = true → s.cfgOpen d = false → exec (r.1 d v) s = .next s) ∧
    (s.placed d b unit (ring s).size = false → ∃ t, exec (r.1 d v) s = .next t ∧ tget {} t.host.drops d = (tget {} s.host.drops d).add 1 ∧
      t = { s with host := t.host }) ∧
    ((n = 0 ∨ (r.2.2.2.2.2 ≤ n ∧ n ≤ 2 ^ 24)) → s.placed d (ring s).base unit n = true → s.cfgOpen d = true → (s.getTally d).epoch < 0xFFFFFFFF →
      ∃ t, exec (r.2.1 d v) s = .next t ∧
        ring t = (if (ring s).size = n then ring s else { ring s with size := n, cons := 0, prod := 0 }) ∧ Changed s t d) ∧
    (¬(n = 0 ∨ (r.2.2.2.2.2 ≤ n ∧ n ≤ 2 ^ 24)) → exec (r.2.1 d v) s = .next s) ∧
    ∃ t, exec (r.2.2.1 d v) s = .next t ∧
      ring t = (if c < (ring s).size ∧ (c + (ring s).size - (ring s).cons) % (ring s).size ≤ (ring s).used then { ring s with cons := c } else ring s) ∧
      t = { s with tally := t.tally, hub := t.hub }

/-- SIGNATURE, TALLY_SIGN_CMD, TALLY_SIGN_CFG, TALLY_TWIN_CFG and LND_OUT_WB (R395, R434, R435, R443, R452, R558): the oldest chain head owed is signed
and the chain does not move; a signature is owed once for a head, and waits for 6 free units of the backlog; intervals and ports in range are taken. -/
def Obligations.Signatures : Prop :=
  (∀ (s : State) (d : Nat), (s.getTally d).signAsked = false →
    ((s.getTally d).owed = [] → exec (.signature d) s = .next s) ∧
    ∀ q head rest, (s.getTally d).owed = (q, head) :: rest → ∃ t, exec (.signature d) s = .next t ∧
      (t.getTally d).owed = rest ∧ (t.getTally d).signed = (s.getTally d).signed.add 1 ∧
      tfind? t.mgmt.signature d = some (s.signatureUnit d q head) ∧ (t.getTally d).seq = (s.getTally d).seq ∧ (t.getTally d).head = (s.getTally d).head ∧
      (s.host.up = false → (t.getTally d).backlog = insertUnit q (s.signatureUnit d q head) (s.getTally d).backlog ∧ t.out = s.out) ∧
      (∀ e, e ≠ d → t.getTally e = s.getTally e) ∧ t.ctx = s.ctx ∧ t.stand = s.stand ∧ t.prot = s.prot ∧ t.pending = s.pending) ∧
  (∀ (s : State) (d v : Nat), s.seen d = true →
    (bit v 0 = false → exec (.tallySignCmd d v) s = .next s) ∧
    (bit v 0 = true → (s.getTally d).room < 6 → exec (.tallySignCmd d v) s = .next (s.updTally d fun t => { t with signAsked := true })) ∧
    (bit v 0 = true → 6 ≤ (s.getTally d).room → (s.getTally d).seq ≠ 0 → (s.getTally d).signedHead ≠ some ((s.getTally d).seq - 1) →
      ∃ t, exec (.tallySignCmd d v) s = .next t ∧ t.getTally d = { s.getTally d with
          owed := (s.getTally d).owed ++ [((s.getTally d).seq - 1, (s.getTally d).head)], signedHead := some ((s.getTally d).seq - 1)
          sinceSign := 0, signAsked := false } ∧
        (∀ e, e ≠ d → t.getTally e = s.getTally e) ∧ t = { s with tally := t.tally }) ∧
    (fld v 20 0 = 0 ∨ 2 ^ 20 < fld v 20 0 → exec (.tallySignCfg d v) s = .next s) ∧ (11 < fld v 3 0 → exec (.tallyTwinCfg d v) s = .next s) ∧
    (s.cfgOpen d = true → (s.getTally d).epoch < 0xFFFFFFFF →
      (1 ≤ fld v 20 0 → fld v 20 0 ≤ 2 ^ 20 → ∃ t, exec (.tallySignCfg d v) s = .next t ∧ (t.getTally d).signInterval = fld v 20 0 ∧ Changed s t d) ∧
      (fld v 3 0 ≤ 11 → ∃ t, exec (.tallyTwinCfg d v) s = .next t ∧ (t.getTally d).twinEn = bit v 63 ∧ (t.getTally d).twinLeader = bit v 62 ∧
        (t.getTally d).twinPort = fld v 3 0 ∧ Changed s t d) ∧
      ((fld v 63 3 = 0 ∨ (s.getDom d).hosts (fld v 63 3 * 8) 4 = true) → ∃ t, exec (.lndOutWb d v) s = .next t ∧ (t.getLnd d).wb = fld v 63 3 * 8 ∧
        Changed s t d)))

/-- BUILD, TICKET_READBACK_COMPLETE and STEP_RECORD (R375, R376, R387, R389 to R394, R439): a build that nothing holds writes its tickets and keeps its
decisions until the last of them is read back; a held build takes no decision and changes no page; a record goes out whole, once its tally has left, with
room for all its units. -/
def Obligations.LandingBuilds : Prop :=
  ∀ (s : State) (d : Nat),
    (s.buildReady d = false → exec (.build d) s = .next s) ∧
    (s.buildReady d = true → (s.getLnd d).redo = [] → (s.getTally d).jrnReplay = false →
      let reps := s.homes d
      let a := s.ring.count + 1
      let r := s.decideBuild d a reps (s.work0 d reps)
      let own := 1 + ((tokenEntries (s.getLnd d).live a r.2 ++ r.1.notices).map fun e => e.units.length).foldl (· + ·) 0
      let n := (s.buildTickets d ((s.getCtx d).step + 1) a reps r.2 r.1).length + 1
      (s.holdCause d reps own n = none → ∃ t b, exec (.build d) s = .next t ∧ (t.getLnd d).build = some b ∧ b.step = (s.getCtx d).step + 1 ∧ b.ring = a ∧
        b.decs = r.2 ∧ b.held = none ∧ b.tseq + 1 = (s.getTally d).tseq + n ∧ (t.getTally d).tseq = (s.getTally d).tseq + n ∧
        (t.getTally d).jrn.prod = ((s.getTally d).jrn.prod + n) % (s.getTally d).jrn.size ∧ (t.getLnd d).live = (s.getLnd d).live ∧
        (t.getLnd d).pending = (s.getLnd d).pending ∧ (t.getLnd d).owedHolds = 0 ∧ t.mem = s.mem ∧ t.stand = s.stand ∧ t.ctx = s.ctx ∧ t.prot = s.prot ∧
        t.queue = s.queue ∧ t.notch = s.notch) ∧
      ∀ c, s.holdCause d reps own n = some c → s.host.up = true → 0 < (s.getTally d).jrn.free → ∃ t b, exec (.build d) s = .next t ∧
        (t.getLnd d).build = some b ∧ b.held = some c ∧ b.decs = [] ∧ (t.getTally d).tseq = (s.getTally d).tseq + 1 ∧
        (t.getLnd d).live = (s.getLnd d).live ∧ (t.getLnd d).pending = (s.getLnd d).pending ∧ t.mem = s.mem ∧ t.stand = s.stand ∧ t.ctx = s.ctx ∧
        t.prot = s.prot) ∧
    ((s.getLnd d).build = none → exec (.ticketReadbackComplete d) s = .next s) ∧
    (∀ b, (s.getLnd d).build = some b → s.ctxRuns d = true → ∃ t, exec (.ticketReadbackComplete d) s = .next t ∧ (t.getLnd d).build = none ∧
      (t.getLnd d).posted = true ∧ (t.getTally d).nextTseq = b.tseq ∧ (t.getTally d).nextHeld = b.held.isSome ∧ (t.getLnd d).held = b.held.isSome ∧
      t.prot = s.prot ∧ t.ring = s.ring ∧ t.queue = s.queue ∧ t.notch = s.notch ∧ t.pending = s.pending ∧
      ∀ c, b.held = some c → (t.getLnd d).holdCause = c ∧ (t.getLnd d).heldCt = (s.getLnd d).heldCt.add 1 ∧ t.mem.page = s.mem.page ∧
        (t.getLnd d).live.map (·.arrival) = (s.getLnd d).live.map (·.arrival) ∧
        (t.getLnd d).pending.map (·.arrival) = (s.getLnd d).pending.map (·.arrival)) ∧
    ((s.getLnd d).recs = [] → exec (.stepRecord d) s = .next s) ∧
    ∀ r rest seq failed cause, (s.getLnd d).recs = r :: rest → r.closed = some (seq, failed, cause) → (s.getTally d).twinEn = false →
      (((s.getTally d).backlog.any fun u => unitKind u == 0 && decide (unitSeq u ≤ seq)) = true ∨ s.host.up = false ∨ (s.getLnd d).out.free < r.units →
        exec (.stepRecord d) s = .next s) ∧
      (((s.getTally d).backlog.any fun u => unitKind u == 0 && decide (unitSeq u ≤ seq)) = false → s.host.up = true → r.units ≤ (s.getLnd d).out.free →
        ∃ t more, exec (.stepRecord d) s = .next t ∧ (t.getLnd d).recs = rest ∧ (t.getLnd d).records = (s.getLnd d).records.add 1 ∧
          (t.getLnd d).out.prod = ((s.getLnd d).out.prod + r.units) % (s.getLnd d).out.size ∧
          t.out = s.out ++ Emit.hostWrite d ((s.getLnd d).out.addr 64 (s.getLnd d).out.prod) (headerOf d r seq failed cause) :: more ∧
          t.tally = s.tally ∧ t.stand = s.stand ∧ t.ctx = s.ctx ∧ t.mem = s.mem ∧ t.prot = s.prot ∧ t.pending = s.pending)

/-- GRADER_LOAD and GRADER_UNLOAD (R399 to R402, R419): an object that keeps the format takes the lowest free handle, and its statuses; of an allowed list
the bitmap is built, a bit for each token; a handle of another domain or one that a request binds stays. -/
def Obligations.GraderObjects : Prop :=
  ∀ (s : State) (d : Nat), s.seen d = true → (s.getTally d).epoch < 0xFFFFFFFF →
    (firstBelow (fun h => (tfind? s.hub.obj h).isNone) 4096 = none → exec (.graderLoad d) s = .next (s.grAnswer d 1 0)) ∧
    (∀ h, firstBelow (fun h => (tfind? s.hub.obj h).isNone) 4096 = some h →
      let a := (s.getGr d).arg
      (a % 64 ≠ 0 ∨ (s.getDom d).weightOnly a 64 = false → exec (.graderLoad d) s = .next (s.grAnswer d 2 0)) ∧
      ∀ hd bs, a % 64 = 0 → (s.getDom d).weightOnly a 64 = true → s.grRead d 1 a 64 = (s, hd, false) →
        let o := objOf d a hd
        ((o.headerOk hd && o.inside (s.getDom d)) = false → exec (.graderLoad d) s = .next (s.grAnswer d 2 0)) ∧
        (o.headerOk hd = true → o.inside (s.getDom d) = true →
          s.grRead d 1 (a + o.stateOff + (if o.kind = 1 then 16 * o.start else 0)) (if o.kind = 1 then 16 else 4 * o.count) = (s, bs, false) →
          (o.kind = 1 → (o.stateOf bs).ok = true → ∃ t, exec (.graderLoad d) s = .next t ∧ tfind? t.hub.obj h = some o ∧
            (∀ j, j ≠ h → tfind? t.hub.obj j = tfind? s.hub.obj j) ∧ (t.getGr d).resStatus = 0 ∧ (t.getGr d).resHandle = h ∧ Changed s t d) ∧
          (o.kind = 2 → (o.ids bs).all (fun x => decide (x < s.vocab d)) = true → ∃ t, exec (.graderLoad d) s = .next t ∧ tfind? t.hub.obj h = some o ∧
            (∀ j, j ≠ h → tfind? t.hub.obj j = tfind? s.hub.obj j) ∧ (t.getGr d).resStatus = 0 ∧ (t.getGr d).resHandle = h ∧
            (∀ x, x < 262144 → (memGet t.mem.mem (a + o.maskOff + x / 8)).toNat.testBit (x % 8) = (o.ids bs).contains x) ∧
            (∀ b, (b < a + o.maskOff ∨ a + o.maskOff + 32768 ≤ b) → memGet t.mem.mem b = memGet s.mem.mem b) ∧
            t.ctx = s.ctx ∧ t.stand = s.stand ∧ t.prot = s.prot))) ∧
    ∀ h, (tfind? s.hub.obj h = none → exec (.graderUnload d h) s = .next (s.grAnswer d 5 h)) ∧
      ∀ o, tfind? s.hub.obj h = some o →
        (o.dom ≠ d → exec (.graderUnload d h) s = .next (s.grAnswer d 4 h)) ∧
        (o.dom = d → s.handleBound d h = true → exec (.graderUnload d h) s = .next (s.grAnswer d 3 h)) ∧
        (o.dom = d → s.handleBound d h = false → ∃ t, exec (.graderUnload d h) s = .next t ∧ tfind? t.hub.obj h = none ∧
          (∀ j, j ≠ h → tfind? t.hub.obj j = tfind? s.hub.obj j) ∧ (t.getGr d).resStatus = 0 ∧ Changed s t d)

/-- DRAFT, VERIFY and GRADER_PHASE_COMPLETE (R43, R413, R415, R417): an entry of another kind, ring or stamp does nothing; a phase takes its entry of the
schedule and, for a DRAFT, sends one word a decode slot on its circuit; it adds and drops no request and writes no byte of device memory; it completes at
its time, and the step's last VERIFY completes the step for the Landing. -/
def Obligations.GraderPhases : Prop :=
  ∀ (s : State) (d : Nat),
    (∀ p ∈ [(1, Instr.draft d []), (2, .verify d [])], s.grReady d p.1 = none → exec p.2 s = .next s) ∧
    (∀ bad e rep, s.grReady d 1 = some e → (s.getCtx d).replicaList[e.replica]? = some rep → ∃ t fs, exec (.draft d bad) s = .next t ∧
      t.net = { s.net with outbox := s.net.outbox ++ fs } ∧ fs.length = cdiv rep.dslots 128 ∧
      (∀ f ∈ fs, f.loc = .bridge ∧ f.inPort = 46 ∧ f.ckt = e.ckt ∧ f.dom = d ∧ f.dtok = e.dtok ∧ f.srcEnd = .unit 46) ∧
      (t.getGr d).next = (s.getGr d).next + 1 ∧ (∃ due, (t.getGr d).due = some (due, 1)) ∧
      (t.getLnd d).live.map (·.arrival) = (s.getLnd d).live.map (·.arrival) ∧ (t.getLnd d).pending = (s.getLnd d).pending ∧
      t.mem.mem = s.mem.mem ∧ t.stand = s.stand ∧ t.prot = s.prot ∧ t.queue = s.queue ∧ t.notch = s.notch ∧ t.pending = s.pending) ∧
    (∀ bad e rep, s.grReady d 2 = some e → (s.getCtx d).replicaList[e.replica]? = some rep → ∃ t, exec (.verify d bad) s = .next t ∧
      (t.getGr d).next = (s.getGr d).next + 1 ∧ (∃ due, (t.getGr d).due = some (due, 2)) ∧
      (t.getLnd d).live.map (·.arrival) = (s.getLnd d).live.map (·.arrival) ∧ (t.getLnd d).pending = (s.getLnd d).pending ∧
      t.net = s.net ∧ t.mem.mem = s.mem.mem ∧ t.stand = s.stand ∧ t.prot = s.prot ∧ t.queue = s.queue ∧ t.notch = s.notch ∧ t.pending = s.pending) ∧
    ((s.getGr d).due = none → exec (.graderPhaseComplete d) s = .next s) ∧
    ∀ due kind, (s.getGr d).due = some (due, kind) →
      ((s.getCmp 19).loc < due → exec (.graderPhaseComplete d) s = .next s) ∧
      (due ≤ (s.getCmp 19).loc → exec (.graderPhaseComplete d) s = .next (s.updGr d fun g =>
        { g with due := none, done := g.done || (kind == 2 && !(((s.getCtx d).schedule.drop (s.getGr d).next).any fun e => e.kind == 2)) }))

/-- The rows of R60 in which the state of the context stays, where nothing else refuses the command (R36, R470, R527, R539).

The rows of R60 in which GO, STOP and DISARM move a context or are held (R62): what each leaves in it, and that nothing else changes but
the refill of its stands. -/
def Obligations.PlanCommands : Prop :=
  (∀ (s : State) (d : Nat), s.seen d = true → s.ring.locked = true → s.repair.refuses = false → s.therm.tripPin = false → s.shifting d = false →
      (∀ tag c, (s.getCtx d).state ≠ .none → Answers (.load d tag c) s d 1) ∧
      (∀ r, (s.getCtx d).state ∈ [PState.none, .running, .stopping] → Answers (.arm d r) s d 1) ∧
      (∀ r, (s.getCtx d).state = .armed →
        Answers (.arm d r) s d (if (s.getCtx d).armStart = (s.getCtx d).start ∧ (s.getCtx d).armResume = r then 0 else 1)) ∧
      ((s.getCtx d).state ∈ [PState.none, .loaded, .stopping, .halted] → Answers (.go d) s d 1) ∧
      ((s.getCtx d).state = .armed → (s.getCtx d).armStart ≤ s.ring.count + 1 → Answers (.go d) s d 3) ∧
      ((s.getCtx d).state = .running → Answers (.go d) s d 0) ∧
      ((s.getCtx d).state ∈ [PState.none, .loaded, .stopping, .halted] → Answers (.stop d) s d 0) ∧
      ((s.getCtx d).state ∈ [PState.none, .loaded] → Answers (.disarm d) s d 0) ∧
      ((s.getCtx d).state = .none → Answers (.unload d) s d 0) ∧
      ((s.getCtx d).state ∈ [PState.armed, .running, .stopping] → Answers (.unload d) s d 1)) ∧
  (∀ (s : State) (d : Nat), s.seen d = true →
      (s.ring.locked = true → s.repair.refuses = false → (s.getCtx d).state = .armed → s.ring.count + 1 < (s.getCtx d).armStart →
        exec (.go d) s = .next (s.updCtx d fun c => { c with goHeld := true, lastStatus := 0 })) ∧
      ((s.getCtx d).state = .running → exec (.stop d) s = .next (s.updCtx d fun c => { c with state := .stopping, lastStatus := 0 })) ∧
      ((s.getCtx d).state ∈ [PState.running, .stopping] →
        exec (.disarm d) s = .next (s.updCtx d fun c => { c with state := .stopping, disarmAtHalt := true, lastStatus := 0 })) ∧
      (∀ c, (c = .stop d ∧ (s.getCtx d).state = .armed) ∨ (c = .disarm d ∧ (s.getCtx d).state ∈ [PState.armed, .halted]) →
        ∃ t, exec c s = .next t ∧ OnlyContext s t d ∧
          t.getCtx d = { s.getCtx d with state := .loaded, goHeld := false, disarmAtHalt := false, lastStatus := 0 } ∧
          ∀ st, t.getStand st = if (s.getStand st).ctx = some d then (s.getStand st).endRefill else s.getStand st))

/-- ARM where R60 and R559 accept it in LOADED or HALTED: the context is ARMED for the ring of RING_PLAN_START (R62).

LOAD where R559 finds nothing to refuse: the context is LOADED with the tag, the stand count and the plan's fields bound; every stand of
the plan's stand set is held by it, and a LOAD tally is chained (R60, R65, R67, R429).

UNLOAD in LOADED or HALTED with room in the backlog: the context is NONE, no stand is held by it, and an UNLOAD tally is chained (R60, R429). -/
def Obligations.PlanAccepted : Prop :=
  (∀ (s : State) (d : Nat) (r : Bool), s.seen d = true → s.statusArm d (s.getCtx d).start r = 0 → (s.getCtx d).state ≠ .armed →
      ∃ t, exec (.arm d r) s = .next t ∧
        t.getCtx d = { s.getCtx d with state := .armed, armStart := (s.getCtx d).start, armResume := r, goHeld := false, lastStatus := 0 } ∧
        (∀ e, e ≠ d → t.getCtx e = s.getCtx e) ∧ t.ring = s.ring ∧ t.tally = s.tally ∧ t.net = s.net ∧ t.prot = s.prot ∧ t.pending = s.pending ∧
        ∀ st, (s.getStand st).ctx ≠ some d → t.getStand st = s.getStand st) ∧
  (∀ (s : State) (d tag c : Nat), s.seen d = true → s.statusLoad d tag c = 0 →
      ∃ t, exec (.load d tag c) s = .next t ∧
        (t.getCtx d).state = .loaded ∧ (t.getCtx d).jobTag = tag ∧ (t.getCtx d).stands = c ∧ (t.getCtx d).lastStatus = 0 ∧
        (t.getCtx d).planId = (sha512 (memRead s.mem.mem (s.getCtx d).image (s.readImg (s.getCtx d).image).hdr.length)).take 16 ∧
        (∀ e, e ≠ d → t.getCtx e = s.getCtx e) ∧ (∀ st, st < 512 → planStand (s.getDom d) c st = true → (t.getStand st).ctx = some d) ∧
        (t.getTally d).seq = (s.getTally d).seq + 1 ∧ (t.getTally d).lastStep = 0 ∧ t.prot = s.prot ∧ t.ring = s.ring ∧ t.pending = s.pending) ∧
  (∀ (s : State) (d : Nat), s.seen d = true → (s.getCtx d).state ∈ [PState.loaded, .halted] → 2 ≤ (s.getTally d).room →
      ∃ t, exec (.unload d) s = .next t ∧
        (t.getCtx d).state = .none ∧ (t.getCtx d).sects = [] ∧ (t.getCtx d).lastStatus = 0 ∧ (∀ e, e ≠ d → t.getCtx e = s.getCtx e) ∧
        (∀ st, (t.getStand st).ctx ≠ some d) ∧ (∀ st, (s.getStand st).ctx ≠ some d → t.getStand st = s.getStand st) ∧
        (t.getTally d).seq = (s.getTally d).seq + 1 ∧ t.prot = s.prot ∧ t.ring = s.ring ∧ t.pending = s.pending)

/-- ABORT for the tag and a step of a plan that runs (R53): the flag waits to be sent on the other ports of the domain that are UP, and the plan halts at the next
ring boundary with cause STEP_ABORTED, unless it halts by then already; the step it names is kept among those from which the lowest is resumed. A second flag for a
step, and one of another tag or of a plan that does not run, changes nothing.

TWIN and TWIN_COMPARE (R443 to R445): the peer's digest is kept; digests that agree close the tally that waited for them, and others fail its step
with TWIN_DIVERGE and halt the plan. -/
def Obligations.AbortAndTwins : Prop :=
  (∀ (s : State) (p tag step d : Nat), s.aelDom p = some d → (s.getAel p).state = 2 →
      ((s.getCtx d).jobTag ≠ tag ∨ s.ctxRuns d = false ∨ (s.getCtx d).abortSeen.contains step = true → exec (.abort p tag step) s = .next s) ∧
      ((s.getCtx d).jobTag = tag → s.ctxRuns d = true → (s.getCtx d).abortSeen.contains step = false →
        ∃ t, exec (.abort p tag step) s = .next t ∧
          t.getCtx d = { s.getCtx d with
            abortSeen := step :: (s.getCtx d).abortSeen
            halt := if (s.getCtx d).halt.any (fun h => decide (h.ring ≤ s.ring.count + 1)) then (s.getCtx d).halt
              else some { cause := 0x0105, ring := s.ring.count + 1, unit := noUnit } } ∧
          (∀ e, e ≠ d → t.getCtx e = s.getCtx e) ∧
          (∀ q, t.getAel q = if q < 12 ∧ s.aelDom q = some d ∧ (s.getAel q).state = 2 ∧ q ≠ p
            then { s.getAel q with ctl := (s.getAel q).ctl ++ [{ type := 4, fields := [tag, step], left := 3 }] } else s.getAel q) ∧
          t.out = s.out ∧ t.stand = s.stand ∧ t.net = s.net ∧ t.tally = s.tally ∧ t.ring = s.ring ∧ t.pending = s.pending)) ∧
  ((∀ (s : State) (p ring dig d : Nat), s.aelDom p = some d → (s.getAel p).state = 2 → (s.getTally d).twinEn = true → (s.getTally d).twinPort = p →
      exec (.twin p ring dig) s = .next (s.updTally d fun t => { t with twinPeer := some (ring, dig) })) ∧
    ∀ (s : State) (d n : Nat), (s.getTally d).twinDue = some n → 256 ≤ s.ring.cycle →
      ((s.getTally d).twinPeer = some (n, (s.getTally d).twinDig) → (s.getTally d).waiting = none →
        exec (.twinCompare d) s = .next (s.updTally d fun t => { t with twinDue := none })) ∧
      ((s.getTally d).twinPeer ≠ some (n, (s.getTally d).twinDig) → (s.getTally d).waiting = none → (s.getCtx d).halt = none →
        ∃ t, exec (.twinCompare d) s = .next t ∧ Failed s t d 0x0601 noUnit ∧ Raised s t d 0x0601 noUnit s.ring.cycle n 0 ∧ (t.getTally d).twinDue = none ∧
          (t.getCtx d).halt = some { cause := 0x0601, ring := n + 2, unit := noUnit } ∧
          t.stand = s.stand ∧ t.net = s.net ∧ t.prot = s.prot ∧ t.pending = s.pending))

/-- STRETCH, TEMP_SAMPLE, PWR_WARN, PWR_WARN_HALT and PWR_WARN_RELEASE (R459, R468 to R471, R539, R552): droop is acted on at a kept edge outside an
operating-point stop; a junction at 95 degrees or a stack at 85 asks every running plan to halt at the next ring boundary, at 105 or 90 every Deck is
lost; PWR_WARN_N asks every running plan to halt, and one that has not halted 14 µs later halts at once. -/
def Obligations.PowerEvents : Prop :=
  (∀ (s : State) (k : Nat),
    (k < 20 → (s.getCmp k).keptNow = true → (s.getCmp k).stop = false → ((s.getCmp k).on = true ∨ 16 ≤ k) →
      exec (.stretch k) s = .next (s.updCmp k fun c => { c with droop := true })) ∧
    ((s.getCmp k).keptNow = false ∨ (s.getCmp k).stop = true → exec (.stretch k) s = .next s)) ∧
  (∀ (s : State) (tj hbm rails : List Nat), ∃ t, exec (.tempSample tj hbm rails) s = .next t ∧
    (t.therm.tripPin = true ↔ s.therm.burnt = true ∨ 95 ≤ tj.foldl max 0 ∨ 85 ≤ hbm.foldl max 0 ∨ 105 ≤ tj.foldl max 0 ∨ 90 ≤ hbm.foldl max 0 ∨
      (s.therm.tripTj = true ∧ s.therm.tjWarn < tj.foldl max 0 + 5) ∨ (s.therm.tripHbm = true ∧ s.therm.hbmWarn < hbm.foldl max 0 + 5) ∨
      (s.therm.critTj = true ∧ s.therm.tjWarn < tj.foldl max 0 + 5) ∨ (s.therm.critHbm = true ∧ s.therm.hbmWarn < hbm.foldl max 0 + 5)) ∧
    (t.therm.trip = true → s.therm.trip = false → t.therm.crit = false → ∀ d, d < 16 → s.ctxRuns d = true → (s.getCtx d).halt = none →
      (t.getCtx d).halt = some { cause := 0x0802, ring := s.ring.count + 1, unit := noUnit } ∧ (t.getCtx d).state = (s.getCtx d).state) ∧
    (t.therm.crit = true → s.therm.crit = false → (∀ st, (t.getStand st).mem = []) ∧ (∀ k, k < 16 → (t.getCmp k).on = false) ∧
      ∀ d, d < 16 → t.ctxRuns d = false) ∧
    (t.therm.crit = false → (∀ st, t.getStand st = s.getStand st) ∧ ∀ k, k < tj.length → t.getCmp k = { s.getCmp k with tj := tj.getD k 0 }) ∧
    t.prot = s.prot ∧ t.ring = s.ring ∧ t.pending = s.pending) ∧
  (∀ s : State,
    (s.repair.warn = true → exec .pwrWarn s = .next s) ∧
    (s.repair.warn = false → ∃ t, exec .pwrWarn s = .next t ∧ t.repair.warn = true ∧ t.repair.warnTime = s.time ∧ t.prot = s.prot ∧
      t.stand = s.stand ∧ t.net = s.net ∧ t.pending = s.pending ∧
      (s.ready = true → ∀ d, d < 16 → s.ctxRuns d = true → (s.getCtx d).halt = none →
        t.getCtx d = { s.getCtx d with halt := some { cause := 0x0803, ring := s.ring.count + 1, unit := noUnit } }) ∧
      (s.ready = true → (∀ d, d < 16 → s.ctxRuns d = false) → t.repair.stopped = true ∧ t.repair.flushed = true ∧ t.ctx = s.ctx)) ∧
    exec .pwrWarnRelease s = .next { s with repair := { s.repair with warn := false } } ∧
    (s.time < s.repair.warnTime + 17500 → exec .pwrWarnHalt s = .next s) ∧
    (s.repair.warnTime + 17500 ≤ s.time → s.repair.refuses = true → ∃ t, exec .pwrWarnHalt s = .next t ∧
      (∀ d, d < 16 → ((s.getCtx d).halt.any fun h => h.cause == 0x0803) = true → t.ctxRuns d = false) ∧
      (∀ d, ((s.getCtx d).halt.any fun h => h.cause == 0x0803) = false → t.getCtx d = s.getCtx d) ∧ t.prot = s.prot ∧ t.ring = s.ring ∧
      t.pending = s.pending))

/-- SHIFT and ROW_SHIFTED (R526 to R529, R541): a command for a row of the domain that no engaged plan uses is taken where the row has its spare, and the
shift starts at the next ring boundary; while a shift is in progress another is refused and it goes on; when its time has come the row is shifted and
ROW_SHIFTED is raised. -/
def Obligations.RowShift : Prop :=
  (∀ (s : State) (d row pos : Nat), s.seen d = true → bit (s.getDom d).stands (row / 2) = true → pos ≤ 15 →
    (s.repair.shState ∈ [1, 2] → ∃ t, exec (.shift d row pos) s = .next t ∧ t = { s with repair := { s.repair with shStatus := 1 } }) ∧
    (s.repair.shState ∉ [1, 2] →
      ((s.getRow row).shift = pos → ∃ t, exec (.shift d row pos) s = .next t ∧
        t = { s with repair := { s.repair with shState := 3, shStatus := 0, shRowPos := rowPos row pos } }) ∧
      ((s.getRow row).shift ≠ pos → ((s.rowCtxs row).any fun e => (s.getCtx e).engaged) = true → ∃ t, exec (.shift d row pos) s = .next t ∧
        t = { s with repair := { s.repair with shStatus := 1, shRowPos := rowPos row pos } }) ∧
      ((s.getRow row).shift ≠ pos → ((s.rowCtxs row).any fun e => (s.getCtx e).engaged) = false → (s.getTally d).epoch < 0xFFFFFFFF →
        ((s.getRow row).failed = 0 → ∃ t, exec (.shift d row pos) s = .next t ∧ t.repair = { s.repair with
            shState := 1, shStatus := 0, shRowPos := rowPos row pos, shRow := row, shPos := pos, shDom := d, shRing := s.ring.count + 1 } ∧
          (t.getTally d).epoch = (s.getTally d).epoch + 1 ∧ t.stand = s.stand ∧ t.ctx = s.ctx ∧ t.prot = s.prot ∧ t.pending = s.pending) ∧
        ((s.getRow row).failed ≠ 0 → ∃ t, exec (.shift d row pos) s = .next t ∧ t.repair.shState = 3 ∧ t.repair.shStatus = 2 ∧
          (t.getRow row).failed = (s.getRow row).failed ||| 2 ^ pos ∧ (t.getRow row).shift = (s.getRow row).shift ∧
          (∀ r, r ≠ row → t.getRow r = s.getRow r) ∧ t.stand = s.stand ∧ t.prot = s.prot ∧ t.pending = s.pending)))) ∧
  ∀ s : State,
    (s.repair.shState ≠ 2 ∨ s.time < s.repair.shRing * s.L + 32768 → exec .rowShifted s = .next s) ∧
    (s.repair.shState = 2 → s.repair.shRing * s.L + 32768 ≤ s.time → ∃ t, exec .rowShifted s = .next t ∧ t.repair.shState = 3 ∧ t.repair.shStatus = 0 ∧
      (t.getRow s.repair.shRow).shift = s.repair.shPos ∧ (∀ r, r ≠ s.repair.shRow → t.getRow r = s.getRow r) ∧
      Raised s t s.repair.shDom 0x0703 noUnit s.ring.cycle s.repair.shRow s.repair.shPos ∧
      (∀ st, (∀ q, s.repair.shPos ≤ q → q ≤ 15 → st ≠ standAt s.repair.shRow q) → t.getStand st = s.getStand st) ∧
      t.ctx = s.ctx ∧ t.prot = s.prot ∧ t.ring = s.ring ∧ t.mem = s.mem ∧ t.pending = s.pending)

/-- START, ABANDON, CONTROL_ARM, CONTROL_GO and CONFIRM (R63, R531 to R535, R542): a root that stands where its tree has it arms its plan and waits for its
children; a device without children confirms an ARM that it takes, along a route to the sender; a packet for another tag or start ring is dropped and counted;
a failed confirmation ends the start at the root, a GO is held, and one for a context that is not armed is answered WRONG_STATE. -/
def Obligations.BroadcastTree : Prop :=
  (∀ (s : State) (d : Nat) (r : Bool), s.seen d = true →
    (s.rootOk d (s.rootCtl d r) = false ∨ s.statusArm d (s.getCtx d).start r ≠ 0 → ∃ t, exec (.start d r) s = .next t ∧
      (t.getBc d).state = 3 ∧ (t.getBc d).failLid = s.logicalId d ∧ (t.getCtx d).state = (s.getCtx d).state ∧ t.net = s.net ∧ t.stand = s.stand) ∧
    (s.rootOk d (s.rootCtl d r) = true → s.statusArm d (s.getCtx d).start r = 0 → (s.getCtx d).state ≠ .armed →
      (s.rootCtl d r).kids (s.logicalId d) ≠ [] → ∃ t, exec (.start d r) s = .next t ∧
        (t.getBc d).state = 1 ∧ (t.getBc d).count = 1 ∧ (t.getBc d).waitFor = (s.rootCtl d r).kids (s.logicalId d) ∧
        (t.getCtx d).state = .armed ∧ (t.getCtx d).armStart = (s.getCtx d).start ∧ (∀ e, e ≠ d → t.getCtx e = s.getCtx e) ∧ t.prot = s.prot) ∧
    exec (.abandon d) s = .next (if (s.getBc d).state = 1 then s.updBc d fun b => { b with state := 4 } else s)) ∧
  (∀ (s : State) (c : Ctl) (p : Packet) (i : Instr) (cmd : Nat), (cmd, i) ∈ [(1, Instr.controlArm false), (2, .controlGo false), (3, .confirm false)] →
    p.payload = .control c → c.cmd = cmd → GivenOut s (.unit 45) (fun pl => match pl with | .control c => c.cmd == cmd | _ => false) p →
    (s.ctlCtx c = none ∨ (∃ d, s.ctlCtx c = some d ∧ s.armedWith d c = false ∧ (cmd = 3 ∨ (s.getCtx d).state = .armed)) →
      ∃ t, exec i s = .next t ∧ t.net.pkts = dropFirst (· == p) s.net.pkts ∧
        (t.getAel p.port).tagDrop = (s.getAel p.port).tagDrop.add 1 ∧ t.ctx = s.ctx ∧ t.bcast = s.bcast ∧ t.stand = s.stand ∧ t.prot = s.prot)) ∧
  ∀ (s : State) (d : Nat) (c : Ctl) (p : Packet), p.payload = .control c → s.ctlCtx c = some d →
    GivenOut s (.unit 45) (fun pl => match pl with | .control x => x.cmd == c.cmd | _ => false) p →
    (c.cmd = 2 → s.ready = true → (s.getCtx d).state ∈ [PState.loaded, .stopping, .halted] → ∃ t, exec (.controlGo false) s = .next t ∧
      t.getCtx d = { s.getCtx d with lastStatus := 1 } ∧ (∀ e, e ≠ d → t.getCtx e = s.getCtx e) ∧ t.net.pkts = dropFirst (· == p) s.net.pkts ∧
      t.stand = s.stand ∧ t.prot = s.prot) ∧
    (∀ r, c.cmd = 1 → num (s.getCtx d).planId 0 8 = c.plan → (s.getCtx d).state = .loaded → s.statusArm d c.start c.resume = 0 →
      c.kids (s.logicalId d) = [] → s.compose [] [7, 0] p.srcDev = .inl r → ∃ t q, exec (.controlArm false) s = .next t ∧
        (t.getCtx d).state = .armed ∧ (t.getCtx d).armStart = c.start ∧ (t.getBc d).ctl = some c ∧ (t.getBc d).parent = some p.srcDev ∧
        t.net.pkts = dropFirst (· == p) s.net.pkts ++ [q] ∧ q.payload = .control { c with cmd := 3, count := 1, ok := true, failLid := 0 } ∧
        q.route = r ∧ (∀ e, e ≠ d → t.getCtx e = s.getCtx e) ∧ t.prot = s.prot) ∧
    (c.cmd = 2 → s.armedWith d c = true → s.statusGo d = 0 → ∃ t, exec (.controlGo false) s = .next t ∧ (t.getCtx d).goHeld = true ∧
      (t.getCtx d).state = .armed ∧ (∀ e, e ≠ d → t.getCtx e = s.getCtx e) ∧ t.stand = s.stand ∧ t.prot = s.prot) ∧
    (c.cmd = 3 → s.armedWith d c = true → c.ok = false → (s.getBc d).parent = none → (s.getBc d).state = 1 → ∃ t, exec (.confirm false) s = .next t ∧
      (t.getBc d).state = 3 ∧ (t.getBc d).failLid = c.failLid ∧ t.ctx = s.ctx ∧ t.stand = s.stand ∧ t.prot = s.prot) ∧
    (c.cmd = 3 → s.armedWith d c = true → c.ok = true → (s.getBc d).waitFor.contains p.srcDev = true →
      (s.getBc d).waitFor.filter (· != p.srcDev) ≠ [] → ∃ t, exec (.confirm false) s = .next t ∧
        (t.getBc d).waitFor = (s.getBc d).waitFor.filter (· != p.srcDev) ∧ (t.getBc d).below = (s.getBc d).below + c.count ∧ t.ctx = s.ctx ∧
        t.net.pkts = dropFirst (· == p) s.net.pkts ∧ t.stand = s.stand ∧ t.prot = s.prot)

/-- The resets (R479, R482, R486, R503, R515, R550, R551, R556): COLD_RST_N, a rail out of range, PERST_N and EXTEST discard every state but the flash and hold
the device; HOT_RESET and RESET discard it and boot again; without the reference the device stops in FAILED with code 3; a boot of a valid copy locks the
protection table of that copy. The TAP's other instructions change nothing but the port. -/
def Obligations.Resets : Prop :=
  (∀ s : State,
    (∃ t, exec .coldReset s = .next t ∧ Discarded s t 0 ∧ t.pins.cold = true) ∧
    (s.pins.cold = true → exec .railUndervolt s = .next s) ∧
    (s.pins.cold = false → ∃ t, exec .railUndervolt s = .next t ∧ Discarded s t 0 ∧ t.pins.railHeld = true) ∧
    (s.pins.perst = true → exec .perstN s = .next s) ∧
    (s.pins.perst = false → s.pins.cold = false → ∃ t, exec .perstN s = .next t ∧ Discarded s t 1 ∧ t.pins.perst = true ∧ t.pins.perstHeld = true) ∧
    (s.pins.tap ≠ 3 → ∃ t, exec .extest s = .next t ∧ Discarded s t s.sec.cause ∧ t.pins.tap = 3)) ∧
  (∀ (s : State) (e : BootEnv),
    (s.pins.cold = false → s.pins.railHeld = false → exec (.resetRelease e) s = .next s) ∧
    (s.pins.cold = true ∨ s.pins.railHeld = true → s.pins.perstHeld = false → s.pins.tap ≠ 3 → ∃ t, exec (.resetRelease e) s = .next t ∧
      t.flash = s.flash ∧ t.pins.cold = false ∧ t.pins.railHeld = false ∧ t.pending = s.pending ∧
      (e.ref = false → t.sec.stage = 15 ∧ t.sec.failCode = 3 ∧ t.prot = s.prot) ∧
      (e.ref = true → e.hub = true → match (s.verify e s.candidates 0).2.1 with
        | some cp => t.sec.copy = cp ∧ t.sec.locked = true ∧ t.prot = protTable (tget [] t.sec.sects 2)
        | none => t.sec.stage = 15 ∧ t.sec.failCode ∈ [1, 2] ∧ t.prot = s.prot)) ∧
    (s.pins.perst = false → exec (.perstNDeassert e) s = .next s) ∧
    (s.pins.perst = true → s.pins.perstHeld = false → s.pins.held = false → exec (.perstNDeassert e) s =
      .next { s with pins := { s.pins with perst := false, perstHeld := false }, host := { s.host with link := 1 } }) ∧
    (s.pins.perst = true → s.pins.perstHeld = true → s.pins.cold = false → s.pins.railHeld = false → s.pins.tap ≠ 3 → e.ref = false →
      ∃ t, exec (.perstNDeassert e) s = .next t ∧ t.pins.perst = false ∧ t.sec.stage = 15 ∧ t.sec.failCode = 3 ∧ t.flash = s.flash) ∧
    (s.pins.held = true → exec (.hotReset e) s = .next s) ∧
    (s.pins.held = false → ∃ t, exec (.hotReset e) s = .next t ∧ Booted s t ∧ t.sec.cause = 1 ∧ t.out = s.out) ∧
    (∀ tag, s.pins.held = false → 4 ≤ s.sec.stage → ∃ t, exec (.reset tag e) s = .next t ∧ Booted s t ∧ t.sec.cause = 2 ∧
      t.out = s.out ++ [.fjotal 0x20 tag 0 []]) ∧
    (∀ tag, s.sec.stage < 4 → exec (.reset tag e) s = .next s ∧ exec (.resetFlush tag e) s = .next s) ∧
    (∀ tag, s.pins.held = false → s.ready = true → (∀ d, d < 16 → s.ctxRuns d = false) → ∃ t more, exec (.resetFlush tag e) s = .next t ∧ Booted s t ∧
      t.sec.cause = 2 ∧ t.out = s.out ++ Emit.fjotal 0x20 tag 0 [] :: more) ∧
    (∀ tag d, s.ready = true → d < 16 → s.ctxRuns d = true → (s.getCtx d).halt = none → ∃ t, exec (.resetFlush tag e) s = .next t ∧
      t.repair.resetEnv = some e ∧ t.out = s.out ++ [.fjotal 0x20 tag 0 []] ∧
      (t.getCtx d).halt = some { cause := 0x0803, ring := s.ring.count + 1, unit := noUnit } ∧ t.stand = s.stand ∧ t.prot = s.prot)) ∧
  ∀ (s : State) (e : BootEnv), s.pins.tap ≠ 3 →
    exec (.bypass e) s = .next { s with pins := { s.pins with tap := 0 } } ∧
    exec (.idcode e) s = .next { s with pins := { s.pins with tap := 1 }, out := s.out ++ [.tdo 0x1F4040F3] } ∧
    exec (.samplePreload e) s = .next { s with pins := { s.pins with tap := 2, sample := s.pinWord }, out := s.out ++ [.tdo s.pinWord] } ∧
    exec (.trstN e) s = .next { s with pins := { s.pins with tap := 1 } }

/-- The Fjotal commands that read, WRITE_REG, MCTP control and the address assignments of I3C (R479, R482, R510 to R514): answered from stage 4 on, in FAILED only
those that mask ROM offers; a write that R514 does not accept is DENIED and changes nothing.

UPDATE_BEGIN, WRITE, COMMIT and ABORT (R448, R473, R494, R495): in READY the inactive copy is erased and no byte of the other changes; a write programs the bytes it
gives; a commit that fails a check says which and changes nothing of the flash; one that passes writes the header and moves every domain's epoch. -/
def Obligations.ManagementCommands : Prop :=
  (∀ (s : State) (tag : Nat),
      (s.sec.stage < 4 → ∀ c ∈ [Instr.getStatus tag, .readReg tag 0 0 1, .writeReg tag 0 0 0, .readTally tag 0 0, .readLedger tag 0, .readLog tag 0,
        .updateBegin tag, .updateWrite tag 4096 [0], .updateCommit tag [] none, .updateAbort tag, .mctpControl none, .setdasa 0x3A 9, .entdaa 9],
        exec c s = .next s) ∧
      (s.sec.stage = 15 → ∀ p ∈ [(2, Instr.readReg tag 0 0 1), (3, .writeReg tag 0 0 0), (4, .readTally tag 0 0), (5, .readLedger tag 0)],
        ∃ t, exec p.2 s = .next t ∧ OnlyAnswered s t p.1 tag 1 []) ∧
      (4 ≤ s.sec.stage →
        (∃ t, exec (.getStatus tag) s = .next t ∧ OnlyAnswered s t 1 tag 0 (leBytes 8 s.secBoot ++ leBytes 8 s.protCtrl ++ leBytes 8 s.thermWord ++
          leBytes 8 s.ringAlign ++ leBytes 8 s.ring.count)) ∧
        (∀ i, 1024 ≤ i → ∃ t, exec (.readLog tag i) s = .next t ∧ OnlyAnswered s t 6 tag 2 []) ∧
        (∀ i, i < 1024 → ∃ t, exec (.readLog tag i) s = .next t ∧ OnlyAnswered s t 6 tag 0 (tget (zeros 32) s.mgmt.log i)) ∧
        (∀ eid, ∃ t, exec (.mctpControl eid) s = .next t ∧ t.mgmt.eid = (match eid with | some x => x % 256 | none => s.mgmt.eid) ∧
          t.out = s.out ++ [.mctp [BitVec.ofNat 8 t.mgmt.eid]] ∧ t = { s with out := t.out, mgmt := { s.mgmt with eid := t.mgmt.eid } }) ∧
        (∀ addr dyn, exec (.setdasa addr dyn) s = .next { s with mgmt := { s.mgmt with dyn := if addr = 0x3A then dyn % 128 else s.mgmt.dyn } }) ∧
        ∀ dyn, exec (.entdaa dyn) s = .next { s with mgmt := { s.mgmt with dyn := if s.mgmt.dyn = 0 then dyn % 128 else s.mgmt.dyn } }) ∧
      (4 ≤ s.sec.stage → s.sec.stage ≠ 15 →
        (∀ dom off n, 1 ≤ n → n ≤ 64 → off + 8 * n ≤ 2 ^ 25 → ((List.range n).all fun i => regArgOk dom (off + 8 * i)) = true →
          ∃ t, exec (.readReg tag dom off n) s = .next t ∧
            OnlyAnswered s t 2 tag 0 ((List.range n).map fun i => leBytes 8 (s.readReg none dom (off + 8 * i))).flatten) ∧
        (∀ dom off n, n = 0 ∨ 64 < n → ∃ t, exec (.readReg tag dom off n) s = .next t ∧ OnlyAnswered s t 2 tag 2 []) ∧
        (∀ dom off v, regArgOk dom off = false → ∃ t, exec (.writeReg tag dom off v) s = .next t ∧ OnlyAnswered s t 3 tag 2 []) ∧
        (∀ dom off v, dom < 16 → off % 8 = 0 → 0x300000 ≤ off → off < 0x310000 → ∃ t, exec (.writeReg tag dom off v) s = .next t ∧
          OnlyAnswered s t 3 tag 1 []) ∧
        (∀ dom v, dom < 16 → v < 2 ^ 64 → ∃ t, exec (.writeReg tag dom 0x202010 v) s = .next t ∧ OnlyAnswered { s with therm := t.therm } t 3 tag 0 [] ∧
          t.therm = { s.therm with warnSeen := s.therm.warnSeen && !bit v 0, tripSeen := s.therm.tripSeen && !bit v 1,
                                   critSeen := s.therm.critSeen && !bit v 2 }) ∧
        (∀ i, i < 256 → ∃ t, exec (.readLedger tag i) s = .next t ∧ OnlyAnswered s t 5 tag 0 (s.ledgerBytes none i)) ∧
        ∀ d back u, d < 16 → back < 16 → (tget [] s.mgmt.units d)[back]? = some u → ∃ t, exec (.readTally tag d back) s = .next t ∧
          OnlyAnswered s t 4 tag 0 u)) ∧
  (∀ (s : State) (tag : Nat), 4 ≤ s.sec.stage →
      (s.updatable = false → ∃ t, exec (.updateBegin tag) s = .next t ∧ OnlyAnswered s t 0x10 tag 3 []) ∧
      (s.ready = true → s.sec.copy ≤ 1 → ∃ t, exec (.updateBegin tag) s = .next t ∧ t.mgmt.updOpen = true ∧ t.mgmt.updCopy = 1 - s.sec.copy ∧
        t.mgmt.updBytes = 0 ∧ t.out = s.out ++ [.fjotal 0x10 tag 0 []] ∧
        (∀ a, memGet t.flash a = if copyBase (1 - s.sec.copy) ≤ a ∧ a < copyBase (1 - s.sec.copy) + 2 ^ 25 then 0 else memGet s.flash a) ∧
        (if s.sec.copy = 0 then t.sec = { s.sec with bState := 1, seqB := 0 } else t.sec = { s.sec with aState := 1, seqA := 0 }) ∧
        t = { s with flash := t.flash, sec := t.sec, mgmt := t.mgmt, out := t.out, free := t.free }) ∧
      (s.updatable = false ∨ s.mgmt.updOpen = false → ∀ off bs hdr seed,
        (∃ t, exec (.updateWrite tag off bs) s = .next t ∧ OnlyAnswered s t 0x11 tag 3 []) ∧
        (∃ t, exec (.updateCommit tag hdr seed) s = .next t ∧ OnlyAnswered s t 0x12 tag 3 []) ∧
        ∃ t, exec (.updateAbort tag) s = .next t ∧ OnlyAnswered s t 0x13 tag 3 []) ∧
      (s.updatable = true → s.mgmt.updOpen = true →
        (∀ off bs, 1 ≤ bs.length → bs.length ≤ 4096 → 4096 ≤ off → off + bs.length ≤ 2 ^ 25 → ∃ t, exec (.updateWrite tag off bs) s = .next t ∧
          OnlyAnswered { s with flash := t.flash, mgmt := { s.mgmt with updBytes := s.mgmt.updBytes + bs.length } } t 0x11 tag 0 [] ∧
          ∀ a, memGet t.flash a = if copyBase s.mgmt.updCopy + off ≤ a ∧ a < copyBase s.mgmt.updCopy + off + bs.length
            then memGet s.flash a ||| ~~~(bs.getD (a - (copyBase s.mgmt.updCopy + off)) 0) else memGet s.flash a) ∧
        (∀ hdr seed, hdr.length = 4096 → (∀ d, d < 16 → (s.getTally d).epoch < 0xFFFFFFFF) → ∃ t, exec (.updateCommit tag hdr seed) s = .next t ∧
          if s.commitCheck hdr seed ≠ 0 then OnlyAnswered s t 0x12 tag 5 [BitVec.ofNat 8 (s.commitCheck hdr seed)]
          else t.mgmt.updOpen = false ∧ t.out = s.out ++ [.fjotal 0x12 tag 0 []] ∧
            (∀ d, d < 16 → (t.getTally d).epoch = (s.getTally d).epoch + 1) ∧ t.ledger.next = (s.ledger.next + 1) % 2 ^ 32 ∧
            (if s.mgmt.updCopy = 0 then t.sec = { s.sec with aState := 0, seqA := num hdr 8 8 } else t.sec = { s.sec with bState := 0, seqB := num hdr 8 8 }) ∧
            (∀ a, (a < copyBase s.mgmt.updCopy ∨ copyBase s.mgmt.updCopy + 4096 ≤ a) → memGet t.flash a = memGet s.flash a) ∧
            t.prot = s.prot ∧ t.ctx = s.ctx ∧ t.stand = s.stand ∧ t.pending = s.pending) ∧
        ∃ t, exec (.updateAbort tag) s = .next t ∧ OnlyAnswered { s with mgmt := { s.mgmt with updOpen := false } } t 0x13 tag 0 []))

/-- The SPDM responder (R479, R489, R492, R493, R504; response formats are the model's, log entry 36): each request in order is answered, one out of order with
an error, none before stage 4 or in FAILED; certificates are those of the booted copy, a signature is of the attestation key over the transcript, a session
opens with FINISH and ends with END_SESSION, and IDE keys are programmed in a session only. -/
def Obligations.SpdmResponses : Prop :=
  ∀ (s : State) (slot off len i : Nat) (signed : Bool) (nonce : List Byte) (ld : Option Nat),
    (∀ p ∈ spdmRequests s slot off len i signed nonce ld,
      (s.sec.stage < 4 ∨ s.sec.stage = 15 → exec p.1 s = .next s) ∧
      (4 ≤ s.sec.stage → s.sec.stage ≠ 15 →
        (p.2.1 = false → exec p.1 s = .next { s with out := s.out ++ [.spdm 0x7F []] }) ∧
        (p.2.1 = true → ∃ t data, exec p.1 s = .next t ∧ t.out = s.out ++ [.spdm p.2.2 data] ∧
          t = { s with out := t.out, mgmt := t.mgmt, free := t.free, host := t.host }))) ∧
    (4 ≤ s.sec.stage → s.sec.stage ≠ 15 → s.mgmt.settled = true →
      (∃ t, exec .getDigests s = .next t ∧ t.out = s.out ++ [.spdm 0x81 (sha512 s.cert)]) ∧
      (slot = 0 → off < s.cert.length → ∃ t, exec (.getCertificate slot off len) s = .next t ∧ t.out = s.out ++ [.spdm 0x82 ((s.cert.drop off).take len)]) ∧
      (∃ t, exec (.challenge nonce) s = .next t ∧ t.out = s.out ++ [.spdm 0x83 (sha512 s.cert ++
        ed25519Sign s.sec.attSeed (s.mgmt.transcript ++ (nonce ++ sha512 s.cert)))]) ∧
      (1 ≤ i → i ≤ 7 → ∃ t, exec (.getMeasurements i true nonce) s = .next t ∧ t.out = s.out ++ [.spdm 0xE0 (s.measure i ++
        ed25519Sign s.sec.attSeed (s.mgmt.transcript ++ (nonce ++ s.measure i)))]) ∧
      (s.mgmt.keyed = true → ∃ t, exec (.finish true) s = .next t ∧ t.mgmt.session = true ∧ t.mgmt.keyed = false) ∧
      (s.mgmt.session = true → (∃ t, exec .endSession s = .next t ∧ t.mgmt.session = false) ∧
        ∃ t, exec (.vendorDefinedRequest none) s = .next t ∧ t.host = { s.host with ideCm := true }))

/-- The host port (R498 to R500, R502 to R504, R509): the link comes up and goes down without a reset; CXL.mem reads and writes the bytes of the LD's windows
while its plan is not engaged, and is otherwise poisoned or dropped and counted; a snoop finds nothing; a failed read of host memory counts and fails the
structure it was for; a pending vector sends one message when it is unmasked. -/
def Obligations.HostPort : Prop :=
  (∀ (s : State) (speed width : Nat), (s.pins.held = true ∨ s.pins.perst = true → exec (.hostLinkUp speed width) s = .next s) ∧
    (s.pins.held = false → s.pins.perst = false → ∃ t, exec (.hostLinkUp speed width) s = .next t ∧ t.host.link = 2 ∧ t.host.speed = min speed 6 ∧
      t.host.width = min width 4 ∧ t.host.reads = s.host.reads ∧ (∀ d, (t.getTally d).seq = (s.getTally d).seq) ∧ t.ctx = s.ctx ∧ t.stand = s.stand ∧
      t.prot = s.prot ∧ t.pending = s.pending) ∧
    exec .hostLinkDown s = .next { s with host := { s.host with link := 0, speed := 0, width := 0, ideCm := false, contained := false } } ∧
    exec .snoop s = .next (if s.host.link = 2 then { s with out := s.out ++ [.rspIHitI] } else s) ∧
    exec .ideCheckFail s = .next { s with host := { s.host with contained := s.host.contained || s.host.ideCm } } ∧
    ∀ b, exec (.fabricManagerCommand b) s =
      .next (if s.host.link = 2 then { s with out := s.out ++ [.fabric (if b then List.range 16 else [16])] } else s)) ∧
  (∀ (s : State) (d off be : Nat) (bs : List Byte),
    (hdmAddr (s.getDom d).windows (off / 64 * 64) = none ∨ s.seen d = false ∨ (s.getCtx d).engaged = true →
      (∃ t, exec (.cxlMemAccess d off false be bs) s = .next t ∧ t.out = s.out ++ [.cxlData d off (zeros 64) true] ∧
        tget {} t.host.memDrop d = (tget {} s.host.memDrop d).add 1 ∧ t = { s with out := t.out, host := t.host }) ∧
      ∃ t, exec (.cxlMemAccess d off true be bs) s = .next t ∧ tget {} t.host.memDrop d = (tget {} s.host.memDrop d).add 1 ∧ t = { s with host := t.host }) ∧
    ∀ a, hdmAddr (s.getDom d).windows (off / 64 * 64) = some a → s.seen d = true → (s.getCtx d).engaged = false →
      let cls := (((s.getDom d).window (a / 65536)).map fun w => w.2.2.1).getD 0
      (s.memRefusal d a cls false false 0 = none → s.mem.flip = [] →
        exec (.cxlMemAccess d off false be bs) s = .next { s with out := s.out ++ [.cxlData d off (memRead s.mem.mem a 64) false] }) ∧
      (s.memRefusal d a cls true false (segEnables a be) = none → ∃ t, exec (.cxlMemAccess d off true be bs) s = .next t ∧
        (∀ b, memGet t.mem.mem b = if a ≤ b ∧ b < a + 64 ∧ be.testBit (b - a) = true then bs.getD (b - a) 0 else memGet s.mem.mem b) ∧
        t = { s with mem := t.mem })) ∧
  (∀ (s : State) (w : HostRead),
    (∀ bs, exec (.hostReadCompletion w (some bs)) s = .next { s with host := { s.host with reads := s.host.reads ++ [(w, some bs)] } }) ∧
    ∀ c ∈ [Instr.hostReadCompletion w none, .hostReadTimeout w],
      (∀ d, w ∈ [HostRead.template d, .job d, .source d, .scales d, .tickets d] → ∃ t, exec c s = .next t ∧ t.host.reads = s.host.reads ++ [(w, none)] ∧
        tget {} t.host.rdFail d = (tget {} s.host.rdFail d).add 1 ∧ t = { s with host := t.host }) ∧
      ∀ d q, w = .entry q → s.queueDom q = some d → (s.getQueue q).state = 1 → ∃ t, exec c s = .next t ∧ QueueFaulted s t d q 6 (s.getQueue q).cons ∧
        tget {} t.host.rdFail d = (tget {} s.host.rdFail d).add 1) ∧
  (∀ (s : State) (d v : Nat),
    ((s.getMsix d v).masked = false ∨ (s.getMsix d v).pend = false → ∃ t, exec (.msixUnmask d v) s = .next t ∧
      t.getMsix d v = { s.getMsix d v with masked := false } ∧ t.out = s.out ∧ t = { s with host := t.host }) ∧
    ((s.getMsix d v).masked = true → (s.getMsix d v).pend = true → (s.getDom d).hosts (s.getMsix d v).addr 4 = true → ∃ t, exec (.msixUnmask d v) s = .next t ∧
      t.getMsix d v = { s.getMsix d v with masked := false, pend := false } ∧ t.out = s.out ++ [.msix d v] ∧ t = { s with host := t.host, out := t.out })) ∧
  ∀ (s : State) (d : Nat), ∃ t, exec (.flr d) s = .next t ∧ (∀ v, t.getMsix d v = {}) ∧ (∀ e, e ≠ d → t.getCtx e = s.getCtx e) ∧ t.prot = s.prot ∧
    t.ring = s.ring ∧ t.pending = s.pending ∧
    (∀ q, s.queueDom q = some d → (t.getQueue q).state = 0 ∧ (t.getQueue q).cons = (s.getQueue q).prod ∧ (t.getQueue q).prod = (s.getQueue q).prod) ∧
    (∀ q, s.queueDom q ≠ some d → t.getQueue q = s.getQueue q) ∧
    (s.ready = true → (s.getCtx d).state ∈ [.loaded, .armed, .halted] → 2 ≤ (s.getTally d).room → (t.getCtx d).state = .none) ∧
    (s.ready = true → (s.getCtx d).state ∈ [.running, .stopping] → (t.getCtx d).state = .stopping ∧ (t.getCtx d).disarmAtHalt = true)

/-- REGISTER_WRITE (R9, R20, R95, R472, R482, R485, R486, R506, R557): a register that the LD does not see, or that it may only read, is not written, and the write is counted;
the protection table and CMP_CFG are locked; a counter is cleared by 0 and by nothing else; a record by ones in VALID and MORE; a register with a row of
its own takes that row's command. -/
def Obligations.RegisterWrites : Prop :=
  ∀ (s : State) (d off v : Nat) (jobs : List Nat), v < 2 ^ 64 →
    (off % 8 ≠ 0 ∨ 2 ^ 25 ≤ off → exec (.registerWrite d 0 off v jobs) s = .next s) ∧
    (off % 8 = 0 → off < 2 ^ 25 → off ≠ 0x101008 + 0x40 * d → s.visible d off = false ∨ ldReadOnly off = true → ∃ t,
      exec (.registerWrite d 0 off v jobs) s = .next t ∧ tget {} t.host.drops d = (tget {} s.host.drops d).add 1 ∧
      tget {} t.host.err d = (tget {} s.host.err d).latch off s.ring.count 0 ∧ t = { s with host := t.host }) ∧
    (s.seen d = true →
      (0x300000 ≤ off → off < 0x301000 → off % 8 = 0 → ∃ t, exec (.registerWrite d 0 off v jobs) s = .next t ∧
        tget {} t.host.drops d = (tget {} s.host.drops d).add 1 ∧ t = { s with host := t.host }) ∧
      (∀ r ∈ registerRows d v, exec (.registerWrite d 0 r.1 v jobs) s = exec r.2 s) ∧
      (d < 16 → exec (.registerWrite d 0 (0x101010 + 0x40 * d) v jobs) s = .next (s.updCtx d fun c => { c with start := v })) ∧
      (∀ k, k < 16 → bit (s.getDom d).stands k = true → exec (.registerWrite d 0 (0x200010 + 0x100 * k) v jobs) s =
        .next (s.updCmp k fun c => { c with stretches := if v = 0 then {} else c.stretches })) ∧
      ∀ st, st < 512 → bit (s.getDom d).stands (standCmp st) = true → exec (.registerWrite d 0 (0xA00618 + 0x4000 * st) v jobs) s =
        .next (s.updStand st fun t => { t with errRec := { t.errRec with
          valid := t.errRec.valid && !v.testBit 63, more := t.errRec.more && !v.testBit 62 } }))
end

