-- ==== Sys2Proof/Laws/Tab.lean ====
section
/-! SUPPORT. What reading a table or a memory gives after it was written, and that every memory operation keeps the canonical form. -/

namespace Sys2Proof.Machine

/-! Tables. -/

@[simp] theorem tget_nil {α : Type} (d : α) (k : Nat) : tget d [] k = d := rfl

@[simp] theorem tget_tput_self {α : Type} (d : α) (t : Tab α) (k : Nat) (v : α) : tget d (tput t k v) k = v := by
  induction t with
  | nil => simp [tput, tget]
  | cons e t ih =>
    obtain ⟨i, x⟩ := e
    unfold tput
    split
    · simp [tget]
    · split
      · simp [tget]
      · rename_i h; simp [tget, h, ih]

theorem tget_tput_ne {α : Type} (d : α) (t : Tab α) {k j : Nat} (v : α) (h : k ≠ j) : tget d (tput t k v) j = tget d t j := by
  induction t with
  | nil => simp [tput, tget, h]
  | cons e t ih =>
    obtain ⟨i, x⟩ := e
    unfold tput
    split
    · simp [tget, h]
    · split
      · rename_i h1; subst h1; simp [tget, h]
      · simp only [tget]; split <;> simp [ih]

@[simp] theorem tfind_tput_self {α : Type} (t : Tab α) (k : Nat) (v : α) : tfind? (tput t k v) k = some v := by
  induction t with
  | nil => simp [tput, tfind?]
  | cons e t ih =>
    obtain ⟨i, x⟩ := e
    unfold tput
    split
    · simp [tfind?]
    · split
      · simp [tfind?]
      · rename_i h; simp [tfind?, h, ih]

theorem tfind_tput_ne {α : Type} (t : Tab α) {k j : Nat} (v : α) (h : k ≠ j) : tfind? (tput t k v) j = tfind? t j := by
  induction t with
  | nil => simp [tput, tfind?, h]
  | cons e t ih =>
    obtain ⟨i, x⟩ := e
    unfold tput
    split
    · simp [tfind?, h]
    · split
      · rename_i h1; subst h1; simp [tfind?, h]
      · simp only [tfind?]; split <;> simp [ih]

@[simp] theorem tget_tupd_self {α : Type} (d : α) (t : Tab α) (k : Nat) (f : α → α) : tget d (tupd d t k f) k = f (tget d t k) := by
  simp [tupd]

theorem tget_tupd_ne {α : Type} (d : α) (t : Tab α) {k j : Nat} (f : α → α) (h : k ≠ j) : tget d (tupd d t k f) j = tget d t j := by
  simp [tupd, tget_tput_ne d t _ h]

@[simp] theorem tget_tdel_self {α : Type} (d : α) (t : Tab α) (k : Nat) : tget d (tdel t k) k = d := by
  induction t with
  | nil => rfl
  | cons e t ih =>
    obtain ⟨i, x⟩ := e
    unfold tdel
    split
    · exact ih
    · rename_i h; simp [tget, h, ih]

theorem tget_tdel_ne {α : Type} (d : α) (t : Tab α) {k j : Nat} (h : k ≠ j) : tget d (tdel t k) j = tget d t j := by
  induction t with
  | nil => rfl
  | cons e t ih =>
    obtain ⟨i, x⟩ := e
    unfold tdel
    split
    · rename_i h1; subst h1; simp [tget, h, ih]
    · simp only [tget]; split <;> simp [ih]

/-- Every listed entry passed through `f`. -/
theorem tget_tmap {α : Type} (d : α) (t : Tab α) (f : Nat → α → α) (k : Nat) (h : f k d = d) : tget d (tmap f t) k = f k (tget d t k) := by
  induction t with
  | nil => simp [tmap, tget, h]
  | cons e t ih =>
    obtain ⟨i, x⟩ := e
    simp only [tmap, tget]
    split
    · rename_i h1; subst h1; rfl
    · exact ih

/-! Memories. -/

theorem memGet_memIns (m : Mem) (a j : Nat) (b : Byte) : memGet (memIns m a b) j = if a = j then b else memGet m j := by
  induction m with
  | nil => simp [memIns, memGet]
  | cons e m ih =>
    obtain ⟨i, x⟩ := e
    unfold memIns
    split
    · simp [memGet]
    · split
      · rename_i h1; subst h1; by_cases h : i = j <;> simp [memGet, h]
      · rename_i h1; simp only [memGet, ih]; by_cases h : i = j
        · subst h; simp [Ne.symm h1]
        · simp [h]

theorem memGet_memDel (m : Mem) (a j : Nat) : memGet (memDel m a) j = if a = j then 0 else memGet m j := by
  induction m with
  | nil => simp [memDel, memGet]
  | cons e m ih =>
    obtain ⟨i, x⟩ := e
    unfold memDel
    split
    · rename_i h1; subst h1; rw [ih]; by_cases h : i = j <;> simp [memGet, h]
    · rename_i h1; simp only [memGet, ih]; by_cases h : i = j
      · subst h; simp [Ne.symm h1]
      · simp [h]

/-- A byte reads as it was last written. -/
theorem memGet_memPut (m : Mem) (a j : Nat) (b : Byte) : memGet (memPut m a b) j = if a = j then b else memGet m j := by
  unfold memPut
  split
  · rename_i h; subst h; exact memGet_memDel m a j
  · exact memGet_memIns m a j b

/-- A write of a string leaves every byte outside it. -/
theorem memGet_memWrite_out (bs : List Byte) : ∀ (m : Mem) (a j : Nat), (j < a ∨ a + bs.length ≤ j) → memGet (memWrite m a bs) j = memGet m j := by
  induction bs with
  | nil => intro m a j _; rfl
  | cons b bs ih =>
    intro m a j h
    simp only [List.length_cons] at h
    have hne : a ≠ j := by omega
    simp only [memWrite]
    rw [ih _ _ _ (by omega), memGet_memPut]
    simp [hne]

/-- A byte of a written string reads as that string has it. -/
theorem memGet_memWrite_in (bs : List Byte) : ∀ (m : Mem) (a k : Nat), k < bs.length → memGet (memWrite m a bs) (a + k) = bs.getD k 0 := by
  induction bs with
  | nil => intro m a k h; simp at h
  | cons b bs ih =>
    intro m a k h
    cases k with
    | zero =>
      simp only [memWrite, Nat.add_zero]
      rw [memGet_memWrite_out bs _ _ _ (by omega), memGet_memPut]; simp
    | succ k =>
      have := ih (memPut m a b) (a + 1) k (by simpa using h)
      rw [show a + (k + 1) = a + 1 + k by omega]
      simpa [memWrite] using this

/-! The canonical form. -/

/-- Every listed address is at least `lo`, addresses rise, and no zero is listed: the canonical form, from `lo` up. -/
def MemFrom (lo : Nat) : Mem → Prop
  | [] => True
  | (i, x) :: m => lo ≤ i ∧ x ≠ 0 ∧ MemFrom (i + 1) m

theorem MemFrom.mono {m : Mem} {lo lo' : Nat} (h : MemFrom lo m) (hl : lo' ≤ lo) : MemFrom lo' m := by
  cases m with
  | nil => trivial
  | cons e m => exact ⟨Nat.le_trans hl h.1, h.2⟩

theorem wf_iff (m : Mem) : Memory.wf m = true ↔ MemFrom 0 m := by
  induction m with
  | nil => simp [Memory.wf, MemFrom]
  | cons e m ih =>
    obtain ⟨i, x⟩ := e
    cases m with
    | nil => simp [Memory.wf, MemFrom]
    | cons e' m =>
      obtain ⟨j, y⟩ := e'
      simp only [Memory.wf, Bool.and_eq_true, decide_eq_true_eq, bne_iff_ne, ih]
      simp only [MemFrom]
      constructor
      · rintro ⟨⟨hx, hij⟩, _, hy, hm⟩; exact ⟨Nat.zero_le _, hx, hij, hy, hm⟩
      · rintro ⟨_, hx, hij, hy, hm⟩; exact ⟨⟨hx, hij⟩, Nat.zero_le _, hy, hm⟩

theorem MemFrom.ins {m : Mem} {b : Byte} (hb : b ≠ 0) : ∀ {lo a : Nat}, MemFrom lo m → lo ≤ a → MemFrom lo (memIns m a b) := by
  induction m with
  | nil => intro lo a _ ha; exact ⟨ha, hb, trivial⟩
  | cons e m ih =>
    obtain ⟨i, x⟩ := e
    intro lo a h ha
    unfold memIns
    split
    · exact ⟨ha, hb, ‹a < i›, h.2⟩
    · split
      · rename_i h1; subst h1; exact ⟨h.1, hb, h.2.2⟩
      · exact ⟨h.1, h.2.1, ih h.2.2 (by omega)⟩

theorem MemFrom.del {m : Mem} : ∀ {lo : Nat} (a : Nat), MemFrom lo m → MemFrom lo (memDel m a) := by
  induction m with
  | nil => intro lo a _; trivial
  | cons e m ih =>
    obtain ⟨i, x⟩ := e
    intro lo a h
    unfold memDel
    split
    · exact (ih a h.2.2).mono (Nat.le_succ_of_le h.1)
    · exact ⟨h.1, h.2.1, ih a h.2.2⟩

theorem MemFrom.clear {m : Mem} : ∀ {lo : Nat} (a b : Nat), MemFrom lo m → MemFrom lo (memClear m a b) := by
  induction m with
  | nil => intro lo a b _; trivial
  | cons e m ih =>
    obtain ⟨i, x⟩ := e
    intro lo a b h
    unfold memClear
    split
    · exact (ih a b h.2.2).mono (Nat.le_succ_of_le h.1)
    · exact ⟨h.1, h.2.1, ih a b h.2.2⟩

theorem wf_memPut {m : Mem} (h : Memory.wf m = true) (a : Nat) (b : Byte) : Memory.wf (memPut m a b) = true := by
  rw [wf_iff] at *
  unfold memPut
  split
  · exact h.del a
  · exact h.ins ‹_› (Nat.zero_le _)

theorem wf_memClear {m : Mem} (h : Memory.wf m = true) (a b : Nat) : Memory.wf (memClear m a b) = true := by
  rw [wf_iff] at *; exact h.clear a b

theorem wf_memWrite (bs : List Byte) : ∀ {m : Mem} (a : Nat), Memory.wf m = true → Memory.wf (memWrite m a bs) = true := by
  induction bs with
  | nil => intro m a h; exact h
  | cons b bs ih => intro m a h; exact ih _ (wf_memPut h a b)

theorem wf_memWriteBE (bs : List Byte) : ∀ {m : Mem} (a : Nat) (be : Nat → Bool), Memory.wf m = true → Memory.wf (memWriteBE m a bs be) = true := by
  induction bs with
  | nil => intro m a be h; exact h
  | cons b bs ih =>
    intro m a be h
    unfold memWriteBE
    split
    · exact ih _ _ (wf_memPut h a b)
    · exact ih _ _ h

end Sys2Proof.Machine
end

