-- ==== Sys2Proof/Laws/State.lean ====
section
/-! SUPPORT. What each update of State changes and what it leaves: one lemma for each field. -/

namespace Sys2Proof.Machine

variable (s : State)

/-! updCtx -/
@[simp] theorem State.getCtx_updCtx (d : Nat) (f : PlanCtx → PlanCtx) : (s.updCtx d f).getCtx d = f (s.getCtx d) := tget_tupd_self _ _ _ _
theorem State.getCtx_updCtx_ne {j : Nat} (d : Nat) (f : PlanCtx → PlanCtx) (h : d ≠ j) : (s.updCtx d f).getCtx j = s.getCtx j := tget_tupd_ne _ _ _ h
@[simp] theorem State.updCtx_ring (d : Nat) (f : PlanCtx → PlanCtx) : (s.updCtx d f).ring = s.ring := rfl
@[simp] theorem State.updCtx_tally (d : Nat) (f : PlanCtx → PlanCtx) : (s.updCtx d f).tally = s.tally := rfl
@[simp] theorem State.updCtx_ledger (d : Nat) (f : PlanCtx → PlanCtx) : (s.updCtx d f).ledger = s.ledger := rfl
@[simp] theorem State.updCtx_cmp (d : Nat) (f : PlanCtx → PlanCtx) : (s.updCtx d f).cmp = s.cmp := rfl
@[simp] theorem State.updCtx_therm (d : Nat) (f : PlanCtx → PlanCtx) : (s.updCtx d f).therm = s.therm := rfl
@[simp] theorem State.updCtx_repair (d : Nat) (f : PlanCtx → PlanCtx) : (s.updCtx d f).repair = s.repair := rfl
@[simp] theorem State.updCtx_bcast (d : Nat) (f : PlanCtx → PlanCtx) : (s.updCtx d f).bcast = s.bcast := rfl
@[simp] theorem State.updCtx_stand (d : Nat) (f : PlanCtx → PlanCtx) : (s.updCtx d f).stand = s.stand := rfl
@[simp] theorem State.updCtx_net (d : Nat) (f : PlanCtx → PlanCtx) : (s.updCtx d f).net = s.net := rfl
@[simp] theorem State.updCtx_mem (d : Nat) (f : PlanCtx → PlanCtx) : (s.updCtx d f).mem = s.mem := rfl
@[simp] theorem State.updCtx_ael (d : Nat) (f : PlanCtx → PlanCtx) : (s.updCtx d f).ael = s.ael := rfl
@[simp] theorem State.updCtx_weight (d : Nat) (f : PlanCtx → PlanCtx) : (s.updCtx d f).weight = s.weight := rfl
@[simp] theorem State.updCtx_notch (d : Nat) (f : PlanCtx → PlanCtx) : (s.updCtx d f).notch = s.notch := rfl
@[simp] theorem State.updCtx_queue (d : Nat) (f : PlanCtx → PlanCtx) : (s.updCtx d f).queue = s.queue := rfl
@[simp] theorem State.updCtx_hub (d : Nat) (f : PlanCtx → PlanCtx) : (s.updCtx d f).hub = s.hub := rfl
@[simp] theorem State.updCtx_prot (d : Nat) (f : PlanCtx → PlanCtx) : (s.updCtx d f).prot = s.prot := rfl
@[simp] theorem State.updCtx_sec (d : Nat) (f : PlanCtx → PlanCtx) : (s.updCtx d f).sec = s.sec := rfl
@[simp] theorem State.updCtx_host (d : Nat) (f : PlanCtx → PlanCtx) : (s.updCtx d f).host = s.host := rfl
@[simp] theorem State.updCtx_mgmt (d : Nat) (f : PlanCtx → PlanCtx) : (s.updCtx d f).mgmt = s.mgmt := rfl
@[simp] theorem State.updCtx_flash (d : Nat) (f : PlanCtx → PlanCtx) : (s.updCtx d f).flash = s.flash := rfl
@[simp] theorem State.updCtx_pins (d : Nat) (f : PlanCtx → PlanCtx) : (s.updCtx d f).pins = s.pins := rfl
@[simp] theorem State.updCtx_out (d : Nat) (f : PlanCtx → PlanCtx) : (s.updCtx d f).out = s.out := rfl
@[simp] theorem State.updCtx_free (d : Nat) (f : PlanCtx → PlanCtx) : (s.updCtx d f).free = s.free := rfl
@[simp] theorem State.updCtx_pending (d : Nat) (f : PlanCtx → PlanCtx) : (s.updCtx d f).pending = s.pending := rfl

/-! updTally -/
@[simp] theorem State.getTally_updTally (d : Nat) (f : TallyCtx → TallyCtx) : (s.updTally d f).getTally d = f (s.getTally d) := tget_tupd_self _ _ _ _
theorem State.getTally_updTally_ne {j : Nat} (d : Nat) (f : TallyCtx → TallyCtx) (h : d ≠ j) : (s.updTally d f).getTally j = s.getTally j := tget_tupd_ne _ _ _ h
@[simp] theorem State.updTally_ring (d : Nat) (f : TallyCtx → TallyCtx) : (s.updTally d f).ring = s.ring := rfl
@[simp] theorem State.updTally_ctx (d : Nat) (f : TallyCtx → TallyCtx) : (s.updTally d f).ctx = s.ctx := rfl
@[simp] theorem State.updTally_ledger (d : Nat) (f : TallyCtx → TallyCtx) : (s.updTally d f).ledger = s.ledger := rfl
@[simp] theorem State.updTally_cmp (d : Nat) (f : TallyCtx → TallyCtx) : (s.updTally d f).cmp = s.cmp := rfl
@[simp] theorem State.updTally_therm (d : Nat) (f : TallyCtx → TallyCtx) : (s.updTally d f).therm = s.therm := rfl
@[simp] theorem State.updTally_repair (d : Nat) (f : TallyCtx → TallyCtx) : (s.updTally d f).repair = s.repair := rfl
@[simp] theorem State.updTally_bcast (d : Nat) (f : TallyCtx → TallyCtx) : (s.updTally d f).bcast = s.bcast := rfl
@[simp] theorem State.updTally_stand (d : Nat) (f : TallyCtx → TallyCtx) : (s.updTally d f).stand = s.stand := rfl
@[simp] theorem State.updTally_net (d : Nat) (f : TallyCtx → TallyCtx) : (s.updTally d f).net = s.net := rfl
@[simp] theorem State.updTally_mem (d : Nat) (f : TallyCtx → TallyCtx) : (s.updTally d f).mem = s.mem := rfl
@[simp] theorem State.updTally_ael (d : Nat) (f : TallyCtx → TallyCtx) : (s.updTally d f).ael = s.ael := rfl
@[simp] theorem State.updTally_weight (d : Nat) (f : TallyCtx → TallyCtx) : (s.updTally d f).weight = s.weight := rfl
@[simp] theorem State.updTally_notch (d : Nat) (f : TallyCtx → TallyCtx) : (s.updTally d f).notch = s.notch := rfl
@[simp] theorem State.updTally_queue (d : Nat) (f : TallyCtx → TallyCtx) : (s.updTally d f).queue = s.queue := rfl
@[simp] theorem State.updTally_hub (d : Nat) (f : TallyCtx → TallyCtx) : (s.updTally d f).hub = s.hub := rfl
@[simp] theorem State.updTally_prot (d : Nat) (f : TallyCtx → TallyCtx) : (s.updTally d f).prot = s.prot := rfl
@[simp] theorem State.updTally_sec (d : Nat) (f : TallyCtx → TallyCtx) : (s.updTally d f).sec = s.sec := rfl
@[simp] theorem State.updTally_host (d : Nat) (f : TallyCtx → TallyCtx) : (s.updTally d f).host = s.host := rfl
@[simp] theorem State.updTally_mgmt (d : Nat) (f : TallyCtx → TallyCtx) : (s.updTally d f).mgmt = s.mgmt := rfl
@[simp] theorem State.updTally_flash (d : Nat) (f : TallyCtx → TallyCtx) : (s.updTally d f).flash = s.flash := rfl
@[simp] theorem State.updTally_pins (d : Nat) (f : TallyCtx → TallyCtx) : (s.updTally d f).pins = s.pins := rfl
@[simp] theorem State.updTally_out (d : Nat) (f : TallyCtx → TallyCtx) : (s.updTally d f).out = s.out := rfl
@[simp] theorem State.updTally_free (d : Nat) (f : TallyCtx → TallyCtx) : (s.updTally d f).free = s.free := rfl
@[simp] theorem State.updTally_pending (d : Nat) (f : TallyCtx → TallyCtx) : (s.updTally d f).pending = s.pending := rfl

/-! updStand -/
@[simp] theorem State.getStand_updStand (st : Nat) (f : Stand → Stand) : (s.updStand st f).getStand st = f (s.getStand st) := tget_tupd_self _ _ _ _
theorem State.getStand_updStand_ne {j : Nat} (st : Nat) (f : Stand → Stand) (h : st ≠ j) : (s.updStand st f).getStand j = s.getStand j := tget_tupd_ne _ _ _ h
@[simp] theorem State.updStand_ring (st : Nat) (f : Stand → Stand) : (s.updStand st f).ring = s.ring := rfl
@[simp] theorem State.updStand_ctx (st : Nat) (f : Stand → Stand) : (s.updStand st f).ctx = s.ctx := rfl
@[simp] theorem State.updStand_tally (st : Nat) (f : Stand → Stand) : (s.updStand st f).tally = s.tally := rfl
@[simp] theorem State.updStand_ledger (st : Nat) (f : Stand → Stand) : (s.updStand st f).ledger = s.ledger := rfl
@[simp] theorem State.updStand_cmp (st : Nat) (f : Stand → Stand) : (s.updStand st f).cmp = s.cmp := rfl
@[simp] theorem State.updStand_therm (st : Nat) (f : Stand → Stand) : (s.updStand st f).therm = s.therm := rfl
@[simp] theorem State.updStand_repair (st : Nat) (f : Stand → Stand) : (s.updStand st f).repair = s.repair := rfl
@[simp] theorem State.updStand_bcast (st : Nat) (f : Stand → Stand) : (s.updStand st f).bcast = s.bcast := rfl
@[simp] theorem State.updStand_net (st : Nat) (f : Stand → Stand) : (s.updStand st f).net = s.net := rfl
@[simp] theorem State.updStand_mem (st : Nat) (f : Stand → Stand) : (s.updStand st f).mem = s.mem := rfl
@[simp] theorem State.updStand_ael (st : Nat) (f : Stand → Stand) : (s.updStand st f).ael = s.ael := rfl
@[simp] theorem State.updStand_weight (st : Nat) (f : Stand → Stand) : (s.updStand st f).weight = s.weight := rfl
@[simp] theorem State.updStand_notch (st : Nat) (f : Stand → Stand) : (s.updStand st f).notch = s.notch := rfl
@[simp] theorem State.updStand_queue (st : Nat) (f : Stand → Stand) : (s.updStand st f).queue = s.queue := rfl
@[simp] theorem State.updStand_hub (st : Nat) (f : Stand → Stand) : (s.updStand st f).hub = s.hub := rfl
@[simp] theorem State.updStand_prot (st : Nat) (f : Stand → Stand) : (s.updStand st f).prot = s.prot := rfl
@[simp] theorem State.updStand_sec (st : Nat) (f : Stand → Stand) : (s.updStand st f).sec = s.sec := rfl
@[simp] theorem State.updStand_host (st : Nat) (f : Stand → Stand) : (s.updStand st f).host = s.host := rfl
@[simp] theorem State.updStand_mgmt (st : Nat) (f : Stand → Stand) : (s.updStand st f).mgmt = s.mgmt := rfl
@[simp] theorem State.updStand_flash (st : Nat) (f : Stand → Stand) : (s.updStand st f).flash = s.flash := rfl
@[simp] theorem State.updStand_pins (st : Nat) (f : Stand → Stand) : (s.updStand st f).pins = s.pins := rfl
@[simp] theorem State.updStand_out (st : Nat) (f : Stand → Stand) : (s.updStand st f).out = s.out := rfl
@[simp] theorem State.updStand_free (st : Nat) (f : Stand → Stand) : (s.updStand st f).free = s.free := rfl
@[simp] theorem State.updStand_pending (st : Nat) (f : Stand → Stand) : (s.updStand st f).pending = s.pending := rfl

/-! updCmp -/
@[simp] theorem State.getCmp_updCmp (k : Nat) (f : Cmp → Cmp) : (s.updCmp k f).getCmp k = f (s.getCmp k) := tget_tupd_self _ _ _ _
theorem State.getCmp_updCmp_ne {j : Nat} (k : Nat) (f : Cmp → Cmp) (h : k ≠ j) : (s.updCmp k f).getCmp j = s.getCmp j := tget_tupd_ne _ _ _ h
@[simp] theorem State.updCmp_ring (k : Nat) (f : Cmp → Cmp) : (s.updCmp k f).ring = s.ring := rfl
@[simp] theorem State.updCmp_ctx (k : Nat) (f : Cmp → Cmp) : (s.updCmp k f).ctx = s.ctx := rfl
@[simp] theorem State.updCmp_tally (k : Nat) (f : Cmp → Cmp) : (s.updCmp k f).tally = s.tally := rfl
@[simp] theorem State.updCmp_ledger (k : Nat) (f : Cmp → Cmp) : (s.updCmp k f).ledger = s.ledger := rfl
@[simp] theorem State.updCmp_therm (k : Nat) (f : Cmp → Cmp) : (s.updCmp k f).therm = s.therm := rfl
@[simp] theorem State.updCmp_repair (k : Nat) (f : Cmp → Cmp) : (s.updCmp k f).repair = s.repair := rfl
@[simp] theorem State.updCmp_bcast (k : Nat) (f : Cmp → Cmp) : (s.updCmp k f).bcast = s.bcast := rfl
@[simp] theorem State.updCmp_stand (k : Nat) (f : Cmp → Cmp) : (s.updCmp k f).stand = s.stand := rfl
@[simp] theorem State.updCmp_net (k : Nat) (f : Cmp → Cmp) : (s.updCmp k f).net = s.net := rfl
@[simp] theorem State.updCmp_mem (k : Nat) (f : Cmp → Cmp) : (s.updCmp k f).mem = s.mem := rfl
@[simp] theorem State.updCmp_ael (k : Nat) (f : Cmp → Cmp) : (s.updCmp k f).ael = s.ael := rfl
@[simp] theorem State.updCmp_weight (k : Nat) (f : Cmp → Cmp) : (s.updCmp k f).weight = s.weight := rfl
@[simp] theorem State.updCmp_notch (k : Nat) (f : Cmp → Cmp) : (s.updCmp k f).notch = s.notch := rfl
@[simp] theorem State.updCmp_queue (k : Nat) (f : Cmp → Cmp) : (s.updCmp k f).queue = s.queue := rfl
@[simp] theorem State.updCmp_hub (k : Nat) (f : Cmp → Cmp) : (s.updCmp k f).hub = s.hub := rfl
@[simp] theorem State.updCmp_prot (k : Nat) (f : Cmp → Cmp) : (s.updCmp k f).prot = s.prot := rfl
@[simp] theorem State.updCmp_sec (k : Nat) (f : Cmp → Cmp) : (s.updCmp k f).sec = s.sec := rfl
@[simp] theorem State.updCmp_host (k : Nat) (f : Cmp → Cmp) : (s.updCmp k f).host = s.host := rfl
@[simp] theorem State.updCmp_mgmt (k : Nat) (f : Cmp → Cmp) : (s.updCmp k f).mgmt = s.mgmt := rfl
@[simp] theorem State.updCmp_flash (k : Nat) (f : Cmp → Cmp) : (s.updCmp k f).flash = s.flash := rfl
@[simp] theorem State.updCmp_pins (k : Nat) (f : Cmp → Cmp) : (s.updCmp k f).pins = s.pins := rfl
@[simp] theorem State.updCmp_out (k : Nat) (f : Cmp → Cmp) : (s.updCmp k f).out = s.out := rfl
@[simp] theorem State.updCmp_free (k : Nat) (f : Cmp → Cmp) : (s.updCmp k f).free = s.free := rfl
@[simp] theorem State.updCmp_pending (k : Nat) (f : Cmp → Cmp) : (s.updCmp k f).pending = s.pending := rfl

/-! updBc -/
@[simp] theorem State.getBc_updBc (d : Nat) (f : Bcast → Bcast) : (s.updBc d f).getBc d = f (s.getBc d) := tget_tupd_self _ _ _ _
theorem State.getBc_updBc_ne {j : Nat} (d : Nat) (f : Bcast → Bcast) (h : d ≠ j) : (s.updBc d f).getBc j = s.getBc j := tget_tupd_ne _ _ _ h
@[simp] theorem State.updBc_ring (d : Nat) (f : Bcast → Bcast) : (s.updBc d f).ring = s.ring := rfl
@[simp] theorem State.updBc_ctx (d : Nat) (f : Bcast → Bcast) : (s.updBc d f).ctx = s.ctx := rfl
@[simp] theorem State.updBc_tally (d : Nat) (f : Bcast → Bcast) : (s.updBc d f).tally = s.tally := rfl
@[simp] theorem State.updBc_ledger (d : Nat) (f : Bcast → Bcast) : (s.updBc d f).ledger = s.ledger := rfl
@[simp] theorem State.updBc_cmp (d : Nat) (f : Bcast → Bcast) : (s.updBc d f).cmp = s.cmp := rfl
@[simp] theorem State.updBc_therm (d : Nat) (f : Bcast → Bcast) : (s.updBc d f).therm = s.therm := rfl
@[simp] theorem State.updBc_repair (d : Nat) (f : Bcast → Bcast) : (s.updBc d f).repair = s.repair := rfl
@[simp] theorem State.updBc_stand (d : Nat) (f : Bcast → Bcast) : (s.updBc d f).stand = s.stand := rfl
@[simp] theorem State.updBc_net (d : Nat) (f : Bcast → Bcast) : (s.updBc d f).net = s.net := rfl
@[simp] theorem State.updBc_mem (d : Nat) (f : Bcast → Bcast) : (s.updBc d f).mem = s.mem := rfl
@[simp] theorem State.updBc_ael (d : Nat) (f : Bcast → Bcast) : (s.updBc d f).ael = s.ael := rfl
@[simp] theorem State.updBc_weight (d : Nat) (f : Bcast → Bcast) : (s.updBc d f).weight = s.weight := rfl
@[simp] theorem State.updBc_notch (d : Nat) (f : Bcast → Bcast) : (s.updBc d f).notch = s.notch := rfl
@[simp] theorem State.updBc_queue (d : Nat) (f : Bcast → Bcast) : (s.updBc d f).queue = s.queue := rfl
@[simp] theorem State.updBc_hub (d : Nat) (f : Bcast → Bcast) : (s.updBc d f).hub = s.hub := rfl
@[simp] theorem State.updBc_prot (d : Nat) (f : Bcast → Bcast) : (s.updBc d f).prot = s.prot := rfl
@[simp] theorem State.updBc_sec (d : Nat) (f : Bcast → Bcast) : (s.updBc d f).sec = s.sec := rfl
@[simp] theorem State.updBc_host (d : Nat) (f : Bcast → Bcast) : (s.updBc d f).host = s.host := rfl
@[simp] theorem State.updBc_mgmt (d : Nat) (f : Bcast → Bcast) : (s.updBc d f).mgmt = s.mgmt := rfl
@[simp] theorem State.updBc_flash (d : Nat) (f : Bcast → Bcast) : (s.updBc d f).flash = s.flash := rfl
@[simp] theorem State.updBc_pins (d : Nat) (f : Bcast → Bcast) : (s.updBc d f).pins = s.pins := rfl
@[simp] theorem State.updBc_out (d : Nat) (f : Bcast → Bcast) : (s.updBc d f).out = s.out := rfl
@[simp] theorem State.updBc_free (d : Nat) (f : Bcast → Bcast) : (s.updBc d f).free = s.free := rfl
@[simp] theorem State.updBc_pending (d : Nat) (f : Bcast → Bcast) : (s.updBc d f).pending = s.pending := rfl

/-! updNode -/
@[simp] theorem State.updNode_ring (l : Loc) (f : Node → Node) : (s.updNode l f).ring = s.ring := rfl
@[simp] theorem State.updNode_ctx (l : Loc) (f : Node → Node) : (s.updNode l f).ctx = s.ctx := rfl
@[simp] theorem State.updNode_tally (l : Loc) (f : Node → Node) : (s.updNode l f).tally = s.tally := rfl
@[simp] theorem State.updNode_ledger (l : Loc) (f : Node → Node) : (s.updNode l f).ledger = s.ledger := rfl
@[simp] theorem State.updNode_cmp (l : Loc) (f : Node → Node) : (s.updNode l f).cmp = s.cmp := rfl
@[simp] theorem State.updNode_therm (l : Loc) (f : Node → Node) : (s.updNode l f).therm = s.therm := rfl
@[simp] theorem State.updNode_repair (l : Loc) (f : Node → Node) : (s.updNode l f).repair = s.repair := rfl
@[simp] theorem State.updNode_bcast (l : Loc) (f : Node → Node) : (s.updNode l f).bcast = s.bcast := rfl
@[simp] theorem State.updNode_stand (l : Loc) (f : Node → Node) : (s.updNode l f).stand = s.stand := rfl
@[simp] theorem State.updNode_mem (l : Loc) (f : Node → Node) : (s.updNode l f).mem = s.mem := rfl
@[simp] theorem State.updNode_ael (l : Loc) (f : Node → Node) : (s.updNode l f).ael = s.ael := rfl
@[simp] theorem State.updNode_weight (l : Loc) (f : Node → Node) : (s.updNode l f).weight = s.weight := rfl
@[simp] theorem State.updNode_notch (l : Loc) (f : Node → Node) : (s.updNode l f).notch = s.notch := rfl
@[simp] theorem State.updNode_queue (l : Loc) (f : Node → Node) : (s.updNode l f).queue = s.queue := rfl
@[simp] theorem State.updNode_hub (l : Loc) (f : Node → Node) : (s.updNode l f).hub = s.hub := rfl
@[simp] theorem State.updNode_prot (l : Loc) (f : Node → Node) : (s.updNode l f).prot = s.prot := rfl
@[simp] theorem State.updNode_sec (l : Loc) (f : Node → Node) : (s.updNode l f).sec = s.sec := rfl
@[simp] theorem State.updNode_host (l : Loc) (f : Node → Node) : (s.updNode l f).host = s.host := rfl
@[simp] theorem State.updNode_mgmt (l : Loc) (f : Node → Node) : (s.updNode l f).mgmt = s.mgmt := rfl
@[simp] theorem State.updNode_flash (l : Loc) (f : Node → Node) : (s.updNode l f).flash = s.flash := rfl
@[simp] theorem State.updNode_pins (l : Loc) (f : Node → Node) : (s.updNode l f).pins = s.pins := rfl
@[simp] theorem State.updNode_out (l : Loc) (f : Node → Node) : (s.updNode l f).out = s.out := rfl
@[simp] theorem State.updNode_free (l : Loc) (f : Node → Node) : (s.updNode l f).free = s.free := rfl
@[simp] theorem State.updNode_pending (l : Loc) (f : Node → Node) : (s.updNode l f).pending = s.pending := rfl

/-! updBridge -/
@[simp] theorem State.updBridge_ring (d : Nat) (f : BridgeDom → BridgeDom) : (s.updBridge d f).ring = s.ring := rfl
@[simp] theorem State.updBridge_ctx (d : Nat) (f : BridgeDom → BridgeDom) : (s.updBridge d f).ctx = s.ctx := rfl
@[simp] theorem State.updBridge_tally (d : Nat) (f : BridgeDom → BridgeDom) : (s.updBridge d f).tally = s.tally := rfl
@[simp] theorem State.updBridge_ledger (d : Nat) (f : BridgeDom → BridgeDom) : (s.updBridge d f).ledger = s.ledger := rfl
@[simp] theorem State.updBridge_cmp (d : Nat) (f : BridgeDom → BridgeDom) : (s.updBridge d f).cmp = s.cmp := rfl
@[simp] theorem State.updBridge_therm (d : Nat) (f : BridgeDom → BridgeDom) : (s.updBridge d f).therm = s.therm := rfl
@[simp] theorem State.updBridge_repair (d : Nat) (f : BridgeDom → BridgeDom) : (s.updBridge d f).repair = s.repair := rfl
@[simp] theorem State.updBridge_bcast (d : Nat) (f : BridgeDom → BridgeDom) : (s.updBridge d f).bcast = s.bcast := rfl
@[simp] theorem State.updBridge_stand (d : Nat) (f : BridgeDom → BridgeDom) : (s.updBridge d f).stand = s.stand := rfl
@[simp] theorem State.updBridge_mem (d : Nat) (f : BridgeDom → BridgeDom) : (s.updBridge d f).mem = s.mem := rfl
@[simp] theorem State.updBridge_ael (d : Nat) (f : BridgeDom → BridgeDom) : (s.updBridge d f).ael = s.ael := rfl
@[simp] theorem State.updBridge_weight (d : Nat) (f : BridgeDom → BridgeDom) : (s.updBridge d f).weight = s.weight := rfl
@[simp] theorem State.updBridge_notch (d : Nat) (f : BridgeDom → BridgeDom) : (s.updBridge d f).notch = s.notch := rfl
@[simp] theorem State.updBridge_queue (d : Nat) (f : BridgeDom → BridgeDom) : (s.updBridge d f).queue = s.queue := rfl
@[simp] theorem State.updBridge_hub (d : Nat) (f : BridgeDom → BridgeDom) : (s.updBridge d f).hub = s.hub := rfl
@[simp] theorem State.updBridge_prot (d : Nat) (f : BridgeDom → BridgeDom) : (s.updBridge d f).prot = s.prot := rfl
@[simp] theorem State.updBridge_sec (d : Nat) (f : BridgeDom → BridgeDom) : (s.updBridge d f).sec = s.sec := rfl
@[simp] theorem State.updBridge_host (d : Nat) (f : BridgeDom → BridgeDom) : (s.updBridge d f).host = s.host := rfl
@[simp] theorem State.updBridge_mgmt (d : Nat) (f : BridgeDom → BridgeDom) : (s.updBridge d f).mgmt = s.mgmt := rfl
@[simp] theorem State.updBridge_flash (d : Nat) (f : BridgeDom → BridgeDom) : (s.updBridge d f).flash = s.flash := rfl
@[simp] theorem State.updBridge_pins (d : Nat) (f : BridgeDom → BridgeDom) : (s.updBridge d f).pins = s.pins := rfl
@[simp] theorem State.updBridge_out (d : Nat) (f : BridgeDom → BridgeDom) : (s.updBridge d f).out = s.out := rfl
@[simp] theorem State.updBridge_free (d : Nat) (f : BridgeDom → BridgeDom) : (s.updBridge d f).free = s.free := rfl
@[simp] theorem State.updBridge_pending (d : Nat) (f : BridgeDom → BridgeDom) : (s.updBridge d f).pending = s.pending := rfl

/-! updMemDom -/
@[simp] theorem State.getMemDom_updMemDom (d : Nat) (f : MemDom → MemDom) : (s.updMemDom d f).getMemDom d = f (s.getMemDom d) := tget_tupd_self _ _ _ _
theorem State.getMemDom_updMemDom_ne {j : Nat} (d : Nat) (f : MemDom → MemDom) (h : d ≠ j) : (s.updMemDom d f).getMemDom j = s.getMemDom j := tget_tupd_ne _ _ _ h
@[simp] theorem State.updMemDom_ring (d : Nat) (f : MemDom → MemDom) : (s.updMemDom d f).ring = s.ring := rfl
@[simp] theorem State.updMemDom_ctx (d : Nat) (f : MemDom → MemDom) : (s.updMemDom d f).ctx = s.ctx := rfl
@[simp] theorem State.updMemDom_tally (d : Nat) (f : MemDom → MemDom) : (s.updMemDom d f).tally = s.tally := rfl
@[simp] theorem State.updMemDom_ledger (d : Nat) (f : MemDom → MemDom) : (s.updMemDom d f).ledger = s.ledger := rfl
@[simp] theorem State.updMemDom_cmp (d : Nat) (f : MemDom → MemDom) : (s.updMemDom d f).cmp = s.cmp := rfl
@[simp] theorem State.updMemDom_therm (d : Nat) (f : MemDom → MemDom) : (s.updMemDom d f).therm = s.therm := rfl
@[simp] theorem State.updMemDom_repair (d : Nat) (f : MemDom → MemDom) : (s.updMemDom d f).repair = s.repair := rfl
@[simp] theorem State.updMemDom_bcast (d : Nat) (f : MemDom → MemDom) : (s.updMemDom d f).bcast = s.bcast := rfl
@[simp] theorem State.updMemDom_stand (d : Nat) (f : MemDom → MemDom) : (s.updMemDom d f).stand = s.stand := rfl
@[simp] theorem State.updMemDom_net (d : Nat) (f : MemDom → MemDom) : (s.updMemDom d f).net = s.net := rfl
@[simp] theorem State.updMemDom_ael (d : Nat) (f : MemDom → MemDom) : (s.updMemDom d f).ael = s.ael := rfl
@[simp] theorem State.updMemDom_weight (d : Nat) (f : MemDom → MemDom) : (s.updMemDom d f).weight = s.weight := rfl
@[simp] theorem State.updMemDom_notch (d : Nat) (f : MemDom → MemDom) : (s.updMemDom d f).notch = s.notch := rfl
@[simp] theorem State.updMemDom_queue (d : Nat) (f : MemDom → MemDom) : (s.updMemDom d f).queue = s.queue := rfl
@[simp] theorem State.updMemDom_hub (d : Nat) (f : MemDom → MemDom) : (s.updMemDom d f).hub = s.hub := rfl
@[simp] theorem State.updMemDom_prot (d : Nat) (f : MemDom → MemDom) : (s.updMemDom d f).prot = s.prot := rfl
@[simp] theorem State.updMemDom_sec (d : Nat) (f : MemDom → MemDom) : (s.updMemDom d f).sec = s.sec := rfl
@[simp] theorem State.updMemDom_host (d : Nat) (f : MemDom → MemDom) : (s.updMemDom d f).host = s.host := rfl
@[simp] theorem State.updMemDom_mgmt (d : Nat) (f : MemDom → MemDom) : (s.updMemDom d f).mgmt = s.mgmt := rfl
@[simp] theorem State.updMemDom_flash (d : Nat) (f : MemDom → MemDom) : (s.updMemDom d f).flash = s.flash := rfl
@[simp] theorem State.updMemDom_pins (d : Nat) (f : MemDom → MemDom) : (s.updMemDom d f).pins = s.pins := rfl
@[simp] theorem State.updMemDom_out (d : Nat) (f : MemDom → MemDom) : (s.updMemDom d f).out = s.out := rfl
@[simp] theorem State.updMemDom_free (d : Nat) (f : MemDom → MemDom) : (s.updMemDom d f).free = s.free := rfl
@[simp] theorem State.updMemDom_pending (d : Nat) (f : MemDom → MemDom) : (s.updMemDom d f).pending = s.pending := rfl

/-! updUnit -/
@[simp] theorem State.getUnit_updUnit (u : Nat) (f : MemUnit → MemUnit) : (s.updUnit u f).getUnit u = f (s.getUnit u) := tget_tupd_self _ _ _ _
theorem State.getUnit_updUnit_ne {j : Nat} (u : Nat) (f : MemUnit → MemUnit) (h : u ≠ j) : (s.updUnit u f).getUnit j = s.getUnit j := tget_tupd_ne _ _ _ h
@[simp] theorem State.updUnit_ring (u : Nat) (f : MemUnit → MemUnit) : (s.updUnit u f).ring = s.ring := rfl
@[simp] theorem State.updUnit_ctx (u : Nat) (f : MemUnit → MemUnit) : (s.updUnit u f).ctx = s.ctx := rfl
@[simp] theorem State.updUnit_tally (u : Nat) (f : MemUnit → MemUnit) : (s.updUnit u f).tally = s.tally := rfl
@[simp] theorem State.updUnit_ledger (u : Nat) (f : MemUnit → MemUnit) : (s.updUnit u f).ledger = s.ledger := rfl
@[simp] theorem State.updUnit_cmp (u : Nat) (f : MemUnit → MemUnit) : (s.updUnit u f).cmp = s.cmp := rfl
@[simp] theorem State.updUnit_therm (u : Nat) (f : MemUnit → MemUnit) : (s.updUnit u f).therm = s.therm := rfl
@[simp] theorem State.updUnit_repair (u : Nat) (f : MemUnit → MemUnit) : (s.updUnit u f).repair = s.repair := rfl
@[simp] theorem State.updUnit_bcast (u : Nat) (f : MemUnit → MemUnit) : (s.updUnit u f).bcast = s.bcast := rfl
@[simp] theorem State.updUnit_stand (u : Nat) (f : MemUnit → MemUnit) : (s.updUnit u f).stand = s.stand := rfl
@[simp] theorem State.updUnit_net (u : Nat) (f : MemUnit → MemUnit) : (s.updUnit u f).net = s.net := rfl
@[simp] theorem State.updUnit_ael (u : Nat) (f : MemUnit → MemUnit) : (s.updUnit u f).ael = s.ael := rfl
@[simp] theorem State.updUnit_weight (u : Nat) (f : MemUnit → MemUnit) : (s.updUnit u f).weight = s.weight := rfl
@[simp] theorem State.updUnit_notch (u : Nat) (f : MemUnit → MemUnit) : (s.updUnit u f).notch = s.notch := rfl
@[simp] theorem State.updUnit_queue (u : Nat) (f : MemUnit → MemUnit) : (s.updUnit u f).queue = s.queue := rfl
@[simp] theorem State.updUnit_hub (u : Nat) (f : MemUnit → MemUnit) : (s.updUnit u f).hub = s.hub := rfl
@[simp] theorem State.updUnit_prot (u : Nat) (f : MemUnit → MemUnit) : (s.updUnit u f).prot = s.prot := rfl
@[simp] theorem State.updUnit_sec (u : Nat) (f : MemUnit → MemUnit) : (s.updUnit u f).sec = s.sec := rfl
@[simp] theorem State.updUnit_host (u : Nat) (f : MemUnit → MemUnit) : (s.updUnit u f).host = s.host := rfl
@[simp] theorem State.updUnit_mgmt (u : Nat) (f : MemUnit → MemUnit) : (s.updUnit u f).mgmt = s.mgmt := rfl
@[simp] theorem State.updUnit_flash (u : Nat) (f : MemUnit → MemUnit) : (s.updUnit u f).flash = s.flash := rfl
@[simp] theorem State.updUnit_pins (u : Nat) (f : MemUnit → MemUnit) : (s.updUnit u f).pins = s.pins := rfl
@[simp] theorem State.updUnit_out (u : Nat) (f : MemUnit → MemUnit) : (s.updUnit u f).out = s.out := rfl
@[simp] theorem State.updUnit_free (u : Nat) (f : MemUnit → MemUnit) : (s.updUnit u f).free = s.free := rfl
@[simp] theorem State.updUnit_pending (u : Nat) (f : MemUnit → MemUnit) : (s.updUnit u f).pending = s.pending := rfl

/-! updPort -/
@[simp] theorem State.getPort_updPort (p : Nat) (f : CtrlPort → CtrlPort) : (s.updPort p f).getPort p = f (s.getPort p) := tget_tupd_self _ _ _ _
theorem State.getPort_updPort_ne {j : Nat} (p : Nat) (f : CtrlPort → CtrlPort) (h : p ≠ j) : (s.updPort p f).getPort j = s.getPort j := tget_tupd_ne _ _ _ h
@[simp] theorem State.updPort_ring (p : Nat) (f : CtrlPort → CtrlPort) : (s.updPort p f).ring = s.ring := rfl
@[simp] theorem State.updPort_ctx (p : Nat) (f : CtrlPort → CtrlPort) : (s.updPort p f).ctx = s.ctx := rfl
@[simp] theorem State.updPort_tally (p : Nat) (f : CtrlPort → CtrlPort) : (s.updPort p f).tally = s.tally := rfl
@[simp] theorem State.updPort_ledger (p : Nat) (f : CtrlPort → CtrlPort) : (s.updPort p f).ledger = s.ledger := rfl
@[simp] theorem State.updPort_cmp (p : Nat) (f : CtrlPort → CtrlPort) : (s.updPort p f).cmp = s.cmp := rfl
@[simp] theorem State.updPort_therm (p : Nat) (f : CtrlPort → CtrlPort) : (s.updPort p f).therm = s.therm := rfl
@[simp] theorem State.updPort_repair (p : Nat) (f : CtrlPort → CtrlPort) : (s.updPort p f).repair = s.repair := rfl
@[simp] theorem State.updPort_bcast (p : Nat) (f : CtrlPort → CtrlPort) : (s.updPort p f).bcast = s.bcast := rfl
@[simp] theorem State.updPort_stand (p : Nat) (f : CtrlPort → CtrlPort) : (s.updPort p f).stand = s.stand := rfl
@[simp] theorem State.updPort_net (p : Nat) (f : CtrlPort → CtrlPort) : (s.updPort p f).net = s.net := rfl
@[simp] theorem State.updPort_ael (p : Nat) (f : CtrlPort → CtrlPort) : (s.updPort p f).ael = s.ael := rfl
@[simp] theorem State.updPort_weight (p : Nat) (f : CtrlPort → CtrlPort) : (s.updPort p f).weight = s.weight := rfl
@[simp] theorem State.updPort_notch (p : Nat) (f : CtrlPort → CtrlPort) : (s.updPort p f).notch = s.notch := rfl
@[simp] theorem State.updPort_queue (p : Nat) (f : CtrlPort → CtrlPort) : (s.updPort p f).queue = s.queue := rfl
@[simp] theorem State.updPort_hub (p : Nat) (f : CtrlPort → CtrlPort) : (s.updPort p f).hub = s.hub := rfl
@[simp] theorem State.updPort_prot (p : Nat) (f : CtrlPort → CtrlPort) : (s.updPort p f).prot = s.prot := rfl
@[simp] theorem State.updPort_sec (p : Nat) (f : CtrlPort → CtrlPort) : (s.updPort p f).sec = s.sec := rfl
@[simp] theorem State.updPort_host (p : Nat) (f : CtrlPort → CtrlPort) : (s.updPort p f).host = s.host := rfl
@[simp] theorem State.updPort_mgmt (p : Nat) (f : CtrlPort → CtrlPort) : (s.updPort p f).mgmt = s.mgmt := rfl
@[simp] theorem State.updPort_flash (p : Nat) (f : CtrlPort → CtrlPort) : (s.updPort p f).flash = s.flash := rfl
@[simp] theorem State.updPort_pins (p : Nat) (f : CtrlPort → CtrlPort) : (s.updPort p f).pins = s.pins := rfl
@[simp] theorem State.updPort_out (p : Nat) (f : CtrlPort → CtrlPort) : (s.updPort p f).out = s.out := rfl
@[simp] theorem State.updPort_free (p : Nat) (f : CtrlPort → CtrlPort) : (s.updPort p f).free = s.free := rfl
@[simp] theorem State.updPort_pending (p : Nat) (f : CtrlPort → CtrlPort) : (s.updPort p f).pending = s.pending := rfl

/-! updAelSt -/
@[simp] theorem State.updAelSt_ael (f : AelSt → AelSt) : (s.updAelSt f).ael = f s.ael := rfl
@[simp] theorem State.updAelSt_ring (f : AelSt → AelSt) : (s.updAelSt f).ring = s.ring := rfl
@[simp] theorem State.updAelSt_ctx (f : AelSt → AelSt) : (s.updAelSt f).ctx = s.ctx := rfl
@[simp] theorem State.updAelSt_tally (f : AelSt → AelSt) : (s.updAelSt f).tally = s.tally := rfl
@[simp] theorem State.updAelSt_ledger (f : AelSt → AelSt) : (s.updAelSt f).ledger = s.ledger := rfl
@[simp] theorem State.updAelSt_cmp (f : AelSt → AelSt) : (s.updAelSt f).cmp = s.cmp := rfl
@[simp] theorem State.updAelSt_therm (f : AelSt → AelSt) : (s.updAelSt f).therm = s.therm := rfl
@[simp] theorem State.updAelSt_repair (f : AelSt → AelSt) : (s.updAelSt f).repair = s.repair := rfl
@[simp] theorem State.updAelSt_bcast (f : AelSt → AelSt) : (s.updAelSt f).bcast = s.bcast := rfl
@[simp] theorem State.updAelSt_stand (f : AelSt → AelSt) : (s.updAelSt f).stand = s.stand := rfl
@[simp] theorem State.updAelSt_net (f : AelSt → AelSt) : (s.updAelSt f).net = s.net := rfl
@[simp] theorem State.updAelSt_mem (f : AelSt → AelSt) : (s.updAelSt f).mem = s.mem := rfl
@[simp] theorem State.updAelSt_weight (f : AelSt → AelSt) : (s.updAelSt f).weight = s.weight := rfl
@[simp] theorem State.updAelSt_notch (f : AelSt → AelSt) : (s.updAelSt f).notch = s.notch := rfl
@[simp] theorem State.updAelSt_queue (f : AelSt → AelSt) : (s.updAelSt f).queue = s.queue := rfl
@[simp] theorem State.updAelSt_hub (f : AelSt → AelSt) : (s.updAelSt f).hub = s.hub := rfl
@[simp] theorem State.updAelSt_prot (f : AelSt → AelSt) : (s.updAelSt f).prot = s.prot := rfl
@[simp] theorem State.updAelSt_sec (f : AelSt → AelSt) : (s.updAelSt f).sec = s.sec := rfl
@[simp] theorem State.updAelSt_host (f : AelSt → AelSt) : (s.updAelSt f).host = s.host := rfl
@[simp] theorem State.updAelSt_mgmt (f : AelSt → AelSt) : (s.updAelSt f).mgmt = s.mgmt := rfl
@[simp] theorem State.updAelSt_flash (f : AelSt → AelSt) : (s.updAelSt f).flash = s.flash := rfl
@[simp] theorem State.updAelSt_pins (f : AelSt → AelSt) : (s.updAelSt f).pins = s.pins := rfl
@[simp] theorem State.updAelSt_out (f : AelSt → AelSt) : (s.updAelSt f).out = s.out := rfl
@[simp] theorem State.updAelSt_free (f : AelSt → AelSt) : (s.updAelSt f).free = s.free := rfl
@[simp] theorem State.updAelSt_pending (f : AelSt → AelSt) : (s.updAelSt f).pending = s.pending := rfl

/-! updAel -/
@[simp] theorem State.getAel_updAel (p : Nat) (f : AelPort → AelPort) : (s.updAel p f).getAel p = f (s.getAel p) := tget_tupd_self _ _ _ _
theorem State.getAel_updAel_ne {j : Nat} (p : Nat) (f : AelPort → AelPort) (h : p ≠ j) : (s.updAel p f).getAel j = s.getAel j := tget_tupd_ne _ _ _ h
@[simp] theorem State.updAel_ring (p : Nat) (f : AelPort → AelPort) : (s.updAel p f).ring = s.ring := rfl
@[simp] theorem State.updAel_ctx (p : Nat) (f : AelPort → AelPort) : (s.updAel p f).ctx = s.ctx := rfl
@[simp] theorem State.updAel_tally (p : Nat) (f : AelPort → AelPort) : (s.updAel p f).tally = s.tally := rfl
@[simp] theorem State.updAel_ledger (p : Nat) (f : AelPort → AelPort) : (s.updAel p f).ledger = s.ledger := rfl
@[simp] theorem State.updAel_cmp (p : Nat) (f : AelPort → AelPort) : (s.updAel p f).cmp = s.cmp := rfl
@[simp] theorem State.updAel_therm (p : Nat) (f : AelPort → AelPort) : (s.updAel p f).therm = s.therm := rfl
@[simp] theorem State.updAel_repair (p : Nat) (f : AelPort → AelPort) : (s.updAel p f).repair = s.repair := rfl
@[simp] theorem State.updAel_bcast (p : Nat) (f : AelPort → AelPort) : (s.updAel p f).bcast = s.bcast := rfl
@[simp] theorem State.updAel_stand (p : Nat) (f : AelPort → AelPort) : (s.updAel p f).stand = s.stand := rfl
@[simp] theorem State.updAel_net (p : Nat) (f : AelPort → AelPort) : (s.updAel p f).net = s.net := rfl
@[simp] theorem State.updAel_mem (p : Nat) (f : AelPort → AelPort) : (s.updAel p f).mem = s.mem := rfl
@[simp] theorem State.updAel_weight (p : Nat) (f : AelPort → AelPort) : (s.updAel p f).weight = s.weight := rfl
@[simp] theorem State.updAel_notch (p : Nat) (f : AelPort → AelPort) : (s.updAel p f).notch = s.notch := rfl
@[simp] theorem State.updAel_queue (p : Nat) (f : AelPort → AelPort) : (s.updAel p f).queue = s.queue := rfl
@[simp] theorem State.updAel_hub (p : Nat) (f : AelPort → AelPort) : (s.updAel p f).hub = s.hub := rfl
@[simp] theorem State.updAel_prot (p : Nat) (f : AelPort → AelPort) : (s.updAel p f).prot = s.prot := rfl
@[simp] theorem State.updAel_sec (p : Nat) (f : AelPort → AelPort) : (s.updAel p f).sec = s.sec := rfl
@[simp] theorem State.updAel_host (p : Nat) (f : AelPort → AelPort) : (s.updAel p f).host = s.host := rfl
@[simp] theorem State.updAel_mgmt (p : Nat) (f : AelPort → AelPort) : (s.updAel p f).mgmt = s.mgmt := rfl
@[simp] theorem State.updAel_flash (p : Nat) (f : AelPort → AelPort) : (s.updAel p f).flash = s.flash := rfl
@[simp] theorem State.updAel_pins (p : Nat) (f : AelPort → AelPort) : (s.updAel p f).pins = s.pins := rfl
@[simp] theorem State.updAel_out (p : Nat) (f : AelPort → AelPort) : (s.updAel p f).out = s.out := rfl
@[simp] theorem State.updAel_free (p : Nat) (f : AelPort → AelPort) : (s.updAel p f).free = s.free := rfl
@[simp] theorem State.updAel_pending (p : Nat) (f : AelPort → AelPort) : (s.updAel p f).pending = s.pending := rfl

/-! updSet -/
@[simp] theorem State.getSet_updSet (i : Nat) (f : SetEnt → SetEnt) : (s.updSet i f).getSet i = f (s.getSet i) := tget_tupd_self _ _ _ _
theorem State.getSet_updSet_ne {j : Nat} (i : Nat) (f : SetEnt → SetEnt) (h : i ≠ j) : (s.updSet i f).getSet j = s.getSet j := tget_tupd_ne _ _ _ h
@[simp] theorem State.updSet_ring (i : Nat) (f : SetEnt → SetEnt) : (s.updSet i f).ring = s.ring := rfl
@[simp] theorem State.updSet_ctx (i : Nat) (f : SetEnt → SetEnt) : (s.updSet i f).ctx = s.ctx := rfl
@[simp] theorem State.updSet_tally (i : Nat) (f : SetEnt → SetEnt) : (s.updSet i f).tally = s.tally := rfl
@[simp] theorem State.updSet_ledger (i : Nat) (f : SetEnt → SetEnt) : (s.updSet i f).ledger = s.ledger := rfl
@[simp] theorem State.updSet_cmp (i : Nat) (f : SetEnt → SetEnt) : (s.updSet i f).cmp = s.cmp := rfl
@[simp] theorem State.updSet_therm (i : Nat) (f : SetEnt → SetEnt) : (s.updSet i f).therm = s.therm := rfl
@[simp] theorem State.updSet_repair (i : Nat) (f : SetEnt → SetEnt) : (s.updSet i f).repair = s.repair := rfl
@[simp] theorem State.updSet_bcast (i : Nat) (f : SetEnt → SetEnt) : (s.updSet i f).bcast = s.bcast := rfl
@[simp] theorem State.updSet_stand (i : Nat) (f : SetEnt → SetEnt) : (s.updSet i f).stand = s.stand := rfl
@[simp] theorem State.updSet_net (i : Nat) (f : SetEnt → SetEnt) : (s.updSet i f).net = s.net := rfl
@[simp] theorem State.updSet_mem (i : Nat) (f : SetEnt → SetEnt) : (s.updSet i f).mem = s.mem := rfl
@[simp] theorem State.updSet_ael (i : Nat) (f : SetEnt → SetEnt) : (s.updSet i f).ael = s.ael := rfl
@[simp] theorem State.updSet_notch (i : Nat) (f : SetEnt → SetEnt) : (s.updSet i f).notch = s.notch := rfl
@[simp] theorem State.updSet_queue (i : Nat) (f : SetEnt → SetEnt) : (s.updSet i f).queue = s.queue := rfl
@[simp] theorem State.updSet_hub (i : Nat) (f : SetEnt → SetEnt) : (s.updSet i f).hub = s.hub := rfl
@[simp] theorem State.updSet_prot (i : Nat) (f : SetEnt → SetEnt) : (s.updSet i f).prot = s.prot := rfl
@[simp] theorem State.updSet_sec (i : Nat) (f : SetEnt → SetEnt) : (s.updSet i f).sec = s.sec := rfl
@[simp] theorem State.updSet_host (i : Nat) (f : SetEnt → SetEnt) : (s.updSet i f).host = s.host := rfl
@[simp] theorem State.updSet_mgmt (i : Nat) (f : SetEnt → SetEnt) : (s.updSet i f).mgmt = s.mgmt := rfl
@[simp] theorem State.updSet_flash (i : Nat) (f : SetEnt → SetEnt) : (s.updSet i f).flash = s.flash := rfl
@[simp] theorem State.updSet_pins (i : Nat) (f : SetEnt → SetEnt) : (s.updSet i f).pins = s.pins := rfl
@[simp] theorem State.updSet_out (i : Nat) (f : SetEnt → SetEnt) : (s.updSet i f).out = s.out := rfl
@[simp] theorem State.updSet_free (i : Nat) (f : SetEnt → SetEnt) : (s.updSet i f).free = s.free := rfl
@[simp] theorem State.updSet_pending (i : Nat) (f : SetEnt → SetEnt) : (s.updSet i f).pending = s.pending := rfl

/-! updBuck -/
@[simp] theorem State.getBuck_updBuck (d : Nat) (f : BuckLd → BuckLd) : (s.updBuck d f).getBuck d = f (s.getBuck d) := tget_tupd_self _ _ _ _
theorem State.getBuck_updBuck_ne {j : Nat} (d : Nat) (f : BuckLd → BuckLd) (h : d ≠ j) : (s.updBuck d f).getBuck j = s.getBuck j := tget_tupd_ne _ _ _ h
@[simp] theorem State.updBuck_ring (d : Nat) (f : BuckLd → BuckLd) : (s.updBuck d f).ring = s.ring := rfl
@[simp] theorem State.updBuck_ctx (d : Nat) (f : BuckLd → BuckLd) : (s.updBuck d f).ctx = s.ctx := rfl
@[simp] theorem State.updBuck_tally (d : Nat) (f : BuckLd → BuckLd) : (s.updBuck d f).tally = s.tally := rfl
@[simp] theorem State.updBuck_ledger (d : Nat) (f : BuckLd → BuckLd) : (s.updBuck d f).ledger = s.ledger := rfl
@[simp] theorem State.updBuck_cmp (d : Nat) (f : BuckLd → BuckLd) : (s.updBuck d f).cmp = s.cmp := rfl
@[simp] theorem State.updBuck_therm (d : Nat) (f : BuckLd → BuckLd) : (s.updBuck d f).therm = s.therm := rfl
@[simp] theorem State.updBuck_repair (d : Nat) (f : BuckLd → BuckLd) : (s.updBuck d f).repair = s.repair := rfl
@[simp] theorem State.updBuck_bcast (d : Nat) (f : BuckLd → BuckLd) : (s.updBuck d f).bcast = s.bcast := rfl
@[simp] theorem State.updBuck_stand (d : Nat) (f : BuckLd → BuckLd) : (s.updBuck d f).stand = s.stand := rfl
@[simp] theorem State.updBuck_net (d : Nat) (f : BuckLd → BuckLd) : (s.updBuck d f).net = s.net := rfl
@[simp] theorem State.updBuck_mem (d : Nat) (f : BuckLd → BuckLd) : (s.updBuck d f).mem = s.mem := rfl
@[simp] theorem State.updBuck_ael (d : Nat) (f : BuckLd → BuckLd) : (s.updBuck d f).ael = s.ael := rfl
@[simp] theorem State.updBuck_notch (d : Nat) (f : BuckLd → BuckLd) : (s.updBuck d f).notch = s.notch := rfl
@[simp] theorem State.updBuck_queue (d : Nat) (f : BuckLd → BuckLd) : (s.updBuck d f).queue = s.queue := rfl
@[simp] theorem State.updBuck_hub (d : Nat) (f : BuckLd → BuckLd) : (s.updBuck d f).hub = s.hub := rfl
@[simp] theorem State.updBuck_prot (d : Nat) (f : BuckLd → BuckLd) : (s.updBuck d f).prot = s.prot := rfl
@[simp] theorem State.updBuck_sec (d : Nat) (f : BuckLd → BuckLd) : (s.updBuck d f).sec = s.sec := rfl
@[simp] theorem State.updBuck_host (d : Nat) (f : BuckLd → BuckLd) : (s.updBuck d f).host = s.host := rfl
@[simp] theorem State.updBuck_mgmt (d : Nat) (f : BuckLd → BuckLd) : (s.updBuck d f).mgmt = s.mgmt := rfl
@[simp] theorem State.updBuck_flash (d : Nat) (f : BuckLd → BuckLd) : (s.updBuck d f).flash = s.flash := rfl
@[simp] theorem State.updBuck_pins (d : Nat) (f : BuckLd → BuckLd) : (s.updBuck d f).pins = s.pins := rfl
@[simp] theorem State.updBuck_out (d : Nat) (f : BuckLd → BuckLd) : (s.updBuck d f).out = s.out := rfl
@[simp] theorem State.updBuck_free (d : Nat) (f : BuckLd → BuckLd) : (s.updBuck d f).free = s.free := rfl
@[simp] theorem State.updBuck_pending (d : Nat) (f : BuckLd → BuckLd) : (s.updBuck d f).pending = s.pending := rfl

/-! updNotchDom -/
@[simp] theorem State.updNotchDom_ring (d : Nat) (f : NotchDom → NotchDom) : (s.updNotchDom d f).ring = s.ring := rfl
@[simp] theorem State.updNotchDom_ctx (d : Nat) (f : NotchDom → NotchDom) : (s.updNotchDom d f).ctx = s.ctx := rfl
@[simp] theorem State.updNotchDom_tally (d : Nat) (f : NotchDom → NotchDom) : (s.updNotchDom d f).tally = s.tally := rfl
@[simp] theorem State.updNotchDom_ledger (d : Nat) (f : NotchDom → NotchDom) : (s.updNotchDom d f).ledger = s.ledger := rfl
@[simp] theorem State.updNotchDom_cmp (d : Nat) (f : NotchDom → NotchDom) : (s.updNotchDom d f).cmp = s.cmp := rfl
@[simp] theorem State.updNotchDom_therm (d : Nat) (f : NotchDom → NotchDom) : (s.updNotchDom d f).therm = s.therm := rfl
@[simp] theorem State.updNotchDom_repair (d : Nat) (f : NotchDom → NotchDom) : (s.updNotchDom d f).repair = s.repair := rfl
@[simp] theorem State.updNotchDom_bcast (d : Nat) (f : NotchDom → NotchDom) : (s.updNotchDom d f).bcast = s.bcast := rfl
@[simp] theorem State.updNotchDom_stand (d : Nat) (f : NotchDom → NotchDom) : (s.updNotchDom d f).stand = s.stand := rfl
@[simp] theorem State.updNotchDom_net (d : Nat) (f : NotchDom → NotchDom) : (s.updNotchDom d f).net = s.net := rfl
@[simp] theorem State.updNotchDom_mem (d : Nat) (f : NotchDom → NotchDom) : (s.updNotchDom d f).mem = s.mem := rfl
@[simp] theorem State.updNotchDom_ael (d : Nat) (f : NotchDom → NotchDom) : (s.updNotchDom d f).ael = s.ael := rfl
@[simp] theorem State.updNotchDom_weight (d : Nat) (f : NotchDom → NotchDom) : (s.updNotchDom d f).weight = s.weight := rfl
@[simp] theorem State.updNotchDom_queue (d : Nat) (f : NotchDom → NotchDom) : (s.updNotchDom d f).queue = s.queue := rfl
@[simp] theorem State.updNotchDom_hub (d : Nat) (f : NotchDom → NotchDom) : (s.updNotchDom d f).hub = s.hub := rfl
@[simp] theorem State.updNotchDom_prot (d : Nat) (f : NotchDom → NotchDom) : (s.updNotchDom d f).prot = s.prot := rfl
@[simp] theorem State.updNotchDom_sec (d : Nat) (f : NotchDom → NotchDom) : (s.updNotchDom d f).sec = s.sec := rfl
@[simp] theorem State.updNotchDom_host (d : Nat) (f : NotchDom → NotchDom) : (s.updNotchDom d f).host = s.host := rfl
@[simp] theorem State.updNotchDom_mgmt (d : Nat) (f : NotchDom → NotchDom) : (s.updNotchDom d f).mgmt = s.mgmt := rfl
@[simp] theorem State.updNotchDom_flash (d : Nat) (f : NotchDom → NotchDom) : (s.updNotchDom d f).flash = s.flash := rfl
@[simp] theorem State.updNotchDom_pins (d : Nat) (f : NotchDom → NotchDom) : (s.updNotchDom d f).pins = s.pins := rfl
@[simp] theorem State.updNotchDom_out (d : Nat) (f : NotchDom → NotchDom) : (s.updNotchDom d f).out = s.out := rfl
@[simp] theorem State.updNotchDom_free (d : Nat) (f : NotchDom → NotchDom) : (s.updNotchDom d f).free = s.free := rfl
@[simp] theorem State.updNotchDom_pending (d : Nat) (f : NotchDom → NotchDom) : (s.updNotchDom d f).pending = s.pending := rfl

/-! updQueue -/
@[simp] theorem State.getQueue_updQueue (q : Nat) (f : Queue → Queue) : (s.updQueue q f).getQueue q = f (s.getQueue q) := tget_tupd_self _ _ _ _
theorem State.getQueue_updQueue_ne {j : Nat} (q : Nat) (f : Queue → Queue) (h : q ≠ j) : (s.updQueue q f).getQueue j = s.getQueue j := tget_tupd_ne _ _ _ h
@[simp] theorem State.updQueue_ring (q : Nat) (f : Queue → Queue) : (s.updQueue q f).ring = s.ring := rfl
@[simp] theorem State.updQueue_ctx (q : Nat) (f : Queue → Queue) : (s.updQueue q f).ctx = s.ctx := rfl
@[simp] theorem State.updQueue_tally (q : Nat) (f : Queue → Queue) : (s.updQueue q f).tally = s.tally := rfl
@[simp] theorem State.updQueue_ledger (q : Nat) (f : Queue → Queue) : (s.updQueue q f).ledger = s.ledger := rfl
@[simp] theorem State.updQueue_cmp (q : Nat) (f : Queue → Queue) : (s.updQueue q f).cmp = s.cmp := rfl
@[simp] theorem State.updQueue_therm (q : Nat) (f : Queue → Queue) : (s.updQueue q f).therm = s.therm := rfl
@[simp] theorem State.updQueue_repair (q : Nat) (f : Queue → Queue) : (s.updQueue q f).repair = s.repair := rfl
@[simp] theorem State.updQueue_bcast (q : Nat) (f : Queue → Queue) : (s.updQueue q f).bcast = s.bcast := rfl
@[simp] theorem State.updQueue_stand (q : Nat) (f : Queue → Queue) : (s.updQueue q f).stand = s.stand := rfl
@[simp] theorem State.updQueue_net (q : Nat) (f : Queue → Queue) : (s.updQueue q f).net = s.net := rfl
@[simp] theorem State.updQueue_mem (q : Nat) (f : Queue → Queue) : (s.updQueue q f).mem = s.mem := rfl
@[simp] theorem State.updQueue_ael (q : Nat) (f : Queue → Queue) : (s.updQueue q f).ael = s.ael := rfl
@[simp] theorem State.updQueue_weight (q : Nat) (f : Queue → Queue) : (s.updQueue q f).weight = s.weight := rfl
@[simp] theorem State.updQueue_notch (q : Nat) (f : Queue → Queue) : (s.updQueue q f).notch = s.notch := rfl
@[simp] theorem State.updQueue_hub (q : Nat) (f : Queue → Queue) : (s.updQueue q f).hub = s.hub := rfl
@[simp] theorem State.updQueue_prot (q : Nat) (f : Queue → Queue) : (s.updQueue q f).prot = s.prot := rfl
@[simp] theorem State.updQueue_sec (q : Nat) (f : Queue → Queue) : (s.updQueue q f).sec = s.sec := rfl
@[simp] theorem State.updQueue_host (q : Nat) (f : Queue → Queue) : (s.updQueue q f).host = s.host := rfl
@[simp] theorem State.updQueue_mgmt (q : Nat) (f : Queue → Queue) : (s.updQueue q f).mgmt = s.mgmt := rfl
@[simp] theorem State.updQueue_flash (q : Nat) (f : Queue → Queue) : (s.updQueue q f).flash = s.flash := rfl
@[simp] theorem State.updQueue_pins (q : Nat) (f : Queue → Queue) : (s.updQueue q f).pins = s.pins := rfl
@[simp] theorem State.updQueue_out (q : Nat) (f : Queue → Queue) : (s.updQueue q f).out = s.out := rfl
@[simp] theorem State.updQueue_free (q : Nat) (f : Queue → Queue) : (s.updQueue q f).free = s.free := rfl
@[simp] theorem State.updQueue_pending (q : Nat) (f : Queue → Queue) : (s.updQueue q f).pending = s.pending := rfl

/-! updQld -/
@[simp] theorem State.getQld_updQld (d : Nat) (f : QueueLd → QueueLd) : (s.updQld d f).getQld d = f (s.getQld d) := tget_tupd_self _ _ _ _
theorem State.getQld_updQld_ne {j : Nat} (d : Nat) (f : QueueLd → QueueLd) (h : d ≠ j) : (s.updQld d f).getQld j = s.getQld j := tget_tupd_ne _ _ _ h
@[simp] theorem State.updQld_ring (d : Nat) (f : QueueLd → QueueLd) : (s.updQld d f).ring = s.ring := rfl
@[simp] theorem State.updQld_ctx (d : Nat) (f : QueueLd → QueueLd) : (s.updQld d f).ctx = s.ctx := rfl
@[simp] theorem State.updQld_tally (d : Nat) (f : QueueLd → QueueLd) : (s.updQld d f).tally = s.tally := rfl
@[simp] theorem State.updQld_ledger (d : Nat) (f : QueueLd → QueueLd) : (s.updQld d f).ledger = s.ledger := rfl
@[simp] theorem State.updQld_cmp (d : Nat) (f : QueueLd → QueueLd) : (s.updQld d f).cmp = s.cmp := rfl
@[simp] theorem State.updQld_therm (d : Nat) (f : QueueLd → QueueLd) : (s.updQld d f).therm = s.therm := rfl
@[simp] theorem State.updQld_repair (d : Nat) (f : QueueLd → QueueLd) : (s.updQld d f).repair = s.repair := rfl
@[simp] theorem State.updQld_bcast (d : Nat) (f : QueueLd → QueueLd) : (s.updQld d f).bcast = s.bcast := rfl
@[simp] theorem State.updQld_stand (d : Nat) (f : QueueLd → QueueLd) : (s.updQld d f).stand = s.stand := rfl
@[simp] theorem State.updQld_net (d : Nat) (f : QueueLd → QueueLd) : (s.updQld d f).net = s.net := rfl
@[simp] theorem State.updQld_mem (d : Nat) (f : QueueLd → QueueLd) : (s.updQld d f).mem = s.mem := rfl
@[simp] theorem State.updQld_ael (d : Nat) (f : QueueLd → QueueLd) : (s.updQld d f).ael = s.ael := rfl
@[simp] theorem State.updQld_weight (d : Nat) (f : QueueLd → QueueLd) : (s.updQld d f).weight = s.weight := rfl
@[simp] theorem State.updQld_notch (d : Nat) (f : QueueLd → QueueLd) : (s.updQld d f).notch = s.notch := rfl
@[simp] theorem State.updQld_hub (d : Nat) (f : QueueLd → QueueLd) : (s.updQld d f).hub = s.hub := rfl
@[simp] theorem State.updQld_prot (d : Nat) (f : QueueLd → QueueLd) : (s.updQld d f).prot = s.prot := rfl
@[simp] theorem State.updQld_sec (d : Nat) (f : QueueLd → QueueLd) : (s.updQld d f).sec = s.sec := rfl
@[simp] theorem State.updQld_host (d : Nat) (f : QueueLd → QueueLd) : (s.updQld d f).host = s.host := rfl
@[simp] theorem State.updQld_mgmt (d : Nat) (f : QueueLd → QueueLd) : (s.updQld d f).mgmt = s.mgmt := rfl
@[simp] theorem State.updQld_flash (d : Nat) (f : QueueLd → QueueLd) : (s.updQld d f).flash = s.flash := rfl
@[simp] theorem State.updQld_pins (d : Nat) (f : QueueLd → QueueLd) : (s.updQld d f).pins = s.pins := rfl
@[simp] theorem State.updQld_out (d : Nat) (f : QueueLd → QueueLd) : (s.updQld d f).out = s.out := rfl
@[simp] theorem State.updQld_free (d : Nat) (f : QueueLd → QueueLd) : (s.updQld d f).free = s.free := rfl
@[simp] theorem State.updQld_pending (d : Nat) (f : QueueLd → QueueLd) : (s.updQld d f).pending = s.pending := rfl

/-! updLnd -/
@[simp] theorem State.getLnd_updLnd (d : Nat) (f : LndLd → LndLd) : (s.updLnd d f).getLnd d = f (s.getLnd d) := tget_tupd_self _ _ _ _
theorem State.getLnd_updLnd_ne {j : Nat} (d : Nat) (f : LndLd → LndLd) (h : d ≠ j) : (s.updLnd d f).getLnd j = s.getLnd j := tget_tupd_ne _ _ _ h
@[simp] theorem State.updLnd_ring (d : Nat) (f : LndLd → LndLd) : (s.updLnd d f).ring = s.ring := rfl
@[simp] theorem State.updLnd_ctx (d : Nat) (f : LndLd → LndLd) : (s.updLnd d f).ctx = s.ctx := rfl
@[simp] theorem State.updLnd_tally (d : Nat) (f : LndLd → LndLd) : (s.updLnd d f).tally = s.tally := rfl
@[simp] theorem State.updLnd_ledger (d : Nat) (f : LndLd → LndLd) : (s.updLnd d f).ledger = s.ledger := rfl
@[simp] theorem State.updLnd_cmp (d : Nat) (f : LndLd → LndLd) : (s.updLnd d f).cmp = s.cmp := rfl
@[simp] theorem State.updLnd_therm (d : Nat) (f : LndLd → LndLd) : (s.updLnd d f).therm = s.therm := rfl
@[simp] theorem State.updLnd_repair (d : Nat) (f : LndLd → LndLd) : (s.updLnd d f).repair = s.repair := rfl
@[simp] theorem State.updLnd_bcast (d : Nat) (f : LndLd → LndLd) : (s.updLnd d f).bcast = s.bcast := rfl
@[simp] theorem State.updLnd_stand (d : Nat) (f : LndLd → LndLd) : (s.updLnd d f).stand = s.stand := rfl
@[simp] theorem State.updLnd_net (d : Nat) (f : LndLd → LndLd) : (s.updLnd d f).net = s.net := rfl
@[simp] theorem State.updLnd_mem (d : Nat) (f : LndLd → LndLd) : (s.updLnd d f).mem = s.mem := rfl
@[simp] theorem State.updLnd_ael (d : Nat) (f : LndLd → LndLd) : (s.updLnd d f).ael = s.ael := rfl
@[simp] theorem State.updLnd_weight (d : Nat) (f : LndLd → LndLd) : (s.updLnd d f).weight = s.weight := rfl
@[simp] theorem State.updLnd_notch (d : Nat) (f : LndLd → LndLd) : (s.updLnd d f).notch = s.notch := rfl
@[simp] theorem State.updLnd_queue (d : Nat) (f : LndLd → LndLd) : (s.updLnd d f).queue = s.queue := rfl
@[simp] theorem State.updLnd_prot (d : Nat) (f : LndLd → LndLd) : (s.updLnd d f).prot = s.prot := rfl
@[simp] theorem State.updLnd_sec (d : Nat) (f : LndLd → LndLd) : (s.updLnd d f).sec = s.sec := rfl
@[simp] theorem State.updLnd_host (d : Nat) (f : LndLd → LndLd) : (s.updLnd d f).host = s.host := rfl
@[simp] theorem State.updLnd_mgmt (d : Nat) (f : LndLd → LndLd) : (s.updLnd d f).mgmt = s.mgmt := rfl
@[simp] theorem State.updLnd_flash (d : Nat) (f : LndLd → LndLd) : (s.updLnd d f).flash = s.flash := rfl
@[simp] theorem State.updLnd_pins (d : Nat) (f : LndLd → LndLd) : (s.updLnd d f).pins = s.pins := rfl
@[simp] theorem State.updLnd_out (d : Nat) (f : LndLd → LndLd) : (s.updLnd d f).out = s.out := rfl
@[simp] theorem State.updLnd_free (d : Nat) (f : LndLd → LndLd) : (s.updLnd d f).free = s.free := rfl
@[simp] theorem State.updLnd_pending (d : Nat) (f : LndLd → LndLd) : (s.updLnd d f).pending = s.pending := rfl

/-! updGr -/
@[simp] theorem State.getGr_updGr (d : Nat) (f : GrLd → GrLd) : (s.updGr d f).getGr d = f (s.getGr d) := tget_tupd_self _ _ _ _
theorem State.getGr_updGr_ne {j : Nat} (d : Nat) (f : GrLd → GrLd) (h : d ≠ j) : (s.updGr d f).getGr j = s.getGr j := tget_tupd_ne _ _ _ h
@[simp] theorem State.updGr_ring (d : Nat) (f : GrLd → GrLd) : (s.updGr d f).ring = s.ring := rfl
@[simp] theorem State.updGr_ctx (d : Nat) (f : GrLd → GrLd) : (s.updGr d f).ctx = s.ctx := rfl
@[simp] theorem State.updGr_tally (d : Nat) (f : GrLd → GrLd) : (s.updGr d f).tally = s.tally := rfl
@[simp] theorem State.updGr_ledger (d : Nat) (f : GrLd → GrLd) : (s.updGr d f).ledger = s.ledger := rfl
@[simp] theorem State.updGr_cmp (d : Nat) (f : GrLd → GrLd) : (s.updGr d f).cmp = s.cmp := rfl
@[simp] theorem State.updGr_therm (d : Nat) (f : GrLd → GrLd) : (s.updGr d f).therm = s.therm := rfl
@[simp] theorem State.updGr_repair (d : Nat) (f : GrLd → GrLd) : (s.updGr d f).repair = s.repair := rfl
@[simp] theorem State.updGr_bcast (d : Nat) (f : GrLd → GrLd) : (s.updGr d f).bcast = s.bcast := rfl
@[simp] theorem State.updGr_stand (d : Nat) (f : GrLd → GrLd) : (s.updGr d f).stand = s.stand := rfl
@[simp] theorem State.updGr_net (d : Nat) (f : GrLd → GrLd) : (s.updGr d f).net = s.net := rfl
@[simp] theorem State.updGr_mem (d : Nat) (f : GrLd → GrLd) : (s.updGr d f).mem = s.mem := rfl
@[simp] theorem State.updGr_ael (d : Nat) (f : GrLd → GrLd) : (s.updGr d f).ael = s.ael := rfl
@[simp] theorem State.updGr_weight (d : Nat) (f : GrLd → GrLd) : (s.updGr d f).weight = s.weight := rfl
@[simp] theorem State.updGr_notch (d : Nat) (f : GrLd → GrLd) : (s.updGr d f).notch = s.notch := rfl
@[simp] theorem State.updGr_queue (d : Nat) (f : GrLd → GrLd) : (s.updGr d f).queue = s.queue := rfl
@[simp] theorem State.updGr_prot (d : Nat) (f : GrLd → GrLd) : (s.updGr d f).prot = s.prot := rfl
@[simp] theorem State.updGr_sec (d : Nat) (f : GrLd → GrLd) : (s.updGr d f).sec = s.sec := rfl
@[simp] theorem State.updGr_host (d : Nat) (f : GrLd → GrLd) : (s.updGr d f).host = s.host := rfl
@[simp] theorem State.updGr_mgmt (d : Nat) (f : GrLd → GrLd) : (s.updGr d f).mgmt = s.mgmt := rfl
@[simp] theorem State.updGr_flash (d : Nat) (f : GrLd → GrLd) : (s.updGr d f).flash = s.flash := rfl
@[simp] theorem State.updGr_pins (d : Nat) (f : GrLd → GrLd) : (s.updGr d f).pins = s.pins := rfl
@[simp] theorem State.updGr_out (d : Nat) (f : GrLd → GrLd) : (s.updGr d f).out = s.out := rfl
@[simp] theorem State.updGr_free (d : Nat) (f : GrLd → GrLd) : (s.updGr d f).free = s.free := rfl
@[simp] theorem State.updGr_pending (d : Nat) (f : GrLd → GrLd) : (s.updGr d f).pending = s.pending := rfl

/-! updTherm -/
@[simp] theorem State.updTherm_therm (f : Therm → Therm) : (s.updTherm f).therm = f s.therm := rfl
@[simp] theorem State.updTherm_ring (f : Therm → Therm) : (s.updTherm f).ring = s.ring := rfl
@[simp] theorem State.updTherm_ctx (f : Therm → Therm) : (s.updTherm f).ctx = s.ctx := rfl
@[simp] theorem State.updTherm_tally (f : Therm → Therm) : (s.updTherm f).tally = s.tally := rfl
@[simp] theorem State.updTherm_ledger (f : Therm → Therm) : (s.updTherm f).ledger = s.ledger := rfl
@[simp] theorem State.updTherm_cmp (f : Therm → Therm) : (s.updTherm f).cmp = s.cmp := rfl
@[simp] theorem State.updTherm_repair (f : Therm → Therm) : (s.updTherm f).repair = s.repair := rfl
@[simp] theorem State.updTherm_bcast (f : Therm → Therm) : (s.updTherm f).bcast = s.bcast := rfl
@[simp] theorem State.updTherm_stand (f : Therm → Therm) : (s.updTherm f).stand = s.stand := rfl
@[simp] theorem State.updTherm_net (f : Therm → Therm) : (s.updTherm f).net = s.net := rfl
@[simp] theorem State.updTherm_mem (f : Therm → Therm) : (s.updTherm f).mem = s.mem := rfl
@[simp] theorem State.updTherm_ael (f : Therm → Therm) : (s.updTherm f).ael = s.ael := rfl
@[simp] theorem State.updTherm_weight (f : Therm → Therm) : (s.updTherm f).weight = s.weight := rfl
@[simp] theorem State.updTherm_notch (f : Therm → Therm) : (s.updTherm f).notch = s.notch := rfl
@[simp] theorem State.updTherm_queue (f : Therm → Therm) : (s.updTherm f).queue = s.queue := rfl
@[simp] theorem State.updTherm_hub (f : Therm → Therm) : (s.updTherm f).hub = s.hub := rfl
@[simp] theorem State.updTherm_prot (f : Therm → Therm) : (s.updTherm f).prot = s.prot := rfl
@[simp] theorem State.updTherm_sec (f : Therm → Therm) : (s.updTherm f).sec = s.sec := rfl
@[simp] theorem State.updTherm_host (f : Therm → Therm) : (s.updTherm f).host = s.host := rfl
@[simp] theorem State.updTherm_mgmt (f : Therm → Therm) : (s.updTherm f).mgmt = s.mgmt := rfl
@[simp] theorem State.updTherm_flash (f : Therm → Therm) : (s.updTherm f).flash = s.flash := rfl
@[simp] theorem State.updTherm_pins (f : Therm → Therm) : (s.updTherm f).pins = s.pins := rfl
@[simp] theorem State.updTherm_out (f : Therm → Therm) : (s.updTherm f).out = s.out := rfl
@[simp] theorem State.updTherm_free (f : Therm → Therm) : (s.updTherm f).free = s.free := rfl
@[simp] theorem State.updTherm_pending (f : Therm → Therm) : (s.updTherm f).pending = s.pending := rfl

/-! updRepair -/
@[simp] theorem State.updRepair_repair (f : Repair → Repair) : (s.updRepair f).repair = f s.repair := rfl
@[simp] theorem State.updRepair_ring (f : Repair → Repair) : (s.updRepair f).ring = s.ring := rfl
@[simp] theorem State.updRepair_ctx (f : Repair → Repair) : (s.updRepair f).ctx = s.ctx := rfl
@[simp] theorem State.updRepair_tally (f : Repair → Repair) : (s.updRepair f).tally = s.tally := rfl
@[simp] theorem State.updRepair_ledger (f : Repair → Repair) : (s.updRepair f).ledger = s.ledger := rfl
@[simp] theorem State.updRepair_cmp (f : Repair → Repair) : (s.updRepair f).cmp = s.cmp := rfl
@[simp] theorem State.updRepair_therm (f : Repair → Repair) : (s.updRepair f).therm = s.therm := rfl
@[simp] theorem State.updRepair_bcast (f : Repair → Repair) : (s.updRepair f).bcast = s.bcast := rfl
@[simp] theorem State.updRepair_stand (f : Repair → Repair) : (s.updRepair f).stand = s.stand := rfl
@[simp] theorem State.updRepair_net (f : Repair → Repair) : (s.updRepair f).net = s.net := rfl
@[simp] theorem State.updRepair_mem (f : Repair → Repair) : (s.updRepair f).mem = s.mem := rfl
@[simp] theorem State.updRepair_ael (f : Repair → Repair) : (s.updRepair f).ael = s.ael := rfl
@[simp] theorem State.updRepair_weight (f : Repair → Repair) : (s.updRepair f).weight = s.weight := rfl
@[simp] theorem State.updRepair_notch (f : Repair → Repair) : (s.updRepair f).notch = s.notch := rfl
@[simp] theorem State.updRepair_queue (f : Repair → Repair) : (s.updRepair f).queue = s.queue := rfl
@[simp] theorem State.updRepair_hub (f : Repair → Repair) : (s.updRepair f).hub = s.hub := rfl
@[simp] theorem State.updRepair_prot (f : Repair → Repair) : (s.updRepair f).prot = s.prot := rfl
@[simp] theorem State.updRepair_sec (f : Repair → Repair) : (s.updRepair f).sec = s.sec := rfl
@[simp] theorem State.updRepair_host (f : Repair → Repair) : (s.updRepair f).host = s.host := rfl
@[simp] theorem State.updRepair_mgmt (f : Repair → Repair) : (s.updRepair f).mgmt = s.mgmt := rfl
@[simp] theorem State.updRepair_flash (f : Repair → Repair) : (s.updRepair f).flash = s.flash := rfl
@[simp] theorem State.updRepair_pins (f : Repair → Repair) : (s.updRepair f).pins = s.pins := rfl
@[simp] theorem State.updRepair_out (f : Repair → Repair) : (s.updRepair f).out = s.out := rfl
@[simp] theorem State.updRepair_free (f : Repair → Repair) : (s.updRepair f).free = s.free := rfl
@[simp] theorem State.updRepair_pending (f : Repair → Repair) : (s.updRepair f).pending = s.pending := rfl

/-! updRow -/
@[simp] theorem State.getRow_updRow (row : Nat) (f : RowSt → RowSt) : (s.updRow row f).getRow row = f (s.getRow row) := tget_tupd_self _ _ _ _
theorem State.getRow_updRow_ne {j : Nat} (row : Nat) (f : RowSt → RowSt) (h : row ≠ j) : (s.updRow row f).getRow j = s.getRow j := tget_tupd_ne _ _ _ h
@[simp] theorem State.updRow_ring (row : Nat) (f : RowSt → RowSt) : (s.updRow row f).ring = s.ring := rfl
@[simp] theorem State.updRow_ctx (row : Nat) (f : RowSt → RowSt) : (s.updRow row f).ctx = s.ctx := rfl
@[simp] theorem State.updRow_tally (row : Nat) (f : RowSt → RowSt) : (s.updRow row f).tally = s.tally := rfl
@[simp] theorem State.updRow_ledger (row : Nat) (f : RowSt → RowSt) : (s.updRow row f).ledger = s.ledger := rfl
@[simp] theorem State.updRow_cmp (row : Nat) (f : RowSt → RowSt) : (s.updRow row f).cmp = s.cmp := rfl
@[simp] theorem State.updRow_therm (row : Nat) (f : RowSt → RowSt) : (s.updRow row f).therm = s.therm := rfl
@[simp] theorem State.updRow_bcast (row : Nat) (f : RowSt → RowSt) : (s.updRow row f).bcast = s.bcast := rfl
@[simp] theorem State.updRow_stand (row : Nat) (f : RowSt → RowSt) : (s.updRow row f).stand = s.stand := rfl
@[simp] theorem State.updRow_net (row : Nat) (f : RowSt → RowSt) : (s.updRow row f).net = s.net := rfl
@[simp] theorem State.updRow_mem (row : Nat) (f : RowSt → RowSt) : (s.updRow row f).mem = s.mem := rfl
@[simp] theorem State.updRow_ael (row : Nat) (f : RowSt → RowSt) : (s.updRow row f).ael = s.ael := rfl
@[simp] theorem State.updRow_weight (row : Nat) (f : RowSt → RowSt) : (s.updRow row f).weight = s.weight := rfl
@[simp] theorem State.updRow_notch (row : Nat) (f : RowSt → RowSt) : (s.updRow row f).notch = s.notch := rfl
@[simp] theorem State.updRow_queue (row : Nat) (f : RowSt → RowSt) : (s.updRow row f).queue = s.queue := rfl
@[simp] theorem State.updRow_hub (row : Nat) (f : RowSt → RowSt) : (s.updRow row f).hub = s.hub := rfl
@[simp] theorem State.updRow_prot (row : Nat) (f : RowSt → RowSt) : (s.updRow row f).prot = s.prot := rfl
@[simp] theorem State.updRow_sec (row : Nat) (f : RowSt → RowSt) : (s.updRow row f).sec = s.sec := rfl
@[simp] theorem State.updRow_host (row : Nat) (f : RowSt → RowSt) : (s.updRow row f).host = s.host := rfl
@[simp] theorem State.updRow_mgmt (row : Nat) (f : RowSt → RowSt) : (s.updRow row f).mgmt = s.mgmt := rfl
@[simp] theorem State.updRow_flash (row : Nat) (f : RowSt → RowSt) : (s.updRow row f).flash = s.flash := rfl
@[simp] theorem State.updRow_pins (row : Nat) (f : RowSt → RowSt) : (s.updRow row f).pins = s.pins := rfl
@[simp] theorem State.updRow_out (row : Nat) (f : RowSt → RowSt) : (s.updRow row f).out = s.out := rfl
@[simp] theorem State.updRow_free (row : Nat) (f : RowSt → RowSt) : (s.updRow row f).free = s.free := rfl
@[simp] theorem State.updRow_pending (row : Nat) (f : RowSt → RowSt) : (s.updRow row f).pending = s.pending := rfl

/-! updHost -/
@[simp] theorem State.updHost_host (f : HostSt → HostSt) : (s.updHost f).host = f s.host := rfl
@[simp] theorem State.updHost_ring (f : HostSt → HostSt) : (s.updHost f).ring = s.ring := rfl
@[simp] theorem State.updHost_ctx (f : HostSt → HostSt) : (s.updHost f).ctx = s.ctx := rfl
@[simp] theorem State.updHost_tally (f : HostSt → HostSt) : (s.updHost f).tally = s.tally := rfl
@[simp] theorem State.updHost_ledger (f : HostSt → HostSt) : (s.updHost f).ledger = s.ledger := rfl
@[simp] theorem State.updHost_cmp (f : HostSt → HostSt) : (s.updHost f).cmp = s.cmp := rfl
@[simp] theorem State.updHost_therm (f : HostSt → HostSt) : (s.updHost f).therm = s.therm := rfl
@[simp] theorem State.updHost_repair (f : HostSt → HostSt) : (s.updHost f).repair = s.repair := rfl
@[simp] theorem State.updHost_bcast (f : HostSt → HostSt) : (s.updHost f).bcast = s.bcast := rfl
@[simp] theorem State.updHost_stand (f : HostSt → HostSt) : (s.updHost f).stand = s.stand := rfl
@[simp] theorem State.updHost_net (f : HostSt → HostSt) : (s.updHost f).net = s.net := rfl
@[simp] theorem State.updHost_mem (f : HostSt → HostSt) : (s.updHost f).mem = s.mem := rfl
@[simp] theorem State.updHost_ael (f : HostSt → HostSt) : (s.updHost f).ael = s.ael := rfl
@[simp] theorem State.updHost_weight (f : HostSt → HostSt) : (s.updHost f).weight = s.weight := rfl
@[simp] theorem State.updHost_notch (f : HostSt → HostSt) : (s.updHost f).notch = s.notch := rfl
@[simp] theorem State.updHost_queue (f : HostSt → HostSt) : (s.updHost f).queue = s.queue := rfl
@[simp] theorem State.updHost_hub (f : HostSt → HostSt) : (s.updHost f).hub = s.hub := rfl
@[simp] theorem State.updHost_prot (f : HostSt → HostSt) : (s.updHost f).prot = s.prot := rfl
@[simp] theorem State.updHost_sec (f : HostSt → HostSt) : (s.updHost f).sec = s.sec := rfl
@[simp] theorem State.updHost_mgmt (f : HostSt → HostSt) : (s.updHost f).mgmt = s.mgmt := rfl
@[simp] theorem State.updHost_flash (f : HostSt → HostSt) : (s.updHost f).flash = s.flash := rfl
@[simp] theorem State.updHost_pins (f : HostSt → HostSt) : (s.updHost f).pins = s.pins := rfl
@[simp] theorem State.updHost_out (f : HostSt → HostSt) : (s.updHost f).out = s.out := rfl
@[simp] theorem State.updHost_free (f : HostSt → HostSt) : (s.updHost f).free = s.free := rfl
@[simp] theorem State.updHost_pending (f : HostSt → HostSt) : (s.updHost f).pending = s.pending := rfl

/-! updMsix -/
@[simp] theorem State.updMsix_ring (ld v : Nat) (f : Msix → Msix) : (s.updMsix ld v f).ring = s.ring := rfl
@[simp] theorem State.updMsix_ctx (ld v : Nat) (f : Msix → Msix) : (s.updMsix ld v f).ctx = s.ctx := rfl
@[simp] theorem State.updMsix_tally (ld v : Nat) (f : Msix → Msix) : (s.updMsix ld v f).tally = s.tally := rfl
@[simp] theorem State.updMsix_ledger (ld v : Nat) (f : Msix → Msix) : (s.updMsix ld v f).ledger = s.ledger := rfl
@[simp] theorem State.updMsix_cmp (ld v : Nat) (f : Msix → Msix) : (s.updMsix ld v f).cmp = s.cmp := rfl
@[simp] theorem State.updMsix_therm (ld v : Nat) (f : Msix → Msix) : (s.updMsix ld v f).therm = s.therm := rfl
@[simp] theorem State.updMsix_repair (ld v : Nat) (f : Msix → Msix) : (s.updMsix ld v f).repair = s.repair := rfl
@[simp] theorem State.updMsix_bcast (ld v : Nat) (f : Msix → Msix) : (s.updMsix ld v f).bcast = s.bcast := rfl
@[simp] theorem State.updMsix_stand (ld v : Nat) (f : Msix → Msix) : (s.updMsix ld v f).stand = s.stand := rfl
@[simp] theorem State.updMsix_net (ld v : Nat) (f : Msix → Msix) : (s.updMsix ld v f).net = s.net := rfl
@[simp] theorem State.updMsix_mem (ld v : Nat) (f : Msix → Msix) : (s.updMsix ld v f).mem = s.mem := rfl
@[simp] theorem State.updMsix_ael (ld v : Nat) (f : Msix → Msix) : (s.updMsix ld v f).ael = s.ael := rfl
@[simp] theorem State.updMsix_weight (ld v : Nat) (f : Msix → Msix) : (s.updMsix ld v f).weight = s.weight := rfl
@[simp] theorem State.updMsix_notch (ld v : Nat) (f : Msix → Msix) : (s.updMsix ld v f).notch = s.notch := rfl
@[simp] theorem State.updMsix_queue (ld v : Nat) (f : Msix → Msix) : (s.updMsix ld v f).queue = s.queue := rfl
@[simp] theorem State.updMsix_hub (ld v : Nat) (f : Msix → Msix) : (s.updMsix ld v f).hub = s.hub := rfl
@[simp] theorem State.updMsix_prot (ld v : Nat) (f : Msix → Msix) : (s.updMsix ld v f).prot = s.prot := rfl
@[simp] theorem State.updMsix_sec (ld v : Nat) (f : Msix → Msix) : (s.updMsix ld v f).sec = s.sec := rfl
@[simp] theorem State.updMsix_mgmt (ld v : Nat) (f : Msix → Msix) : (s.updMsix ld v f).mgmt = s.mgmt := rfl
@[simp] theorem State.updMsix_flash (ld v : Nat) (f : Msix → Msix) : (s.updMsix ld v f).flash = s.flash := rfl
@[simp] theorem State.updMsix_pins (ld v : Nat) (f : Msix → Msix) : (s.updMsix ld v f).pins = s.pins := rfl
@[simp] theorem State.updMsix_out (ld v : Nat) (f : Msix → Msix) : (s.updMsix ld v f).out = s.out := rfl
@[simp] theorem State.updMsix_free (ld v : Nat) (f : Msix → Msix) : (s.updMsix ld v f).free = s.free := rfl
@[simp] theorem State.updMsix_pending (ld v : Nat) (f : Msix → Msix) : (s.updMsix ld v f).pending = s.pending := rfl

/-! updSec -/
@[simp] theorem State.updSec_sec (f : Sec → Sec) : (s.updSec f).sec = f s.sec := rfl
@[simp] theorem State.updSec_ring (f : Sec → Sec) : (s.updSec f).ring = s.ring := rfl
@[simp] theorem State.updSec_ctx (f : Sec → Sec) : (s.updSec f).ctx = s.ctx := rfl
@[simp] theorem State.updSec_tally (f : Sec → Sec) : (s.updSec f).tally = s.tally := rfl
@[simp] theorem State.updSec_ledger (f : Sec → Sec) : (s.updSec f).ledger = s.ledger := rfl
@[simp] theorem State.updSec_cmp (f : Sec → Sec) : (s.updSec f).cmp = s.cmp := rfl
@[simp] theorem State.updSec_therm (f : Sec → Sec) : (s.updSec f).therm = s.therm := rfl
@[simp] theorem State.updSec_repair (f : Sec → Sec) : (s.updSec f).repair = s.repair := rfl
@[simp] theorem State.updSec_bcast (f : Sec → Sec) : (s.updSec f).bcast = s.bcast := rfl
@[simp] theorem State.updSec_stand (f : Sec → Sec) : (s.updSec f).stand = s.stand := rfl
@[simp] theorem State.updSec_net (f : Sec → Sec) : (s.updSec f).net = s.net := rfl
@[simp] theorem State.updSec_mem (f : Sec → Sec) : (s.updSec f).mem = s.mem := rfl
@[simp] theorem State.updSec_ael (f : Sec → Sec) : (s.updSec f).ael = s.ael := rfl
@[simp] theorem State.updSec_weight (f : Sec → Sec) : (s.updSec f).weight = s.weight := rfl
@[simp] theorem State.updSec_notch (f : Sec → Sec) : (s.updSec f).notch = s.notch := rfl
@[simp] theorem State.updSec_queue (f : Sec → Sec) : (s.updSec f).queue = s.queue := rfl
@[simp] theorem State.updSec_hub (f : Sec → Sec) : (s.updSec f).hub = s.hub := rfl
@[simp] theorem State.updSec_prot (f : Sec → Sec) : (s.updSec f).prot = s.prot := rfl
@[simp] theorem State.updSec_host (f : Sec → Sec) : (s.updSec f).host = s.host := rfl
@[simp] theorem State.updSec_mgmt (f : Sec → Sec) : (s.updSec f).mgmt = s.mgmt := rfl
@[simp] theorem State.updSec_flash (f : Sec → Sec) : (s.updSec f).flash = s.flash := rfl
@[simp] theorem State.updSec_pins (f : Sec → Sec) : (s.updSec f).pins = s.pins := rfl
@[simp] theorem State.updSec_out (f : Sec → Sec) : (s.updSec f).out = s.out := rfl
@[simp] theorem State.updSec_free (f : Sec → Sec) : (s.updSec f).free = s.free := rfl
@[simp] theorem State.updSec_pending (f : Sec → Sec) : (s.updSec f).pending = s.pending := rfl

/-! updPins -/
@[simp] theorem State.updPins_pins (f : Pins → Pins) : (s.updPins f).pins = f s.pins := rfl
@[simp] theorem State.updPins_ring (f : Pins → Pins) : (s.updPins f).ring = s.ring := rfl
@[simp] theorem State.updPins_ctx (f : Pins → Pins) : (s.updPins f).ctx = s.ctx := rfl
@[simp] theorem State.updPins_tally (f : Pins → Pins) : (s.updPins f).tally = s.tally := rfl
@[simp] theorem State.updPins_ledger (f : Pins → Pins) : (s.updPins f).ledger = s.ledger := rfl
@[simp] theorem State.updPins_cmp (f : Pins → Pins) : (s.updPins f).cmp = s.cmp := rfl
@[simp] theorem State.updPins_therm (f : Pins → Pins) : (s.updPins f).therm = s.therm := rfl
@[simp] theorem State.updPins_repair (f : Pins → Pins) : (s.updPins f).repair = s.repair := rfl
@[simp] theorem State.updPins_bcast (f : Pins → Pins) : (s.updPins f).bcast = s.bcast := rfl
@[simp] theorem State.updPins_stand (f : Pins → Pins) : (s.updPins f).stand = s.stand := rfl
@[simp] theorem State.updPins_net (f : Pins → Pins) : (s.updPins f).net = s.net := rfl
@[simp] theorem State.updPins_mem (f : Pins → Pins) : (s.updPins f).mem = s.mem := rfl
@[simp] theorem State.updPins_ael (f : Pins → Pins) : (s.updPins f).ael = s.ael := rfl
@[simp] theorem State.updPins_weight (f : Pins → Pins) : (s.updPins f).weight = s.weight := rfl
@[simp] theorem State.updPins_notch (f : Pins → Pins) : (s.updPins f).notch = s.notch := rfl
@[simp] theorem State.updPins_queue (f : Pins → Pins) : (s.updPins f).queue = s.queue := rfl
@[simp] theorem State.updPins_hub (f : Pins → Pins) : (s.updPins f).hub = s.hub := rfl
@[simp] theorem State.updPins_prot (f : Pins → Pins) : (s.updPins f).prot = s.prot := rfl
@[simp] theorem State.updPins_sec (f : Pins → Pins) : (s.updPins f).sec = s.sec := rfl
@[simp] theorem State.updPins_host (f : Pins → Pins) : (s.updPins f).host = s.host := rfl
@[simp] theorem State.updPins_mgmt (f : Pins → Pins) : (s.updPins f).mgmt = s.mgmt := rfl
@[simp] theorem State.updPins_flash (f : Pins → Pins) : (s.updPins f).flash = s.flash := rfl
@[simp] theorem State.updPins_out (f : Pins → Pins) : (s.updPins f).out = s.out := rfl
@[simp] theorem State.updPins_free (f : Pins → Pins) : (s.updPins f).free = s.free := rfl
@[simp] theorem State.updPins_pending (f : Pins → Pins) : (s.updPins f).pending = s.pending := rfl

/-! updMgmt -/
@[simp] theorem State.updMgmt_mgmt (f : Mgmt → Mgmt) : (s.updMgmt f).mgmt = f s.mgmt := rfl
@[simp] theorem State.updMgmt_ring (f : Mgmt → Mgmt) : (s.updMgmt f).ring = s.ring := rfl
@[simp] theorem State.updMgmt_ctx (f : Mgmt → Mgmt) : (s.updMgmt f).ctx = s.ctx := rfl
@[simp] theorem State.updMgmt_tally (f : Mgmt → Mgmt) : (s.updMgmt f).tally = s.tally := rfl
@[simp] theorem State.updMgmt_ledger (f : Mgmt → Mgmt) : (s.updMgmt f).ledger = s.ledger := rfl
@[simp] theorem State.updMgmt_cmp (f : Mgmt → Mgmt) : (s.updMgmt f).cmp = s.cmp := rfl
@[simp] theorem State.updMgmt_therm (f : Mgmt → Mgmt) : (s.updMgmt f).therm = s.therm := rfl
@[simp] theorem State.updMgmt_repair (f : Mgmt → Mgmt) : (s.updMgmt f).repair = s.repair := rfl
@[simp] theorem State.updMgmt_bcast (f : Mgmt → Mgmt) : (s.updMgmt f).bcast = s.bcast := rfl
@[simp] theorem State.updMgmt_stand (f : Mgmt → Mgmt) : (s.updMgmt f).stand = s.stand := rfl
@[simp] theorem State.updMgmt_net (f : Mgmt → Mgmt) : (s.updMgmt f).net = s.net := rfl
@[simp] theorem State.updMgmt_mem (f : Mgmt → Mgmt) : (s.updMgmt f).mem = s.mem := rfl
@[simp] theorem State.updMgmt_ael (f : Mgmt → Mgmt) : (s.updMgmt f).ael = s.ael := rfl
@[simp] theorem State.updMgmt_weight (f : Mgmt → Mgmt) : (s.updMgmt f).weight = s.weight := rfl
@[simp] theorem State.updMgmt_notch (f : Mgmt → Mgmt) : (s.updMgmt f).notch = s.notch := rfl
@[simp] theorem State.updMgmt_queue (f : Mgmt → Mgmt) : (s.updMgmt f).queue = s.queue := rfl
@[simp] theorem State.updMgmt_hub (f : Mgmt → Mgmt) : (s.updMgmt f).hub = s.hub := rfl
@[simp] theorem State.updMgmt_prot (f : Mgmt → Mgmt) : (s.updMgmt f).prot = s.prot := rfl
@[simp] theorem State.updMgmt_sec (f : Mgmt → Mgmt) : (s.updMgmt f).sec = s.sec := rfl
@[simp] theorem State.updMgmt_host (f : Mgmt → Mgmt) : (s.updMgmt f).host = s.host := rfl
@[simp] theorem State.updMgmt_flash (f : Mgmt → Mgmt) : (s.updMgmt f).flash = s.flash := rfl
@[simp] theorem State.updMgmt_pins (f : Mgmt → Mgmt) : (s.updMgmt f).pins = s.pins := rfl
@[simp] theorem State.updMgmt_out (f : Mgmt → Mgmt) : (s.updMgmt f).out = s.out := rfl
@[simp] theorem State.updMgmt_free (f : Mgmt → Mgmt) : (s.updMgmt f).free = s.free := rfl
@[simp] theorem State.updMgmt_pending (f : Mgmt → Mgmt) : (s.updMgmt f).pending = s.pending := rfl

/-! emit -/
@[simp] theorem State.emit_out (e : Emit) : (s.emit e).out = s.out ++ [e] := rfl
@[simp] theorem State.emit_ring (e : Emit) : (s.emit e).ring = s.ring := rfl
@[simp] theorem State.emit_ctx (e : Emit) : (s.emit e).ctx = s.ctx := rfl
@[simp] theorem State.emit_tally (e : Emit) : (s.emit e).tally = s.tally := rfl
@[simp] theorem State.emit_ledger (e : Emit) : (s.emit e).ledger = s.ledger := rfl
@[simp] theorem State.emit_cmp (e : Emit) : (s.emit e).cmp = s.cmp := rfl
@[simp] theorem State.emit_therm (e : Emit) : (s.emit e).therm = s.therm := rfl
@[simp] theorem State.emit_repair (e : Emit) : (s.emit e).repair = s.repair := rfl
@[simp] theorem State.emit_bcast (e : Emit) : (s.emit e).bcast = s.bcast := rfl
@[simp] theorem State.emit_stand (e : Emit) : (s.emit e).stand = s.stand := rfl
@[simp] theorem State.emit_net (e : Emit) : (s.emit e).net = s.net := rfl
@[simp] theorem State.emit_mem (e : Emit) : (s.emit e).mem = s.mem := rfl
@[simp] theorem State.emit_ael (e : Emit) : (s.emit e).ael = s.ael := rfl
@[simp] theorem State.emit_weight (e : Emit) : (s.emit e).weight = s.weight := rfl
@[simp] theorem State.emit_notch (e : Emit) : (s.emit e).notch = s.notch := rfl
@[simp] theorem State.emit_queue (e : Emit) : (s.emit e).queue = s.queue := rfl
@[simp] theorem State.emit_hub (e : Emit) : (s.emit e).hub = s.hub := rfl
@[simp] theorem State.emit_prot (e : Emit) : (s.emit e).prot = s.prot := rfl
@[simp] theorem State.emit_sec (e : Emit) : (s.emit e).sec = s.sec := rfl
@[simp] theorem State.emit_host (e : Emit) : (s.emit e).host = s.host := rfl
@[simp] theorem State.emit_mgmt (e : Emit) : (s.emit e).mgmt = s.mgmt := rfl
@[simp] theorem State.emit_flash (e : Emit) : (s.emit e).flash = s.flash := rfl
@[simp] theorem State.emit_pins (e : Emit) : (s.emit e).pins = s.pins := rfl
@[simp] theorem State.emit_free (e : Emit) : (s.emit e).free = s.free := rfl
@[simp] theorem State.emit_pending (e : Emit) : (s.emit e).pending = s.pending := rfl

end Sys2Proof.Machine
end

