-- ==== Sys2Proof/Laws/Locks.lean ====
section
/-! SUPPORT. No function of the model but those of reset and boot changes the protection table, its lock, the sections of the booted
image, what holds the device in reset, or the queue of commands; none but those of an update changes the flash, and none but the
root clock and the seeding of ring time the count of rings or cycles. -/

set_option linter.unusedSimpArgs false

namespace Sys2Proof.Machine

/-- What the lock of the protection table rests on (R486), with the queue of commands. -/
def State.locks (s : State) : Tab Dom × Bool × Tab (List Byte) × Bool × List Instr × Mem × Nat × Nat × Nat × Bool :=
  (s.prot, s.sec.locked, s.sec.sects, s.pins.held, s.pending, s.flash, s.ring.count, s.ring.cycle, s.ring.lenLog2, s.ael.seeded)

theorem State.locks_eq {s t : State} (h1 : t.prot = s.prot) (h3 : t.sec.locked = s.sec.locked)
    (h4 : t.sec.sects = s.sec.sects) (h5 : t.pins.held = s.pins.held) (h6 : t.pending = s.pending)
    (h7 : t.flash = s.flash) (h8 : t.ring.count = s.ring.count) (h9 : t.ring.cycle = s.ring.cycle) (h10 : t.ring.lenLog2 = s.ring.lenLog2)
    (h11 : t.ael.seeded = s.ael.seeded) :
    t.locks = s.locks := by
  unfold State.locks; rw [h1, h3, h4, h5, h6, h7, h8, h9, h10, h11]

@[simp] theorem State.locks_fold (s : State) : (s.prot, s.sec.locked, s.sec.sects, s.pins.held, s.pending, s.flash, s.ring.count, s.ring.cycle, s.ring.lenLog2, s.ael.seeded) = s.locks := rfl

@[simp] theorem State.locks_mk (a b c d e f g h i j k l m n o p q r t u v w x y z) :
    State.locks ⟨a, b, c, d, e, f, g, h, i, j, k, l, m, n, o, p, q, r, t, u, v, w, x, y, z⟩ =
      (q, r.locked, r.sects, w.held, z, v, a.count, a.cycle, a.lenLog2, l.seeded) := rfl

@[simp] theorem foldl_locks {α : Type} (f : State → α → State) (l : List α) (s : State) (h : ∀ s a, (f s a).locks = s.locks) :
    (l.foldl f s).locks = s.locks := by
  induction l generalizing s with
  | nil => rfl
  | cons a l ih => rw [List.foldl_cons, ih, h]

@[simp] theorem foldl_fst_locks {α β : Type} (f : State × β → α → State × β) (l : List α) (p : State × β)
    (h : ∀ p a, ((f p a).1).locks = p.1.locks) : ((l.foldl f p).1).locks = p.1.locks := by
  induction l generalizing p with
  | nil => rfl
  | cons a l ih => rw [List.foldl_cons, ih, h]

@[simp] theorem State.takeFree_locks (s : State) : s.takeFree.2.locks = s.locks := rfl

@[simp] theorem State.updSec_locks (s : State) (f : Sec → Sec) (h1 : (f s.sec).locked = s.sec.locked) (h2 : (f s.sec).sects = s.sec.sects) :
    (s.updSec f).locks = s.locks := by
  unfold State.updSec; simp [h1, h2]
@[simp] theorem State.bootFail_locks (s : State) (code : Nat)  : (State.bootFail s code).locks = s.locks := by unfold State.bootFail; (repeat' split) <;> simp
@[simp] theorem State.noteCopy_locks (s : State) (c : Nat) (hdr : List Byte) (check : Nat)  : (State.noteCopy s c hdr check).locks = s.locks := by unfold State.noteCopy; (repeat' split) <;> simp
@[simp] theorem State.verify_locks (s : State) (e : BootEnv) (a : List Nat) (a4 : Nat)  : (State.verify s e a a4).1.locks = s.locks := by fun_induction State.verify s e a a4 <;> simp_all +zetaDelta
@[simp] theorem State.noteErased_locks (s : State) (c : Nat)  : (State.noteErased s c).locks = s.locks := by unfold State.noteErased; dsimp only; (repeat' split) <;> simp_all
@[simp] theorem State.putLog_locks (s : State) (r : List Byte)  : (State.putLog s r).locks = s.locks := by unfold State.putLog; (repeat' split) <;> simp
@[simp] theorem State.bootEvent_locks (s : State) (code : Nat) (i1 : Nat) (i2 : Nat)  : (State.bootEvent s code i1 i2).locks = s.locks := by unfold State.bootEvent; dsimp only; (repeat' split) <;> simp_all
@[simp] theorem State.updRepair_locks (s : State) (f : Repair → Repair)  : (State.updRepair s f).locks = s.locks := by unfold State.updRepair; (repeat' split) <;> simp
@[simp] theorem State.updRow_locks (s : State) (row : Nat) (f : RowSt → RowSt)  : (State.updRow s row f).locks = s.locks := by unfold State.updRow; (repeat' split) <;> simp
@[simp] theorem State.repairRow_locks (s : State) (map : List Byte) (e : BootEnv) (row : Nat)  : (State.repairRow s map e row).locks = s.locks := by unfold State.repairRow; dsimp only; (repeat' split) <;> simp_all
@[simp] theorem State.trainMemory_locks (s : State) (c : Copy) (e : BootEnv)  : (State.trainMemory s c e).locks = s.locks := by unfold State.trainMemory; (repeat' split) <;> simp
@[simp] theorem State.updTally_locks (s : State) (d : Nat) (f : TallyCtx → TallyCtx)  : (State.updTally s d f).locks = s.locks := by unfold State.updTally; (repeat' split) <;> simp
@[simp] theorem State.hostWrite_locks (s : State) (ld : Nat) (addr : Nat) (bytes : List Byte)  : (State.hostWrite s ld addr bytes).locks = s.locks := by unfold State.hostWrite; (repeat' split) <;> simp
@[simp] theorem State.flushUnits_locks (s : State) (d : Nat) (a : Nat)  : (State.flushUnits s d a).locks = s.locks := by fun_induction State.flushUnits s d a <;> simp_all +zetaDelta
@[simp] theorem State.flushTally_locks (s : State) (d : Nat)  : (State.flushTally s d).locks = s.locks := by unfold State.flushTally; (repeat' split) <;> simp
@[simp] theorem State.logUnit_locks (s : State) (d : Nat) (u : List Byte)  : (State.logUnit s d u).locks = s.locks := by unfold State.logUnit; (repeat' split) <;> simp
@[simp] theorem State.chain_locks (s : State) (d : Nat) (unit : Nat → List Byte)  : (State.chain s d unit).locks = s.locks := by unfold State.chain; (repeat' split) <;> simp
@[simp] theorem State.oweSignature_locks (s : State) (d : Nat)  : (State.oweSignature s d).locks = s.locks := by unfold State.oweSignature; (repeat' split) <;> simp
@[simp] theorem State.genesis_locks (s : State) (d : Nat)  : (State.genesis s d).locks = s.locks := by unfold State.genesis; simp only [State.takeFree]; (repeat' split) <;> simp (disch := (intros; (repeat' split) <;> simp [apply_ite State.locks, apply_ite Prod.fst, apply_dite State.locks])) [apply_ite State.locks, apply_ite Prod.fst, apply_dite State.locks]
@[simp] theorem State.genesisAll_locks (s : State) (a : Nat)  : (State.genesisAll s a).locks = s.locks := by fun_induction State.genesisAll s a <;> simp_all
@[simp] theorem State.becomeReady_locks (s : State)  : (State.becomeReady s).locks = s.locks := by unfold State.becomeReady; simp only [State.takeFree]; (repeat' split) <;> simp (disch := (intros; (repeat' split) <;> simp [apply_ite State.locks, apply_ite Prod.fst, apply_dite State.locks])) [apply_ite State.locks, apply_ite Prod.fst, apply_dite State.locks]
@[simp] theorem State.linksDone_locks (s : State)  : (State.linksDone s).locks = s.locks := by unfold State.linksDone; dsimp only; (repeat' split) <;> simp_all
@[simp] theorem State.enterFifos_locks (s : State)  : (State.enterFifos s).locks = s.locks := by unfold State.enterFifos; (repeat' split) <;> simp (disch := (intros; (repeat' split) <;> try simp))
@[simp] theorem State.landDram_locks (s : State)  : (State.landDram s).locks = s.locks := by unfold State.landDram; (repeat' split) <;> simp
@[simp] theorem State.updNotchDom_locks (s : State) (d : Nat) (f : NotchDom → NotchDom)  : (State.updNotchDom s d f).locks = s.locks := by unfold State.updNotchDom; (repeat' split) <;> simp
@[simp] theorem State.noteNotch_locks (s : State) (n : Nat) (kind : Nat) (a3 : NSrc)  : (State.noteNotch s n kind a3).locks = s.locks := by unfold State.noteNotch; (repeat' split) <;> simp
@[simp] theorem State.updNode_locks (s : State) (l : Loc) (f : Node → Node)  : (State.updNode s l f).locks = s.locks := by unfold State.updNode; (repeat' split) <;> simp
@[simp] theorem State.newPacket_locks (s : State) (lat : Nat) (src : Loc) (route : List Nat) (rail : Nat) (reply : Bool) (dom : Nat) (pl : Payload) (op : Option (Nat × Nat))  : (State.newPacket s lat src route rail reply dom pl op).locks = s.locks := by unfold State.newPacket; (repeat' split) <;> simp
@[simp] theorem State.replyTo_locks (s : State) (lat : Nat) (src : Loc) (p : Packet) (pl : Payload)  : (State.replyTo s lat src p pl).locks = s.locks := by unfold State.replyTo; (repeat' split) <;> simp
@[simp] theorem State.notchReply_locks (s : State) (p : Packet) (value : Nat) (op : Nat) (status : Nat) (n : Nat) (tag : Tag)  : (State.notchReply s p value op status n tag).locks = s.locks := by unfold State.notchReply; (repeat' split) <;> simp
@[simp] theorem State.updMsix_locks (s : State) (ld : Nat) (v : Nat) (f : Msix → Msix)  : (State.updMsix s ld v f).locks = s.locks := by unfold State.updMsix; (repeat' split) <;> simp
@[simp] theorem State.hostDrop_locks (s : State) (ld : Nat) (cause : Nat) (off : Nat)  : (State.hostDrop s ld cause off).locks = s.locks := by unfold State.hostDrop; (repeat' split) <;> simp
@[simp] theorem State.sendMsi_locks (s : State) (ld : Nat) (v : Nat)  : (State.sendMsi s ld v).locks = s.locks := by unfold State.sendMsi; dsimp only; (repeat' split) <;> simp_all
@[simp] theorem State.putEvent_locks (s : State) (ld : Nat) (r : List Byte)  : (State.putEvent s ld r).locks = s.locks := by unfold State.putEvent; dsimp only; (repeat' split) <;> simp_all
@[simp] theorem State.raiseAt_locks (s : State) (code : Nat) (d : Nat) (unit : Nat) (cyc : Nat) (i1 : Nat) (i2 : Nat)  : (State.raiseAt s code d unit cyc i1 i2).locks = s.locks := by unfold State.raiseAt; dsimp only; (repeat' split) <;> simp_all
@[simp] theorem State.refuseNotch_locks (s : State) (o : NOp) (status : Nat)  : (State.refuseNotch s o status).locks = s.locks := by unfold State.refuseNotch; dsimp only; (repeat' split) <;> simp_all
@[simp] theorem State.answerNotch_locks (s : State) (o : NOp)  : (State.answerNotch s o).locks = s.locks := by unfold State.answerNotch; (repeat' split) <;> simp
@[simp] theorem State.countOp_locks (s : State) (n : Nat)  : (State.countOp s n).locks = s.locks := by unfold State.countOp; (repeat' split) <;> simp
@[simp] theorem State.markWaits_locks (s : State) (n : Nat)  : (State.markWaits s n).locks = s.locks := by unfold State.markWaits; (repeat' split) <;> simp
@[simp] theorem State.askNotch_locks (s : State) (o : NOp)  : (State.askNotch s o).locks = s.locks := by unfold State.askNotch; (repeat' split) <;> simp
@[simp] theorem State.releaseWaiters_locks (s : State) (ns : List Nat)  : (State.releaseWaiters s ns).locks = s.locks := by
  unfold State.releaseWaiters; dsimp only; rw [foldl_locks]; simp; intro s a; split <;> simp
@[simp] theorem State.changedNotches_locks (s : State) (ns : List Nat)  : (State.changedNotches s ns).locks = s.locks := by unfold State.changedNotches; simp
@[simp] theorem State.addNotch_locks (s : State) (n : Nat) (amt : Nat) (src : NSrc)  : (State.addNotch s n amt src).locks = s.locks := by unfold State.addNotch; dsimp only; (repeat' split) <;> simp_all
@[simp] theorem State.setNotch_locks (s : State) (n : Nat) (v : Nat)  : (State.setNotch s n v).locks = s.locks := by unfold State.setNotch; (repeat' split) <;> simp
@[simp] theorem State.changeNotch_locks (s : State) (o : NOp)  : (State.changeNotch s o).locks = s.locks := by unfold State.changeNotch; (repeat' split) <;> simp
@[simp] theorem State.notchCycle_locks (s : State)  : (State.notchCycle s).locks = s.locks := by unfold State.notchCycle; (repeat' split) <;> simp
@[simp] theorem State.unitsTake_locks (s : State)  : (State.unitsTake s).locks = s.locks := by unfold State.unitsTake; (repeat' split) <;> simp
@[simp] theorem State.updStand_locks (s : State) (st : Nat) (f : Stand → Stand)  : (State.updStand s st f).locks = s.locks := by unfold State.updStand; (repeat' split) <;> simp
@[simp] theorem State.postTok_locks (s : State) (st : Nat) (i : Nat) (k : Nat) (sus : Bool)  : (State.postTok s st i k sus).locks = s.locks := by unfold State.postTok; (repeat' split) <;> simp
@[simp] theorem State.takeLater_locks (s : State) (st : Nat) (power : Nat → Nat → Nat → Stand → Stand) (release : Nat → State → State) (a : Later) (hrelease : ∀ x0 x1, (release x0 x1).locks = x1.locks) : (State.takeLater s st power release a).locks = s.locks := by unfold State.takeLater; (repeat' split) <;> simp_all
@[simp] theorem State.takeLaters_locks (s : State) (st : Nat) (power : Nat → Nat → Nat → Stand → Stand) (release : Nat → State → State) (hrelease : ∀ x0 x1, (release x0 x1).locks = x1.locks) : (State.takeLaters s st power release).locks = s.locks := by unfold State.takeLaters; (repeat' split) <;> simp_all
@[simp] theorem State.releaseTrack_locks (s : State) (st : Nat) (id : Nat)  : (State.releaseTrack s st id).locks = s.locks := by unfold State.releaseTrack; (repeat' split) <;> simp
@[simp] theorem State.endTransitions_locks (s : State) (st : Nat)  : (State.endTransitions s st).locks = s.locks := by unfold State.endTransitions; (repeat' split) <;> simp
@[simp] theorem State.endJob_locks (s : State) (st : Nat) (j : Job)  : (State.endJob s st j).locks = s.locks := by unfold State.endJob; (repeat' split) <;> simp
@[simp] theorem State.shiftJob_locks (s : State) (st : Nat) (j : Job) (now : Nat)  : (State.shiftJob s st j now).locks = s.locks := by unfold State.shiftJob; (repeat' split) <;> simp
@[simp] theorem State.failStep_locks (s : State) (d : Nat) (cause : Nat) (unit : Nat)  : (State.failStep s d cause unit).locks = s.locks := by unfold State.failStep; (repeat' split) <;> simp
@[simp] theorem State.raiseFail_locks (s : State) (code : Nat) (d : Nat) (unit : Nat) (cyc : Nat) (i1 : Nat) (i2 : Nat)  : (State.raiseFail s code d unit cyc i1 i2).locks = s.locks := by unfold State.raiseFail; (repeat' split) <;> simp
@[simp] theorem State.scoutFind_locks (s : State) (d : Nat) (check : Nat) (unit : Nat) (res : Nat) (cyc : Nat)  : (State.scoutFind s d check unit res cyc).locks = s.locks := by unfold State.scoutFind; (repeat' split) <;> simp
@[simp] theorem State.scoutDeck_locks (s : State) (st : Nat) (port : Nat) (bank : Nat) (cyc : Nat)  : (State.scoutDeck s st port bank cyc).locks = s.locks := by unfold State.scoutDeck; dsimp only; (repeat' split) <;> simp_all
@[simp] theorem State.refuse_locks (s : State) (st : Nat) (port : Nat) (off : Int) (cyc : Nat) (cause : Nat)  : (State.refuse s st port off cyc cause).1.locks = s.locks := by unfold State.refuse; (repeat' split) <;> simp
@[simp] theorem State.enterLine_locks (s : State) (st : Nat) (port : Nat) (bank : Nat) (cyc : Nat)  : (State.enterLine s st port bank cyc).locks = s.locks := by unfold State.enterLine; (repeat' split) <;> simp
@[simp] theorem State.updAcc_locks (s : State) (d : Nat) (f : StepAcc → StepAcc)  : (State.updAcc s d f).locks = s.locks := by unfold State.updAcc; (repeat' split) <;> simp
@[simp] theorem State.noteUnit_locks (s : State) (st : Nat) (cls : Nat) (port : Nat) (a : Nat) (u : Nat) (cyc : Nat) (outcome : Nat) (inj : Option (Nat × List Byte))  : (State.noteUnit s st cls port a u cyc outcome inj).locks = s.locks := by unfold State.noteUnit; dsimp only; (repeat' split) <;> simp_all
@[simp] theorem State.readUnits_locks (st : Nat) (cls : Nat) (port : Nat) (a : Nat) (cyc : Nat) (inj : Option (Nat × List Byte)) (a7 : List Nat) (a8 : State)  : (State.readUnits st cls port a cyc inj a7 a8).1.locks = a8.locks := by fun_induction State.readUnits st cls port a cyc inj a7 a8 <;> simp_all
@[simp] theorem State.readLine_locks (s : State) (st : Nat) (port : Nat) (off : Int) (cyc : Nat)  : (State.readLine s st port off cyc).1.locks = s.locks := by unfold State.readLine; dsimp only; (repeat' split) <;> simp_all
@[simp] theorem State.raiseMet_locks (s : State) (st : Nat) (unit : Nat) (m : Met)  : (State.raiseMet s st unit m).locks = s.locks := by unfold State.raiseMet; (repeat' split) <;> simp
@[simp] theorem State.jobMet_locks (s : State) (st : Nat) (id : Nat) (m : Met)  : (State.jobMet s st id m).locks = s.locks := by unfold State.jobMet; (repeat' split) <;> simp
@[simp] theorem State.jobRead_locks (s : State) (st : Nat) (id : Nat) (port : Nat) (l : Int)  : (State.jobRead s st id port l).locks = s.locks := by unfold State.jobRead; simp
@[simp] theorem State.scoutInput_locks (s : State) (d : Nat) (unit : Nat) (name : Nat) (cyc : Nat)  : (State.scoutInput s d unit name cyc).locks = s.locks := by unfold State.scoutInput; (repeat' split) <;> simp
@[simp] theorem State.scoutWrite_locks (s : State) (st : Nat) (line : Int) (cyc : Nat)  : (State.scoutWrite s st line cyc).locks = s.locks := by unfold State.scoutWrite; (repeat' split) <;> simp
@[simp] theorem State.mergeUnits_locks (st : Nat) (cls : Nat) (port : Nat) (a : Nat) (cyc : Nat) (inj : Option (Nat × List Byte)) (a7 : List Nat) (a8 : State)  : (State.mergeUnits st cls port a cyc inj a7 a8).1.locks = a8.locks := by fun_induction State.mergeUnits st cls port a cyc inj a7 a8 <;> simp_all +zetaDelta
@[simp] theorem State.writeLine_locks (s : State) (st : Nat) (port : Nat) (off : Int) (cyc : Nat) (arrival : Bool) (img : Nat) (be : Nat)  : (State.writeLine s st port off cyc arrival img be).1.locks = s.locks := by unfold State.writeLine; dsimp only; (repeat' split) <;> simp_all
@[simp] theorem State.jobWrite_locks (s : State) (st : Nat) (id : Nat) (port : Nat) (l : Int) (img : Nat) (be : Nat)  : (State.jobWrite s st id port l img be).locks = s.locks := by unfold State.jobWrite; simp
@[simp] theorem State.runAct_locks (s : State) (stage : Stage) (st : Nat) (j : Job) (a : Act) (hstage : ∀ x0 x1 x2 x3, (stage x0 x1 x2 x3).locks = x3.locks) : (State.runAct s stage st j a).locks = s.locks := by
  unfold State.runAct; dsimp only; split <;> simp [hstage]
@[simp] theorem State.runJob_locks (stage : Stage) (st : Nat) (id : Nat) (a : Nat) (a5 : State) (hstage : ∀ x0 x1 x2 x3, (stage x0 x1 x2 x3).locks = x3.locks) : (State.runJob stage st id a a5).locks = a5.locks := by fun_induction State.runJob stage st id a a5 <;> simp_all +zetaDelta
@[simp] theorem State.runJobs_locks (stage : Stage) (s : State) (st : Nat) (hstage : ∀ x0 x1 x2 x3, (stage x0 x1 x2 x3).locks = x3.locks) : (State.runJobs stage s st).locks = s.locks := by unfold State.runJobs; (repeat' split) <;> simp_all
@[simp] theorem State.loadStage_locks (s : State) (st : Nat) (j : Job) (handle : Nat) (buf : Nat) (base : Int)  : (State.loadStage s st j handle buf base).locks = s.locks := by unfold State.loadStage; (repeat' split) <;> simp
@[simp] theorem State.rowStage_locks (s : State) (st : Nat) (j : Job) (r0 : Nat) (i : Nat) (init : Bool) (c : AccRow)  : (State.rowStage s st j r0 i init c).locks = s.locks := by unfold State.rowStage; (repeat' split) <;> simp
@[simp] theorem State.mulStage_locks (s : State) (st : Nat) (j : Job) (handle : Nat) (aoff : Nat) (buf : Nat) (r0 : Nat) (i : Nat) (init : Bool)  : (State.mulStage s st j handle aoff buf r0 i init).locks = s.locks := by unfold State.mulStage; (repeat' split) <;> simp
@[simp] theorem State.addxStage_locks (s : State) (st : Nat) (j : Job) (handle : Nat) (aoff : Nat) (fp32 : Bool) (r0 : Nat) (i : Nat) (init : Bool)  : (State.addxStage s st j handle aoff fp32 r0 i init).locks = s.locks := by unfold State.addxStage; (repeat' split) <;> simp
@[simp] theorem State.noteTaint_locks (s : State) (st : Nat) (k : Nat) (ctr : Nat) (tainted : Bool)  : (State.noteTaint s st k ctr tainted).locks = s.locks := by unfold State.noteTaint; dsimp only; (repeat' split) <;> simp_all
@[simp] theorem State.drainStage_locks (s : State) (st : Nat) (j : Job) (i : Nat)  : (State.drainStage s st j i).locks = s.locks := by unfold State.drainStage; (repeat' split) <;> simp
@[simp] theorem hrStage_locks (a : Nat) (a2 : Job) (a3 : Act) (a4 : State)  : (hrStage a a2 a3 a4).locks = a4.locks := by unfold hrStage; (repeat' split) <;> simp
@[simp] theorem State.edFail_locks (s : State) (st : Nat) (issued : Nat) (res : List Nat) (tab : List Nat)  : (State.edFail s st issued res tab).locks = s.locks := by unfold State.edFail; dsimp only; (repeat' split) <;> simp_all
@[simp] theorem State.computeStage_locks (s : State) (st : Nat) (j : Job) (k : EdKind) (o : EdOp) (a : Slot) (b : Slot) (c : Slot) (d : Slot) (wr : Nat)  : (State.computeStage s st j k o a b c d wr).locks = s.locks := by unfold State.computeStage; simp
@[simp] theorem State.residentStage_locks (s : State) (st : Nat) (j : Job) (slot : Nat)  : (State.residentStage s st j slot).locks = s.locks := by unfold State.residentStage; (repeat' split) <;> simp
@[simp] theorem edStage_locks (a : Nat) (a2 : Job) (a3 : Act) (a4 : State)  : (edStage a a2 a3 a4).locks = a4.locks := by unfold edStage; (repeat' split) <;> simp
@[simp] theorem State.indexFault_locks (s : State) (st : Nat) (inst : Nat) (ent : Nat) (cause : Nat) (kind : Nat) (handle : Nat) (value : Nat) (cyc : Nat)  : (State.indexFault s st inst ent cause kind handle value cyc).locks = s.locks := by unfold State.indexFault; dsimp only; (repeat' split) <;> simp_all
@[simp] theorem State.noteEntries_locks (s : State) (st : Nat) (j : Job) (h : Nat) (w : Walk)  : (State.noteEntries s st j h w).locks = s.locks := by unfold State.noteEntries; (repeat' split) <;> simp (disch := (intros; (repeat' split) <;> try simp))
@[simp] theorem State.farFaults_locks (s : State) (st : Nat) (j : Job) (h : Nat) (bs : List (Option Int × Nat))  : (State.farFaults s st j h bs).locks = s.locks := by unfold State.farFaults; simp only []; (repeat' split) <;> simp (disch := (intros; (repeat' split) <;> try simp))
@[simp] theorem State.addGrain_locks (s : State) (d : Nat) (g : Nat) (n : Nat) (be : Nat) (line : List Byte) (cyc : Nat) (sus : Bool)  : (State.addGrain s d g n be line cyc sus).locks = s.locks := by unfold State.addGrain; dsimp only; (repeat' split) <;> simp_all
@[simp] theorem State.grainOne_locks (s : State) (st : Nat) (d : Desc) (g : Nat) (l : Int) (p : List Byte × Nat) (sus : Bool)  : (State.grainOne s st d g l p sus).locks = s.locks := by unfold State.grainOne; (repeat' split) <;> simp
@[simp] theorem State.awaits_locks (s : State) (st : Nat) (id : Nat) (n : Nat)  : (State.awaits s st id n).locks = s.locks := by unfold State.awaits; (repeat' split) <;> simp
@[simp] theorem State.goOnJob_locks (s : State) (st : Nat) (id : Nat) (k : JobKind) (more : LineTab) (acts : List (Nat × Act))  : (State.goOnJob s st id k more acts).locks = s.locks := by unfold State.goOnJob; (repeat' split) <;> simp
@[simp] theorem State.moveIn_locks (s : State) (st : Nat) (j : Job) (mv : Move) (c0 : Nat) (ps : List (Int × Option Int × Nat))  : (State.moveIn s st j mv c0 ps).locks = s.locks := by unfold State.moveIn; dsimp only; (repeat' split) <;> simp_all
@[simp] theorem State.moveOwn_locks (s : State) (st : Nat) (j : Job) (mv : Move) (c0 : Nat) (more : LineTab) (reads : List (Option Int)) (ps : List (Int × Option Int))  : (State.moveOwn s st j mv c0 more reads ps).locks = s.locks := by unfold State.moveOwn; (repeat' split) <;> simp
@[simp] theorem State.moveOut_locks (s : State) (st : Nat) (j : Job) (mv : Move) (c0 : Nat) (more : LineTab) (reads : List (Option Int)) (ps : List (Int × Option Int)) (ents : List (Int × Nat))  : (State.moveOut s st j mv c0 more reads ps ents).locks = s.locks := by unfold State.moveOut; dsimp only; (repeat' split) <;> simp_all
@[simp] theorem State.moveStart_locks (s : State) (st : Nat) (j : Job) (mv : Move)  : (State.moveStart s st j mv).locks = s.locks := by unfold State.moveStart; dsimp only; (repeat' split) <;> simp_all
@[simp] theorem State.moveWrites_locks (s : State) (st : Nat) (j : Job) (mv : Move) (lines : List (Int × Nat × List MByte)) (n : Nat)  : (State.moveWrites s st j mv lines n).locks = s.locks := by unfold State.moveWrites; (repeat' split) <;> simp
@[simp] theorem State.moveLine_locks (s : State) (st : Nat) (j : Job) (mv : Move) (lines : List (Int × Nat × List MByte)) (reqs : Nat) (k : Nat)  : (State.moveLine s st j mv lines reqs k).locks = s.locks := by unfold State.moveLine; (repeat' split) <;> simp
@[simp] theorem State.atomSources_locks (s : State) (st : Nat) (src : Nat) (els : List (Option Int))  : (State.atomSources s st src els).1.locks = s.locks := by unfold State.atomSources; dsimp only; (repeat' split) <;> simp_all
@[simp] theorem State.atomStart_locks (s : State) (st : Nat) (j : Job) (op : Nat) (tgt : Nat) (src : Nat) (ret : Nat) (aoff : Nat) (imm : Nat)  : (State.atomStart s st j op tgt src ret aoff imm).locks = s.locks := by unfold State.atomStart; simp
@[simp] theorem State.farWrite_locks (s : State) (st : Nat) (d : Desc) (a : Int) (bs : List Byte)  : (State.farWrite s st d a bs).locks = s.locks := by unfold State.farWrite; (repeat' split) <;> simp
@[simp] theorem State.atomEnd_locks (s : State) (st : Nat) (j : Job) (op : Nat) (src : Nat) (ret : Nat) (els : List (Option Int × Option Int × Option Int)) (olds : List (Nat × Nat × Nat))  : (State.atomEnd s st j op src ret els olds).locks = s.locks := by unfold State.atomEnd; dsimp only; (repeat' split) <;> simp_all
@[simp] theorem State.opStepAt_locks (s : State) (delay : Nat) (o : Option (Nat × Nat)) (sus : Bool)  : (State.opStepAt s delay o sus).locks = s.locks := by unfold State.opStepAt; (repeat' split) <;> simp
@[simp] theorem State.opStep_locks (s : State) (o : Option (Nat × Nat)) (sus : Bool)  : (State.opStep s o sus).locks = s.locks := by unfold State.opStep; (repeat' split) <;> simp
@[simp] theorem State.sendBy_locks (s : State) (lat : Nat) (src : Loc) (e : Nat) (dom : Nat) (pl : Payload) (op : Option (Nat × Nat)) (waits : Option (Nat × Nat))  : (State.sendBy s lat src e dom pl op waits).locks = s.locks := by unfold State.sendBy; (repeat' split) <;> simp
@[simp] theorem State.atomic_locks (s : State) (st : Nat) (op : Nat) (off : Int) (operand : Nat) (cyc : Nat) (arrival : Bool)  : (State.atomic s st op off operand cyc arrival).1.locks = s.locks := by unfold State.atomic; dsimp only; (repeat' split) <;> simp_all
@[simp] theorem State.atomOne_locks (s : State) (st : Nat) (j : Job) (op : Nat) (tgt : Nat) (src : Nat) (ret : Nat) (aoff : Nat) (imm : Nat) (els : List (Option Int × Option Int × Option Int)) (olds : List (Nat × Nat × Nat)) (i : Nat)  : (State.atomOne s st j op tgt src ret aoff imm els olds i).locks = s.locks := by unfold State.atomOne; dsimp only; (repeat' split) <;> simp_all
@[simp] theorem State.scrubOne_locks (s : State) (st : Nat) (j : Job) (next : Int) (left : Nat) (wb : List (Nat × Int × Nat × Nat))  : (State.scrubOne s st j next left wb).locks = s.locks := by unfold State.scrubOne; dsimp only; (repeat' split) <;> simp_all
@[simp] theorem State.noteBins_locks (s : State) (st : Nat) (j : Job) (key : Nat) (a4 : Bins)  : (State.noteBins s st j key a4).locks = s.locks := by unfold State.noteBins; dsimp only; (repeat' split) <;> simp_all
@[simp] theorem State.binStage_locks (s : State) (st : Nat) (j : Job) (key : Nat) (list : Nat) (pos : Nat) (b : Nat)  : (State.binStage s st j key list pos b).locks = s.locks := by unfold State.binStage; (repeat' split) <;> simp
@[simp] theorem skStage_locks (a : Nat) (a2 : Job) (a3 : Act) (a4 : State)  : (skStage a a2 a3 a4).locks = a4.locks := by unfold skStage; (repeat' split) <;> simp
@[simp] theorem standStage_locks (a : Nat) (a2 : Job) (a3 : Act) (a4 : State)  : (standStage a a2 a3 a4).locks = a4.locks := by unfold standStage; (repeat' split) <;> simp
@[simp] theorem State.reread_locks (s : State) (st : Nat) (f : Flit)  : (State.reread s st f).1.locks = s.locks := by unfold State.reread; (repeat' split) <;> simp (disch := (intros; (repeat' split) <;> try simp))
@[simp] theorem State.rereadNow_locks (s : State) (st : Nat)  : (State.rereadNow s st).locks = s.locks := by unfold State.rereadNow; dsimp only; (repeat' split) <;> simp_all
@[simp] theorem State.standCycle_locks (s : State) (st : Nat)  : (State.standCycle s st).locks = s.locks := by
  unfold State.standCycle; dsimp only
  rw [State.runJobs_locks]
  · split <;> simp
  · intro a b c d; simp [standStage]; (repeat' split) <;> simp
@[simp] theorem State.beginCycle_locks (s : State)  : (State.beginCycle s).locks = s.locks := by unfold State.beginCycle; dsimp only; (repeat' split) <;> simp_all
@[simp] theorem State.updAel_locks (s : State) (p : Nat) (f : AelPort → AelPort)  : (State.updAel s p f).locks = s.locks := by unfold State.updAel; (repeat' split) <;> simp
@[simp] theorem State.emit_locks (s : State) (e : Emit)  : (State.emit s e).locks = s.locks := by unfold State.emit; (repeat' split) <;> simp
@[simp] theorem State.sendBlock_locks (s : State) (p : Nat)  : (State.sendBlock s p).locks = s.locks := by unfold State.sendBlock; dsimp only; (repeat' split) <;> simp_all
@[simp] theorem State.sendBlocks_locks (s : State)  : (State.sendBlocks s).locks = s.locks := by unfold State.sendBlocks; (repeat' split) <;> simp
@[simp] theorem State.drainWrite_locks (s : State) (st : Nat) (dr : Drain) (i : Nat)  : (State.drainWrite s st dr i).locks = s.locks := by
  unfold State.drainWrite; dsimp only; (repeat' split) <;> simp [hrStage_locks, edStage_locks, skStage_locks]
@[simp] theorem State.drainRow_locks (s : State) (st : Nat) (dr : Drain) (row : AccRow) (chk : Int)  : (State.drainRow s st dr row chk).locks = s.locks := by unfold State.drainRow; dsimp only; (repeat' split) <;> simp_all
@[simp] theorem drainRowCheck_locks (st : Nat) (s : State)  : (drainRowCheck st s).locks = s.locks := by unfold drainRowCheck; (repeat' split) <;> simp
@[simp] theorem State.checkRows_locks (st : Nat) (a : Nat) (a3 : State)  : (State.checkRows st a a3).locks = a3.locks := by fun_induction State.checkRows st a a3 <;> simp_all
@[simp] theorem State.postCred_locks (s : State) (st : Nat) (i : Nat) (k : Nat)  : (State.postCred s st i k).locks = s.locks := by unfold State.postCred; (repeat' split) <;> simp (disch := (intros; (repeat' split) <;> try simp))
@[simp] theorem State.completeOp_locks (s : State) (st : Nat) (o : Op)  : (State.completeOp s st o).locks = s.locks := by unfold State.completeOp; (repeat' split) <;> simp
@[simp] theorem State.settleStand_locks (s : State) (st : Nat)  : (State.settleStand s st).locks = s.locks := by unfold State.settleStand; (repeat' split) <;> simp
@[simp] theorem State.syncOverflow_locks (s : State) (st : Nat) (idx : Nat)  : (State.syncOverflow s st idx).locks = s.locks := by unfold State.syncOverflow; dsimp only; (repeat' split) <;> simp_all
@[simp] theorem State.settleStandCounters_locks (s : State) (st : Nat)  : (State.settleStandCounters s st).locks = s.locks := by unfold State.settleStandCounters; (repeat' split) <;> simp
@[simp] theorem State.updGr_locks (s : State) (d : Nat) (f : GrLd → GrLd)  : (State.updGr s d f).locks = s.locks := by unfold State.updGr; (repeat' split) <;> simp
@[simp] theorem State.settleGrader_locks (s : State) (d : Nat)  : (State.settleGrader s d).locks = s.locks := by unfold State.settleGrader; (repeat' split) <;> simp
@[simp] theorem State.countHeld_locks (s : State) (st : Nat)  : (State.countHeld s st).locks = s.locks := by
  unfold State.countHeld
  extract_lets
  split <;> simp
@[simp] theorem State.updBridge_locks (s : State) (d : Nat) (f : BridgeDom → BridgeDom)  : (State.updBridge s d f).locks = s.locks := by unfold State.updBridge; (repeat' split) <;> simp
@[simp] theorem State.noteLate_locks (s : State) (l : Loc) (d : Nat)  : (State.noteLate s l d).locks = s.locks := by unfold State.noteLate; (repeat' split) <;> simp
@[simp] theorem State.sendFrame_locks (s : State) (p : Nat) (slot : Nat) (f : Frame)  : (State.sendFrame s p slot f).locks = s.locks := by unfold State.sendFrame; dsimp only; (repeat' split) <;> simp_all
@[simp] theorem State.sendLink_locks (s : State) (p : Nat) (f : Flit)  : (State.sendLink s p f).locks = s.locks := by unfold State.sendLink; (repeat' split) <;> simp
@[simp] theorem State.nackEntry_locks (s : State) (l : Loc) : (s.nackEntry l).2.locks = s.locks := by unfold State.nackEntry; simp
@[simp] theorem State.nack_locks (s : State) (l : Loc) (d : Nat) (pl : Payload)  : (State.nack s l d pl).locks = s.locks := by unfold State.nack; simp [State.nackEntry_locks]
@[simp] theorem State.nackFlit_locks (s : State) (l : Loc) (f : Flit)  : (State.nackFlit s l f).locks = s.locks := State.nack_locks ..
@[simp] theorem State.noteE2e_locks (s : State) (l : Loc) (dir : Bool) (pkt : Bool) (port : Nat) (ckt : Nat) (seq : Nat)  : (State.noteE2e s l dir pkt port ckt seq).locks = s.locks := by unfold State.noteE2e; (repeat' split) <;> simp
@[simp] theorem State.egress_locks (s : State) (p : Nat)  : (State.egress s p).locks = s.locks := by unfold State.egress; dsimp only; (repeat' split) <;> simp_all
@[simp] theorem State.egressAll_locks (s : State)  : (State.egressAll s).locks = s.locks := by unfold State.egressAll; (repeat' split) <;> simp
@[simp] theorem State.countGated_locks (s : State)  : (State.countGated s).locks = s.locks := by unfold State.countGated; (repeat' split) <;> simp
@[simp] theorem State.endCycle_locks (s : State)  : (State.endCycle s).locks = s.locks := by unfold State.endCycle; (repeat' split) <;> simp
@[simp] theorem graderPhaseComplete_locks (d : Nat) (s : State)  : (graderPhaseComplete d s).locks = s.locks := by unfold graderPhaseComplete; dsimp only; (repeat' split) <;> simp_all
@[simp] theorem State.settlePhases_locks (s : State)  : (State.settlePhases s).locks = s.locks := by unfold State.settlePhases; (repeat' split) <;> simp
@[simp] theorem State.putEventAll_locks (s : State) (r : List Byte) (a : Nat)  : (State.putEventAll s r a).locks = s.locks := by fun_induction State.putEventAll s r a <;> simp_all
@[simp] theorem State.raiseAll_locks (s : State) (code : Nat) (unit : Nat) (cyc : Nat) (i1 : Nat) (i2 : Nat)  : (State.raiseAll s code unit cyc i1 i2).locks = s.locks := by unfold State.raiseAll; dsimp only; (repeat' split) <;> simp_all
@[simp] theorem State.raisePort_locks (s : State) (code : Nat) (p : Nat) (i2 : Nat)  : (State.raisePort s code p i2).locks = s.locks := by unfold State.raisePort; (repeat' split) <;> simp
@[simp] theorem State.noteAel_locks (s : State) (p : Nat) (kind : Nat) (lseq : Nat) (ckt : Nat)  : (State.noteAel s p kind lseq ckt).locks = s.locks := by unfold State.noteAel; (repeat' split) <;> simp
@[simp] theorem State.updAelSt_locks (s : State) (f : AelSt → AelSt) (h : (f s.ael).seeded = s.ael.seeded) : (State.updAelSt s f).locks = s.locks := by
  unfold State.updAelSt; simp [h]
@[simp] theorem State.chooseClock_locks (s : State)  : (State.chooseClock s).locks = s.locks := by unfold State.chooseClock; dsimp only; (repeat' split) <;> simp_all
@[simp] theorem State.linkDown_locks (s : State) (p : Nat)  : (State.linkDown s p).locks = s.locks := by unfold State.linkDown; dsimp only; (repeat' split) <;> simp_all
@[simp] theorem State.portBoundary_locks (s : State) (p : Nat) : (State.portBoundary s p).locks = s.locks := by
  induction p with
  | zero => rfl
  | succ n ih => unfold State.portBoundary; dsimp only; (repeat' split) <;> simp [ih]
@[simp] theorem State.eachCtx_locks (s : State) (f : State → Nat → State) (hf : ∀ x0 x1, (f x0 x1).locks = x0.locks) : (State.eachCtx s f).locks = s.locks := by unfold State.eachCtx; (repeat' split) <;> simp_all
@[simp] theorem State.queueCtl_locks (s : State) (p : Nat) (type : Nat) (fields : List Nat) (copies : Nat)  : (State.queueCtl s p type fields copies).locks = s.locks := by unfold State.queueCtl; (repeat' split) <;> simp
@[simp] theorem State.twinBoundary_locks (s : State) (d : Nat)  : (State.twinBoundary s d).locks = s.locks := by unfold State.twinBoundary; dsimp only; (repeat' split) <;> simp_all
@[simp] theorem State.restoreRef_locks (s : State)  : (State.restoreRef s).locks = s.locks := by unfold State.restoreRef; (repeat' split) <;> simp
@[simp] theorem State.updCtx_locks (s : State) (d : Nat) (f : PlanCtx → PlanCtx)  : (State.updCtx s d f).locks = s.locks := by unfold State.updCtx; (repeat' split) <;> simp
@[simp] theorem State.askHalt_locks (s : State) (d : Nat) (cause : Nat) (ring : Nat) (unit : Nat)  : (State.askHalt s d cause ring unit).locks = s.locks := by unfold State.askHalt; (repeat' split) <;> simp
@[simp] theorem State.updStands_locks (s : State) (d : Nat) (f : Nat → Stand → Stand)  : (State.updStands s d f).locks = s.locks := by unfold State.updStands; (repeat' split) <;> simp
@[simp] theorem State.toLoaded_locks (s : State) (d : Nat)  : (State.toLoaded s d).locks = s.locks := by unfold State.toLoaded; (repeat' split) <;> simp
@[simp] theorem State.unlock_locks (s : State)  : (State.unlock s).locks = s.locks := by unfold State.unlock; (repeat' split) <;> simp (disch := (intros; (repeat' split) <;> try simp))
@[simp] theorem State.orphanRing_locks (s : State) (heard : Bool)  : (State.orphanRing s heard).locks = s.locks := by unfold State.orphanRing; dsimp only; (repeat' split) <;> simp_all
@[simp] theorem State.lock_locks (s : State)  : (State.lock s).locks = s.locks := by unfold State.lock; (repeat' split) <;> simp
@[simp] theorem State.goodRing_locks (s : State)  : (State.goodRing s).locks = s.locks := by unfold State.goodRing; dsimp only; (repeat' split) <;> simp_all
@[simp] theorem State.cmpBoundary_locks (s : State) (l : Nat → Nat)  : (State.cmpBoundary s l).locks = s.locks := by unfold State.cmpBoundary; (repeat' split) <;> simp
@[simp] theorem State.dropFlits_locks (s : State)  : (State.dropFlits s).locks = s.locks := by unfold State.dropFlits; (repeat' split) <;> simp
@[simp] theorem State.fillWindows_locks (s : State) (d : Nat)  : (State.fillWindows s d).locks = s.locks := by unfold State.fillWindows; (repeat' split) <;> simp
@[simp] theorem State.dropTraffic_locks (s : State) (d : Nat)  : (State.dropTraffic s d).locks = s.locks := by unfold State.dropTraffic; (repeat' split) <;> simp
@[simp] theorem State.freeWaiters_locks (s : State) (d : Nat)  : (State.freeWaiters s d).locks = s.locks := by unfold State.freeWaiters; (repeat' split) <;> simp
@[simp] theorem State.updLnd_locks (s : State) (d : Nat) (f : LndLd → LndLd)  : (State.updLnd s d f).locks = s.locks := by unfold State.updLnd; (repeat' split) <;> simp
@[simp] theorem State.enterHalted_locks (s : State) (d : Nat) (cause : Nat)  : (State.enterHalted s d cause).locks = s.locks := by unfold State.enterHalted; dsimp only; (repeat' split) <;> simp_all
@[simp] theorem State.refillOverrun_locks (s : State) (d : Nat) (unit : Nat)  : (State.refillOverrun s d unit).locks = s.locks := by unfold State.refillOverrun; (repeat' split) <;> simp
@[simp] theorem State.fenced_locks (s : State) (st : Nat) (src : Nat)  : (State.fenced s st src).locks = s.locks := by unfold State.fenced; dsimp only; (repeat' split) <;> simp_all
@[simp] theorem State.landLine_locks (s : State) (d : Nat) (st : Nat) (l : Int) (img : Nat) (words : Nat)  : (State.landLine s d st l img words).locks = s.locks := by unfold State.landLine; dsimp only; (repeat' split) <;> simp_all
@[simp] theorem State.writeTensor_locks (s : State) (d : Nat) (st : Nat) (handle : Nat) (val : Nat → Nat → Nat)  : (State.writeTensor s d st handle val).locks = s.locks := by unfold State.writeTensor; dsimp only; (repeat' split) <;> simp_all
@[simp] theorem State.writeTensors_locks (s : State) (d : Nat) (st : Nat) (live : List Serve) (old : List (Nat × Nat))  : (State.writeTensors s d st live old).locks = s.locks := by unfold State.writeTensors; (repeat' split) <;> simp
@[simp] theorem State.countLive_locks (s : State) (d : Nat)  : (State.countLive s d).locks = s.locks := by unfold State.countLive; (repeat' split) <;> simp
@[simp] theorem State.rewind_locks (s : State) (d : Nat) (r : Nat)  : (State.rewind s d r).locks = s.locks := by unfold State.rewind; dsimp only; (repeat' split) <;> simp_all
@[simp] theorem State.openStep_locks (s : State) (d : Nat) (repeat_ : Bool)  : (State.openStep s d repeat_).locks = s.locks := by unfold State.openStep; (repeat' split) <;> simp
@[simp] theorem State.landingBoundary_locks (s : State) (d : Nat) (step : Nat)  : (State.landingBoundary s d step).locks = s.locks := by unfold State.landingBoundary; (repeat' split) <;> simp
@[simp] theorem State.writeSetMaps_locks (s : State) (d : Nat) : (State.writeSetMaps s d).locks = s.locks := by
  unfold State.writeSetMaps; rw [foldl_locks]; intro s a; rfl
@[simp] theorem State.beginStep_locks (s : State) (d : Nat)  : (State.beginStep s d).locks = s.locks := by unfold State.beginStep; (repeat' split) <;> simp
@[simp] theorem State.updCmp_locks (s : State) (k : Nat) (f : Cmp → Cmp)  : (State.updCmp s k f).locks = s.locks := by unfold State.updCmp; (repeat' split) <;> simp
@[simp] theorem State.askPoint_locks (s : State) (k : Nat) (p : Nat)  : (State.askPoint s k p).locks = s.locks := by unfold State.askPoint; (repeat' split) <;> simp
@[simp] theorem State.schedPoints_locks (s : State) (d : Nat)  : (State.schedPoints s d).locks = s.locks := by unfold State.schedPoints; (repeat' split) <;> simp (disch := (intros; (repeat' split) <;> simp (disch := (intros; (repeat' split) <;> try simp))))
@[simp] theorem State.initPoints_locks (s : State) (d : Nat)  : (State.initPoints s d).locks = s.locks := by unfold State.initPoints; (repeat' split) <;> simp (disch := (intros; (repeat' split) <;> try simp))
@[simp] theorem State.freeSet_locks (s : State) (i : Nat)  : (State.freeSet s i).locks = s.locks := by unfold State.freeSet; (repeat' split) <;> simp
@[simp] theorem State.updBuck_locks (s : State) (d : Nat) (f : BuckLd → BuckLd)  : (State.updBuck s d f).locks = s.locks := by unfold State.updBuck; (repeat' split) <;> simp
@[simp] theorem State.scoutNotch_locks (s : State) (n : Nat)  : (State.scoutNotch s n).locks = s.locks := by unfold State.scoutNotch; (repeat' split) <;> simp
@[simp] theorem State.reachNotch_locks (s : State) (o : NOp)  : (State.reachNotch s o).locks = s.locks := by unfold State.reachNotch; (repeat' split) <;> simp
@[simp] theorem State.releaseSet_locks (s : State) (i : Nat)  : (State.releaseSet s i).locks = s.locks := by unfold State.releaseSet; dsimp only; (repeat' split) <;> simp_all
@[simp] theorem State.updSet_locks (s : State) (i : Nat) (f : SetEnt → SetEnt)  : (State.updSet s i f).locks = s.locks := by unfold State.updSet; (repeat' split) <;> simp
@[simp] theorem State.takeSwitch_locks (s : State) (i : Nat)  : (State.takeSwitch s i).locks = s.locks := by unfold State.takeSwitch; dsimp only; (repeat' split) <;> simp_all
@[simp] theorem State.setBoundary_locks (s : State) (d : Nat) (ring : Nat)  : (State.setBoundary s d ring).locks = s.locks := by unfold State.setBoundary; (repeat' split) <;> simp
@[simp] theorem State.enterRunning_locks (s : State) (d : Nat)  : (State.enterRunning s d).locks = s.locks := by unfold State.enterRunning; simp only [State.takeFree]; (repeat' split) <;> simp (disch := (intros; (repeat' split) <;> simp [apply_ite State.locks, apply_ite Prod.fst, apply_dite State.locks])) [apply_ite State.locks, apply_ite Prod.fst, apply_dite State.locks]
@[simp] theorem State.startRefill_locks (s : State) (d : Nat)  : (State.startRefill s d).locks = s.locks := by unfold State.startRefill; (repeat' split) <;> simp
@[simp] theorem State.armedBoundary_locks (s : State) (d : Nat)  : (State.armedBoundary s d).locks = s.locks := by unfold State.armedBoundary; dsimp only; (repeat' split) <;> simp_all
@[simp] theorem State.noteRing_locks (s : State) (d : Nat)  : (State.noteRing s d).locks = s.locks := by unfold State.noteRing; (repeat' split) <;> simp
@[simp] theorem State.chainStep_locks (s : State) (d : Nat) (a : StepAcc) (step : Nat) (last : Nat)  : (State.chainStep s d a step last).locks = s.locks := by unfold State.chainStep; dsimp only; (repeat' split) <;> simp_all
@[simp] theorem State.closeWaiting_locks (s : State) (d : Nat)  : (State.closeWaiting s d).locks = s.locks := by unfold State.closeWaiting; (repeat' split) <;> simp
@[simp] theorem State.recordStep_locks (s : State) (d : Nat) (step : Nat) (first : Nat) (aborted : Bool)  : (State.recordStep s d step first aborted).locks = s.locks := by unfold State.recordStep; dsimp only; (repeat' split) <;> simp_all
@[simp] theorem State.closeStep_locks (s : State) (d : Nat) (step : Nat) (last : Nat) (now : Bool)  : (State.closeStep s d step last now).locks = s.locks := by unfold State.closeStep; dsimp only; (repeat' split) <;> simp_all
@[simp] theorem State.sendAbort_locks (s : State) (d : Nat) (step : Nat) (except_ : Option Nat)  : (State.sendAbort s d step except_).locks = s.locks := by unfold State.sendAbort; (repeat' split) <;> simp (disch := (intros; (repeat' split) <;> try simp))
@[simp] theorem State.stopStep_locks (s : State) (d : Nat) (cause : Nat) (unit : Nat) (flag : Bool) (last : Nat)  : (State.stopStep s d cause unit flag last).locks = s.locks := by unfold State.stopStep; (repeat' split) <;> simp
@[simp] theorem State.overrun_locks (s : State) (d : Nat) (unit : Nat)  : (State.overrun s d unit).locks = s.locks := by unfold State.overrun; (repeat' split) <;> simp
@[simp] theorem State.tallyFull_locks (s : State) (d : Nat)  : (State.tallyFull s d).locks = s.locks := by unfold State.tallyFull; (repeat' split) <;> simp
@[simp] theorem State.startRing_locks (s : State) (d : Nat) (step : Bool)  : (State.startRing s d step).locks = s.locks := by unfold State.startRing; (repeat' split) <;> simp
@[simp] theorem State.endStep_locks (s : State) (d : Nat)  : (State.endStep s d).locks = s.locks := by unfold State.endStep; dsimp only; (repeat' split) <;> simp_all
@[simp] theorem State.goOn_locks (s : State) (d : Nat)  : (State.goOn s d).locks = s.locks := by unfold State.goOn; dsimp only; (repeat' split) <;> simp_all
@[simp] theorem State.runBoundary_locks (s : State) (d : Nat)  : (State.runBoundary s d).locks = s.locks := by unfold State.runBoundary; dsimp only; (repeat' split) <;> simp_all
@[simp] theorem State.ctxBoundary_locks (s : State) (d : Nat)  : (State.ctxBoundary s d).locks = s.locks := by unfold State.ctxBoundary; (repeat' split) <;> simp
@[simp] theorem State.shiftBoundary_locks (s : State)  : (State.shiftBoundary s).locks = s.locks := by unfold State.shiftBoundary; (repeat' split) <;> simp
@[simp] theorem State.updBc_locks (s : State) (d : Nat) (f : Bcast → Bcast)  : (State.updBc s d f).locks = s.locks := by unfold State.updBc; (repeat' split) <;> simp
@[simp] theorem State.bcastBoundary_locks (s : State) (d : Nat)  : (State.bcastBoundary s d).locks = s.locks := by unfold State.bcastBoundary; dsimp only; (repeat' split) <;> simp_all
@[simp] theorem State.sign_locks (s : State) (d : Nat)  : (State.sign s d).locks = s.locks := by unfold State.sign; (repeat' split) <;> simp
@[simp] theorem State.signAll_locks (s : State) (d : Nat) (a : Nat)  : (State.signAll s d a).locks = s.locks := by fun_induction State.signAll s d a <;> simp_all
@[simp] theorem State.putUnits_locks (s : State) (d : Nat) (a : List (List Byte))  : (State.putUnits s d a).locks = s.locks := by fun_induction State.putUnits s d a <;> simp_all
@[simp] theorem stepRecord_locks (d : Nat) (s : State)  : (stepRecord d s).locks = s.locks := by unfold stepRecord; dsimp only; (repeat' split) <;> simp_all
@[simp] theorem State.recordAll_locks (s : State) (d : Nat) (a : Nat)  : (State.recordAll s d a).locks = s.locks := by fun_induction State.recordAll s d a <;> simp_all
@[simp] theorem State.flushLd_locks (s : State) (d : Nat)  : (State.flushLd s d).locks = s.locks := by unfold State.flushLd; (repeat' split) <;> simp
@[simp] theorem State.flushIfStopped_locks (s : State)  : (State.flushIfStopped s).locks = s.locks := by unfold State.flushIfStopped; (repeat' split) <;> simp
@[simp] theorem State.updMemDom_locks (s : State) (d : Nat) (f : MemDom → MemDom)  : (State.updMemDom s d f).locks = s.locks := by unfold State.updMemDom; (repeat' split) <;> simp
@[simp] theorem State.noteMem_locks (s : State) (dom : Nat) (kind : Nat) (cls : Nat) (a : Nat) (cause : Nat) (count : Nat) (stand : Nat) (item : Nat)  : (State.noteMem s dom kind cls a cause count stand item).locks = s.locks := by unfold State.noteMem; (repeat' split) <;> simp
@[simp] theorem State.readSystem_locks (s : State) (d : Nat) (a : Nat) (n : Nat)  : (State.readSystem s d a n).1.locks = s.locks := by unfold State.readSystem; dsimp only; (repeat' split) <;> simp_all
@[simp] theorem State.readPage_locks (s : State) (d : Nat) (v : Nat)  : (State.readPage s d v).1.locks = s.locks := by unfold State.readPage; simp
@[simp] theorem State.buildBank_locks (s : State) (n : Nat)  : (State.buildBank s n).locks = s.locks := by unfold State.buildBank; (repeat' split) <;> simp
@[simp] theorem State.sendMarks_locks (s : State) (n : Nat) : (State.sendMarks s n).locks = s.locks := by
  induction n with
  | zero => rfl
  | succ n ih => unfold State.sendMarks; dsimp only; (repeat' split) <;> simp [ih]
@[simp] theorem State.pulseRing_locks (s : State)  : (State.pulseRing s).locks = s.locks := rfl
@[simp] theorem State.asPlanLd_locks (s : State) (d : Nat) (off : Nat) (f : State → State) (hf : ∀ x0, (f x0).locks = x0.locks) : (State.asPlanLd s d off f).locks = s.locks := by unfold State.asPlanLd; (repeat' split) <;> simp_all
@[simp] theorem State.command_locks (s : State) (d : Nat) (st : Nat) (f : State → State) (hf : ∀ x0, (f x0).locks = x0.locks) : (State.command s d st f).locks = s.locks := by unfold State.command; (repeat' split) <;> simp_all
@[simp] theorem State.writeNode_locks (s : State) (i : StandImg)  : (State.writeNode s i).locks = s.locks := by unfold State.writeNode; (repeat' split) <;> simp
@[simp] theorem State.loadStand_locks (s : State) (d : Nat) (i : StandImg)  : (State.loadStand s d i).locks = s.locks := by unfold State.loadStand; (repeat' split) <;> simp
@[simp] theorem State.writeDevice_locks (s : State) (g : Dom) (ss : List Sect)  : (State.writeDevice s g ss).locks = s.locks := by unfold State.writeDevice; (repeat' split) <;> simp
@[simp] theorem State.chainPlan_locks (s : State) (d : Nat) (kind : Nat) (model : Nat)  : (State.chainPlan s d kind model).locks = s.locks := by unfold State.chainPlan; (repeat' split) <;> simp
@[simp] theorem State.loadPlan_locks (s : State) (d : Nat) (tag : Nat) (c : Nat)  : (State.loadPlan s d tag c).locks = s.locks := by unfold State.loadPlan; (repeat' split) <;> simp
@[simp] theorem load_locks (d : Nat) (tag : Nat) (c : Nat) (s : State)  : (load d tag c s).locks = s.locks := by unfold load; (repeat' split) <;> simp
@[simp] theorem State.leaveSelfRefresh_locks (s : State) (d : Nat)  : (State.leaveSelfRefresh s d).locks = s.locks := by unfold State.leaveSelfRefresh; (repeat' split) <;> simp
@[simp] theorem State.armPlan_locks (s : State) (d : Nat) (n : Nat) (resume : Bool)  : (State.armPlan s d n resume).locks = s.locks := by unfold State.armPlan; (repeat' split) <;> simp
@[simp] theorem arm_locks (d : Nat) (resume : Bool) (s : State)  : (arm d resume s).locks = s.locks := by unfold arm; (repeat' split) <;> simp
@[simp] theorem go_locks (d : Nat) (s : State)  : (go d s).locks = s.locks := by unfold go; (repeat' split) <;> simp
@[simp] theorem stop_locks (d : Nat) (s : State) : (stop d s).locks = s.locks := by
  unfold stop; rw [State.command_locks]; intro s; (repeat' split) <;> simp
@[simp] theorem disarm_locks (d : Nat) (s : State) : (disarm d s).locks = s.locks := by
  unfold disarm; rw [State.command_locks]; intro s; (repeat' split) <;> simp
@[simp] theorem State.unloadLanding_locks (s : State) (d : Nat)  : (State.unloadLanding s d).locks = s.locks := by unfold State.unloadLanding; (repeat' split) <;> simp
@[simp] theorem State.unloadPlan_locks (s : State) (d : Nat)  : (State.unloadPlan s d).locks = s.locks := by unfold State.unloadPlan; (repeat' split) <;> simp (disch := (intros; (repeat' split) <;> try simp))
@[simp] theorem unload_locks (d : Nat) (s : State)  : (unload d s).locks = s.locks := by unfold unload; (repeat' split) <;> simp (disch := (intros; (repeat' split) <;> try simp))
@[simp] theorem abort_locks (p : Nat) (tag : Nat) (step : Nat) (s : State)  : (abort p tag step s).locks = s.locks := by unfold abort; dsimp only; (repeat' split) <;> simp_all
@[simp] theorem instructionComplete_locks (st : Nat) (k : Nat) (s : State)  : (instructionComplete st k s).locks = s.locks := by unfold instructionComplete; (repeat' split) <;> simp
@[simp] theorem State.parityFault_locks (s : State) (st : Nat) (stream : Nat) (store : Nat)  : (State.parityFault s st stream store).locks = s.locks := by unfold State.parityFault; (repeat' split) <;> simp
@[simp] theorem State.consume_locks (s : State) (st : Nat) (h : Hdr) (rcomb : Option Nat)  : (State.consume s st h rcomb).locks = s.locks := by unfold State.consume; (repeat' split) <;> simp
@[simp] theorem State.noteSlip_locks (s : State) (d : Nat) (unit : Nat) (late : Nat) (cyc : Nat)  : (State.noteSlip s d unit late cyc).locks = s.locks := by unfold State.noteSlip; dsimp only; (repeat' split) <;> simp_all
@[simp] theorem State.beginIssue_locks (s : State) (st : Nat) (k : Nat) (h : Hdr) (rcomb : Option Nat) (occ : Nat)  : (State.beginIssue s st k h rcomb occ).locks = s.locks := by unfold State.beginIssue; dsimp only; (repeat' split) <;> simp_all
@[simp] theorem State.addOp_locks (s : State) (st : Nat) (k : Nat) (h : Hdr) (due : Nat) (sus : Bool) (kind : OpKind)  : (State.addOp s st k h due sus kind).locks = s.locks := by unfold State.addOp; (repeat' split) <;> simp
@[simp] theorem State.startJob_locks (s : State) (stage : Stage) (st : Nat) (id : Nat) (stream : Nat) (kind : JobKind) (sus : Bool) (acts : List (Nat × Act)) (hstage : ∀ x0 x1 x2 x3, (stage x0 x1 x2 x3).locks = x3.locks) : (State.startJob s stage st id stream kind sus acts).locks = s.locks := by unfold State.startJob; (repeat' split) <;> simp_all
@[simp] theorem hrLoadEffect_locks (st : Nat) (h : Hdr) (handle : Nat) (tile : Nat) (buf : Nat) (arEn : Bool) (areg : Nat) (s : State)  : (hrLoadEffect st h handle tile buf arEn areg s).locks = s.locks := by
  unfold hrLoadEffect; dsimp only; (repeat' split) <;> simp [hrStage_locks, edStage_locks, skStage_locks]
@[simp] theorem hrMulEffect_locks (st : Nat) (h : Hdr) (handle : Nat) (buf : Nat) (rows : Nat) (r0 : Nat) (init : Bool) (arEn : Bool) (areg : Nat) (s : State)  : (hrMulEffect st h handle buf rows r0 init arEn areg s).locks = s.locks := by
  unfold hrMulEffect; dsimp only; (repeat' split) <;> simp [hrStage_locks, edStage_locks, skStage_locks]
@[simp] theorem hrAddxEffect_locks (st : Nat) (h : Hdr) (handle : Nat) (fp32 : Bool) (rows : Nat) (r0 : Nat) (init : Bool) (arEn : Bool) (areg : Nat) (s : State)  : (hrAddxEffect st h handle fp32 rows r0 init arEn areg s).locks = s.locks := by
  unfold hrAddxEffect; dsimp only; (repeat' split) <;> simp [hrStage_locks, edStage_locks, skStage_locks]
@[simp] theorem hrDrainEffect_locks (st : Nat) (h : Hdr) (handle : Nat) (rows : Nat) (r0 : Nat) (fmt : Nat) (sat : Bool) (adj : Int) (push : Bool) (tag : Nat) (arEn : Bool) (areg : Nat) (s : State)  : (hrDrainEffect st h handle rows r0 fmt sat adj push tag arEn areg s).locks = s.locks := by
  unfold hrDrainEffect; dsimp only; (repeat' split) <;> simp [hrStage_locks]
@[simp] theorem standHrInject_locks (st : Nat) (v : Nat) (s : State)  : (standHrInject st v s).locks = s.locks := by unfold standHrInject; (repeat' split) <;> simp
@[simp] theorem edOpenEffect_locks (st : Nat) (h : Hdr) (slot : Nat) (handle : Nat) (out : Bool) (wrap : Bool) (arEn : Bool) (areg : Nat) (s : State)  : (edOpenEffect st h slot handle out wrap arEn areg s).locks = s.locks := by
  unfold edOpenEffect; dsimp only; (repeat' split) <;> simp [hrStage_locks, edStage_locks, skStage_locks]
@[simp] theorem edCloseEffect_locks (st : Nat) (h : Hdr) (slot : Nat) (s : State)  : (edCloseEffect st h slot s).locks = s.locks := by unfold edCloseEffect; (repeat' split) <;> simp
@[simp] theorem edTakeEffect_locks (st : Nat) (h : Hdr) (slot : Nat) (e : Ftq) (s : State)  : (edTakeEffect st h slot e s).locks = s.locks := by unfold edTakeEffect; (repeat' split) <;> simp
@[simp] theorem edEffect_locks (k : EdKind) (st : Nat) (o : EdOp) (s : State)  : (edEffect k st o s).locks = s.locks := by
  unfold edEffect; dsimp only; (repeat' split) <;> simp [hrStage_locks, edStage_locks, skStage_locks]
@[simp] theorem standEdInject_locks (st : Nat) (v : Nat) (s : State)  : (standEdInject st v s).locks = s.locks := by unfold standEdInject; (repeat' split) <;> simp
@[simp] theorem State.skIssue_locks (stage : Stage) (s : State) (st : Nat) (h : Hdr) (kind : JobKind) (ix : List Int) (hstage : ∀ x0 x1 x2 x3, (stage x0 x1 x2 x3).locks = x3.locks) : (State.skIssue stage s st h kind ix).locks = s.locks := by unfold State.skIssue; (repeat' split) <;> simp_all
@[simp] theorem skMoveEffect_locks (st : Nat) (h : Hdr) (src : Nat) (dst : Nat) (sEn : Bool) (sReg : Nat) (dEn : Bool) (dReg : Nat) (dtok : Nat) (grain : Nat) (s : State)  : (skMoveEffect st h src dst sEn sReg dEn dReg dtok grain s).locks = s.locks := by
  unfold skMoveEffect; dsimp only; (repeat' split) <;> simp [hrStage_locks, edStage_locks, skStage_locks]
@[simp] theorem skAtomEffect_locks (st : Nat) (h : Hdr) (op : Nat) (tgt : Nat) (src : Nat) (ret : Nat) (arEn : Bool) (areg : Nat) (imm : Nat) (s : State)  : (skAtomEffect st h op tgt src ret arEn areg imm s).locks = s.locks := by
  unfold skAtomEffect; dsimp only; (repeat' split) <;> simp [hrStage_locks, edStage_locks, skStage_locks]
@[simp] theorem State.bankIssue_locks (s : State) (st : Nat) (h : Hdr) (a3 : Later) (k : Nat)  : (State.bankIssue s st h a3 k).locks = s.locks := by unfold State.bankIssue; (repeat' split) <;> simp
@[simp] theorem skScrubEffect_locks (st : Nat) (h : Hdr) (first : Nat) (lines : Nat) (s : State)  : (skScrubEffect st h first lines s).locks = s.locks := by
  unfold skScrubEffect; dsimp only; (repeat' split) <;> simp [hrStage_locks, edStage_locks, skStage_locks]
@[simp] theorem skBinEffect_locks (st : Nat) (h : Hdr) (key : Nat) (list : Nat) (pos : Nat) (b : Nat) (s : State)  : (skBinEffect st h key list pos b s).locks = s.locks := by
  unfold skBinEffect; dsimp only; (repeat' split) <;> simp [hrStage_locks, edStage_locks, skStage_locks]
@[simp] theorem standDkInject_locks (st : Nat) (v : Nat) (s : State)  : (standDkInject st v s).locks = s.locks := by unfold standDkInject; (repeat' split) <;> simp
@[simp] theorem nopEffect_locks (st : Nat) (k : Nat) (h : Hdr) (s : State)  : (nopEffect st k h s).locks = s.locks := by unfold nopEffect; (repeat' split) <;> simp
@[simp] theorem arEffect_locks (st : Nat) (k : Nat) (stamp : Nat) (rd : Nat) (v : Stand → Nat) (s : State)  : (arEffect st k stamp rd v s).locks = s.locks := by unfold arEffect; (repeat' split) <;> simp
@[simp] theorem fgPostEffect_locks (st : Nat) (h : Hdr) (credit : Bool) (ctr : Nat) (amt : Nat) (route : Nat) (s : State)  : (fgPostEffect st h credit ctr amt route s).locks = s.locks := by unfold fgPostEffect; (repeat' split) <;> simp
@[simp] theorem fgNotchEffect_locks (st : Nat) (h : Hdr) (op : Nat) (notch : Nat) (ret : Nat) (route : Nat) (value : Nat) (s : State)  : (fgNotchEffect st h op notch ret route value s).locks = s.locks := by unfold fgNotchEffect; (repeat' split) <;> simp
@[simp] theorem State.checkDst_locks (s : State) (f : Flit) (outs : List Conn)  : (State.checkDst s f outs).1.locks = s.locks := by unfold State.checkDst; (repeat' split) <;> simp
@[simp] theorem State.keepFlit_locks (s : State) (l : Loc) (f : Flit)  : (State.keepFlit s l f).locks = s.locks := by unfold State.keepFlit; (repeat' split) <;> simp
@[simp] theorem State.placeFlits_locks (s : State) (fs : List Flit)  : (State.placeFlits s fs).locks = s.locks := by unfold State.placeFlits; (repeat' split) <;> simp
@[simp] theorem State.countFlit_locks (s : State) (l : Loc) (d : Nat)  : (State.countFlit s l d).locks = s.locks := by unfold State.countFlit; (repeat' split) <;> simp
@[simp] theorem State.flitLeft_locks (s : State) (f : Flit)  : (State.flitLeft s f).locks = s.locks := by unfold State.flitLeft; dsimp only; (repeat' split) <;> simp_all
@[simp] theorem State.logSent_locks (s : State) (l : Loc) (it : Sent)  : (State.logSent s l it).locks = s.locks := by unfold State.logSent; (repeat' split) <;> simp
@[simp] theorem State.scoutLine_locks (s : State) (f : Flit) (t : Nat)  : (State.scoutLine s f t).locks = s.locks := by unfold State.scoutLine; dsimp only; (repeat' split) <;> simp_all
@[simp] theorem State.sendFlit_locks (s : State) (l : Loc) (f : Flit) (copies : List Flit) (t : Nat) (late : Bool)  : (State.sendFlit s l f copies t late).locks = s.locks := by unfold State.sendFlit; (repeat' split) <;> simp (disch := (intros; (repeat' split) <;> simp (disch := (intros; (repeat' split) <;> try simp))))
@[simp] theorem flitForward_locks (l : Loc) (out : Nat) (parity : Bool) (s : State)  : (flitForward l out parity s).locks = s.locks := by unfold flitForward; dsimp only; (repeat' split) <;> simp_all
@[simp] theorem State.disarmFl_locks (s : State) (l : Loc) (hit : Bool)  : (State.disarmFl s l hit).locks = s.locks := by unfold State.disarmFl; (repeat' split) <;> simp
@[simp] theorem State.openTrack_locks (s : State) (st : Nat) (f : Flit)  : (State.openTrack s st f).locks = s.locks := by unfold State.openTrack; dsimp only; (repeat' split) <;> simp_all
@[simp] theorem State.resendExhausted_locks (s : State) (l : Loc) (d : Nat) (chan : Nat) (seq : Nat)  : (State.resendExhausted s l d chan seq).locks = s.locks := by unfold State.resendExhausted; (repeat' split) <;> simp
@[simp] theorem State.endTrack_locks (s : State) (st : Nat) (t : Track)  : (State.endTrack s st t).locks = s.locks := by unfold State.endTrack; (repeat' split) <;> simp
@[simp] theorem State.trackFlit_locks (s : State) (st : Nat) (f : Flit) (failed : Bool) (sus : Bool)  : (State.trackFlit s st f failed sus).locks = s.locks := by unfold State.trackFlit; simp only []; (repeat' split) <;> simp (disch := (intros; (repeat' split) <;> try simp))
@[simp] theorem flitArrival_locks (st : Nat) (corrupt : Bool) (s : State)  : (flitArrival st corrupt s).locks = s.locks := by unfold flitArrival; dsimp only; (repeat' split) <;> simp_all
@[simp] theorem State.dropPacket_locks (s : State) (p : Packet)  : (State.dropPacket s p).locks = s.locks := by unfold State.dropPacket; (repeat' split) <;> simp
@[simp] theorem State.routeFault_locks (s : State) (p : Packet)  : (State.routeFault s p).locks = s.locks := by unfold State.routeFault; (repeat' split) <;> simp
@[simp] theorem State.dropFaulty_locks (s : State) (l : Loc)  : (State.dropFaulty s l).locks = s.locks := by unfold State.dropFaulty; (repeat' split) <;> simp
@[simp] theorem State.packetLeft_locks (s : State) (l : Loc) (p : Packet)  : (State.packetLeft s l p).locks = s.locks := by unfold State.packetLeft; (repeat' split) <;> simp
@[simp] theorem State.countPkt_locks (s : State) (l : Loc) (d : Nat)  : (State.countPkt s l d).locks = s.locks := by unfold State.countPkt; (repeat' split) <;> simp
@[simp] theorem State.gather_locks (s : State) (l : Loc) (c : Conn) (a : Nat) (a5 : List Packet)  : (State.gather s l c a a5).1.locks = s.locks := by fun_induction State.gather s l c a a5 <;> simp_all +zetaDelta
@[simp] theorem State.linkPackets_locks (s : State) (p : Nat) (ps : List Packet)  : (State.linkPackets s p ps).locks = s.locks := by unfold State.linkPackets; (repeat' split) <;> simp
@[simp] theorem State.sendPacket_locks (s : State) (l : Loc) (p : Packet) (c : Conn) (t : Nat)  : (State.sendPacket s l p c t).locks = s.locks := by unfold State.sendPacket; dsimp only; (repeat' split) <;> simp_all
@[simp] theorem packetForward_locks (l : Loc) (out : Nat) (s : State)  : (packetForward l out s).locks = s.locks := by unfold packetForward; dsimp only; (repeat' split) <;> (try simp only) <;> (repeat' split) <;> simp
@[simp] theorem State.deliver_locks (s : State) (l : Loc) (p : Packet)  : (State.deliver s l p).1.locks = s.locks := by unfold State.deliver; (repeat' split) <;> simp
@[simp] theorem State.failPacket_locks (s : State) (l : Loc) (p : Packet) (check : Bool)  : (State.failPacket s l p check).locks = s.locks := by unfold State.failPacket; dsimp only; (repeat' split) <;> simp_all
@[simp] theorem State.takePacket_locks (s : State) (l : Loc) (corrupt : Bool) (want : Payload → Bool)  : (State.takePacket s l corrupt want).1.locks = s.locks := by unfold State.takePacket; simp only []; (repeat' split) <;> simp (disch := (intros; (repeat' split) <;> try simp))
@[simp] theorem State.postGr_locks (s : State) (d : Nat) (i : Nat) (k : Nat) (sus : Bool)  : (State.postGr s d i k sus).locks = s.locks := by unfold State.postGr; dsimp only; (repeat' split) <;> simp_all
@[simp] theorem tokenArrives_locks (l : Loc) (corrupt : Bool) (s : State)  : (tokenArrives l corrupt s).locks = s.locks := by unfold tokenArrives; dsimp only; (repeat' split) <;> simp_all
@[simp] theorem atomicArrives_locks (st : Nat) (corrupt : Bool) (s : State)  : (atomicArrives st corrupt s).locks = s.locks := by unfold atomicArrives; dsimp only; (repeat' split) <;> simp_all
@[simp] theorem atomReplyArrives_locks (st : Nat) (corrupt : Bool) (s : State)  : (atomReplyArrives st corrupt s).locks = s.locks := by unfold atomReplyArrives; dsimp only; (repeat' split) <;> simp_all
@[simp] theorem nackArrives_locks (l : Loc) (corrupt : Bool) (s : State)  : (nackArrives l corrupt s).locks = s.locks := by unfold nackArrives; dsimp only; (repeat' split) <;> simp_all
@[simp] theorem State.countResend_locks (s : State) (src : Loc) (d : Nat)  : (State.countResend s src d).locks = s.locks := by unfold State.countResend; (repeat' split) <;> simp
@[simp] theorem State.resendItem_locks (s : State) (src : Loc) (l : Loc) (inp : Nat) (t : Nat) (cs : List Conn) (c : Conn) (e : LogEnt) (b : Bool)  : (State.resendItem s src l inp t cs c e b).locks = s.locks := by unfold State.resendItem; dsimp only; (repeat' split) <;> simp_all
@[simp] theorem flumeResend_locks (src : Loc) (out : Nat) (s : State)  : (flumeResend src out s).locks = s.locks := by unfold flumeResend; dsimp only; (repeat' split) <;> simp_all
@[simp] theorem standFlInject_locks (st : Nat) (v : Nat) (s : State)  : (standFlInject st v s).locks = s.locks := by unfold standFlInject; (repeat' split) <;> simp
@[simp] theorem State.askResend_locks (s : State) (p : Nat) (lseq : Nat) (n : Nat)  : (State.askResend s p lseq n).locks = s.locks := by unfold State.askResend; (repeat' split) <;> simp
@[simp] theorem State.putFlit_locks (s : State) (p : Nat) (d : Nat) (slot : Nat) (half : Nat) (f : Flit)  : (State.putFlit s p d slot half f).locks = s.locks := rfl
@[simp] theorem State.lostHalf_locks (s : State) (p : Nat) (d : Nat) (slot : Nat) (f : Frame)  : (State.lostHalf s p d slot f).locks = s.locks := by unfold State.lostHalf; (repeat' split) <;> simp
@[simp] theorem State.lostFrames_locks (p : Nat) (d : Nat) (f : Frame) (a : Nat) (a5 : Nat) (a6 : State)  : (State.lostFrames p d f a a5 a6).locks = a6.locks := by
  induction a5 generalizing f a a6 with
  | zero => rfl
  | succ n ih => rw [State.lostFrames, ih]; split <;> simp
@[simp] theorem State.frameLost_locks (s : State) (p : Nat) (slot : Nat) (f : Frame) (n : Nat) (fec : Bool)  : (State.frameLost s p slot f n fec).locks = s.locks := by unfold State.frameLost; dsimp only; (repeat' split) <;> simp_all
@[simp] theorem State.tagDrop_locks (s : State) (p : Nat) (tag : Nat)  : (State.tagDrop s p tag).locks = s.locks := by unfold State.tagDrop; dsimp only; (repeat' split) <;> simp_all
@[simp] theorem State.putPackets_locks (s : State) (p : Nat) (d : Nat) (slot : Nat) (f : Frame)  : (State.putPackets s p d slot f).locks = s.locks := by unfold State.putPackets; (repeat' split) <;> simp
@[simp] theorem State.takeHalf_locks (s : State) (p : Nat) (d : Nat) (slot : Nat) (f : Frame)  : (State.takeHalf s p d slot f).locks = s.locks := by unfold State.takeHalf; (repeat' split) <;> simp
@[simp] theorem State.takeFrame_locks (s : State) (p : Nat) (slot : Nat) (f : Frame)  : (State.takeFrame s p slot f).locks = s.locks := by unfold State.takeFrame; dsimp only; (repeat' split) <;> simp_all
@[simp] theorem frameReceive_locks (p : Nat) (slot : Nat) (f : Frame) (lost : Nat) (corr : Nat) (words : Nat) (s : State)  : (frameReceive p slot f lost corr words s).locks = s.locks := by unfold frameReceive; dsimp only; (repeat' split) <;> simp_all
@[simp] theorem State.linkExhausted_locks (s : State) (p : Nat) (lseq : Nat)  : (State.linkExhausted s p lseq).locks = s.locks := by unfold State.linkExhausted; dsimp only; (repeat' split) <;> simp_all
@[simp] theorem resendReq_locks (p : Nat) (first : Nat) (count : Nat) (s : State)  : (resendReq p first count s).locks = s.locks := by unfold resendReq; dsimp only; (repeat' split) <;> simp_all
@[simp] theorem linkResend_locks (p : Nat) (s : State)  : (linkResend p s).locks = s.locks := by unfold linkResend; dsimp only; (repeat' split) <;> simp_all
@[simp] theorem State.judgePhase_locks (s : State) (err : Int) : (s.judgePhase err).locks = s.locks := by
  have h : (s.updAelSt fun a => { a with phase := err }).locks = s.locks := by simp
  unfold State.judgePhase
  rw [← h]
  generalize (s.updAelSt fun a => { a with phase := err }) = u
  dsimp only
  (repeat' split) <;> simp
@[simp] theorem ringMark_locks (p : Nat) (ring : Nat) (gm : Nat) (hops : Nat) (locked : Bool) (arr : Int) (s : State)  : (ringMark p ring gm hops locked arr s).locks = s.locks := by unfold ringMark; dsimp only; (repeat' split) <;> simp_all
@[simp] theorem echo_locks (p : Nat) (sent : Nat) (arr : Nat) (turn : Nat) (s : State)  : (echo p sent arr turn s).locks = s.locks := by unfold echo; dsimp only; (repeat' split) <;> simp_all
@[simp] theorem discover_locks (p : Nat) (b : Discover) (s : State)  : (discover p b s).locks = s.locks := by unfold discover; dsimp only; (repeat' split) <;> simp_all
@[simp] theorem twin_locks (p : Nat) (ring : Nat) (dig : Nat) (s : State)  : (twin p ring dig s).locks = s.locks := by unfold twin; dsimp only; (repeat' split) <;> simp_all
@[simp] theorem twinCompare_locks (d : Nat) (s : State)  : (twinCompare d s).locks = s.locks := by unfold twinCompare; dsimp only; (repeat' split) <;> simp_all
@[simp] theorem State.portCmd_locks (s : State) (p : Nat) (ld : Option Nat) (f : State → State) (hf : ∀ x0, (f x0).locks = x0.locks) : (State.portCmd s p ld f).locks = s.locks := by unfold State.portCmd; (repeat' split) <;> simp_all
@[simp] theorem retrain_locks (p : Nat) (ld : Option Nat) (s : State)  : (retrain p ld s).locks = s.locks := by unfold retrain; (repeat' split) <;> simp (disch := (intros; (repeat' split) <;> try simp))
@[simp] theorem linkTrained_locks (p : Nat) (flight : Nat) (ok : Bool) (s : State)  : (linkTrained p flight ok s).locks = s.locks := by unfold linkTrained; (repeat' split) <;> simp
@[simp] theorem refLost_locks (s : State)  : (refLost s).locks = s.locks := by unfold refLost; (repeat' split) <;> simp
@[simp] theorem State.asLd_locks (s : State) (d : Nat) (off : Nat) (f : State → State) (hf : ∀ x0, (f x0).locks = x0.locks) : (State.asLd s d off f).locks = s.locks := by unfold State.asLd; (repeat' split) <;> simp_all
@[simp] theorem State.epochRefused_locks (s : State) (d : Nat)  : (State.epochRefused s d).locks = s.locks := by unfold State.epochRefused; dsimp only; (repeat' split) <;> simp_all
@[simp] theorem State.bumpEpoch_locks (s : State) (d : Nat) (a2 : Change)  : (State.bumpEpoch s d a2).locks = s.locks := by unfold State.bumpEpoch; (repeat' split) <;> simp
@[simp] theorem State.putChange_locks (s : State) (a1 : Change)  : (State.putChange s a1).locks = s.locks := by unfold State.putChange; (repeat' split) <;> simp
@[simp] theorem State.change_locks (s : State) (d : Nat) (port : Nat) (off : Nat) (sel : Nat) (old : Nat) (new : Nat) (f : State → State) (hf : ∀ x0, (f x0).locks = x0.locks) : (State.change s d port off sel old new f).locks = s.locks := by unfold State.change; dsimp only; (repeat' split) <;> simp_all
@[simp] theorem aelMapData_locks (d : Nat) (v : Nat) (s : State)  : (aelMapData d v s).locks = s.locks := by unfold aelMapData; dsimp only; (repeat' split) <;> simp_all
@[simp] theorem notchPacket_locks (op : Nat) (corrupt : Bool) (s : State)  : (notchPacket op corrupt s).locks = s.locks := by unfold notchPacket; dsimp only; (repeat' split) <;> simp_all
@[simp] theorem State.arriveBytes_locks (s : State) (st : Nat) (ws : Writes)  : (State.arriveBytes s st ws).1.locks = s.locks := by unfold State.arriveBytes; (repeat' split) <;> simp
@[simp] theorem notchReplyArrives_locks (st : Nat) (corrupt : Bool) (s : State)  : (notchReplyArrives st corrupt s).locks = s.locks := by unfold notchReplyArrives; dsimp only; (repeat' split) <;> simp_all
@[simp] theorem State.hostNotch_locks (s : State) (ld : Nat) (n : Nat) (f : State → State) (hf : ∀ x0, (f x0).locks = x0.locks) : (State.hostNotch s ld n f).locks = s.locks := by unfold State.hostNotch; (repeat' split) <;> simp_all
@[simp] theorem hostNotchSet_locks (ld : Nat) (n : Nat) (v : Nat) (s : State)  : (hostNotchSet ld n v s).locks = s.locks := by unfold hostNotchSet; (repeat' split) <;> simp
@[simp] theorem hostNotchAdd_locks (ld : Nat) (n : Nat) (v : Nat) (s : State)  : (hostNotchAdd ld n v s).locks = s.locks := by unfold hostNotchAdd; (repeat' split) <;> simp
@[simp] theorem hostNotchMode_locks (ld n v : Nat) (s : State) : (hostNotchMode ld n v s).locks = s.locks := by
  unfold hostNotchMode; rw [State.hostNotch_locks]; intro s; rw [State.change_locks]; intro s; rfl
@[simp] theorem State.readContext_locks (s : State) (d : Nat) (q : Nat)  : (State.readContext s d q).locks = s.locks := by unfold State.readContext; (repeat' split) <;> simp
@[simp] theorem State.updQld_locks (s : State) (d : Nat) (f : QueueLd → QueueLd)  : (State.updQld s d f).locks = s.locks := by unfold State.updQld; (repeat' split) <;> simp
@[simp] theorem State.touchQueue_locks (s : State) (d : Nat) (q : Nat)  : (State.touchQueue s d q).locks = s.locks := by unfold State.touchQueue; dsimp only; (repeat' split) <;> simp_all
@[simp] theorem State.onQueue_locks (s : State) (d : Nat) (q : Nat) (f : State → State) (hf : ∀ x0, (f x0).locks = x0.locks) : (State.onQueue s d q f).locks = s.locks := by unfold State.onQueue; (repeat' split) <;> simp_all
@[simp] theorem State.updQueue_locks (s : State) (q : Nat) (f : Queue → Queue)  : (State.updQueue s q f).locks = s.locks := by unfold State.updQueue; (repeat' split) <;> simp
@[simp] theorem State.faultQueue_locks (s : State) (d : Nat) (q : Nat) (status : Nat) (idx : Nat)  : (State.faultQueue s d q status idx).locks = s.locks := by unfold State.faultQueue; (repeat' split) <;> simp
@[simp] theorem enableQueue_locks (d : Nat) (q : Nat) (s : State)  : (enableQueue d q s).locks = s.locks := by unfold enableQueue; (repeat' split) <;> simp (disch := (intros; (repeat' split) <;> try simp))
@[simp] theorem disableQueue_locks (d : Nat) (q : Nat) (s : State)  : (disableQueue d q s).locks = s.locks := by unfold disableQueue; (repeat' split) <;> simp
@[simp] theorem resumeQueue_locks (d : Nat) (q : Nat) (s : State)  : (resumeQueue d q s).locks = s.locks := by unfold resumeQueue; (repeat' split) <;> simp (disch := (intros; (repeat' split) <;> try simp))
@[simp] theorem resetQueue_locks (d : Nat) (q : Nat) (s : State)  : (resetQueue d q s).locks = s.locks := by unfold resetQueue; (repeat' split) <;> simp
@[simp] theorem qctxDoorbell_locks (d : Nat) (v : Nat) (s : State)  : (qctxDoorbell d v s).locks = s.locks := by unfold qctxDoorbell; dsimp only; (repeat' split) <;> simp_all
@[simp] theorem qctxData_locks (d : Nat) (v : Nat) (s : State)  : (qctxData d v s).locks = s.locks := by unfold qctxData; (repeat' split) <;> simp (disch := (intros; (repeat' split) <;> try simp))
@[simp] theorem State.readDram_locks (s : State) (dom : Nat) (stand : Nat) (cls : Nat) (a : Nat)  : (State.readDram s dom stand cls a).1.locks = s.locks := by unfold State.readDram; simp only [State.takeFree]; (repeat' split) <;> simp (disch := (intros; (repeat' split) <;> simp [apply_ite State.locks, apply_ite Prod.fst, apply_dite State.locks])) [apply_ite State.locks, apply_ite Prod.fst, apply_dite State.locks]
@[simp] theorem State.hubRead_locks (s : State) (d : Nat) (unit : Nat) (cls : Nat) (a : Nat) (n : Nat) (cyc : Nat)  : (State.hubRead s d unit cls a n cyc).1.locks = s.locks := by unfold State.hubRead; (repeat' split) <;> simp (disch := (intros; (repeat' split) <;> try simp))
@[simp] theorem State.unitRead_locks (s : State) (d : Nat) (k : Nat) (a : Nat) (n : Nat)  : (State.unitRead s d k a n).1.locks = s.locks := by unfold State.unitRead; dsimp only; (repeat' split) <;> simp_all
@[simp] theorem State.queueEntry_locks (s : State) (d : Nat) (q : Nat)  : (State.queueEntry s d q).1.locks = s.locks := by unfold State.queueEntry; dsimp only; (repeat' split) <;> simp_all
@[simp] theorem State.useRead_locks (s : State) (w : HostRead)  : (State.useRead s w).locks = s.locks := by unfold State.useRead; (repeat' split) <;> simp
@[simp] theorem takeEntry_locks (q : Nat) (type : Nat) (s : State) (f : Nat → List Byte → State → Option State) (hf : ∀ x0 x1 x2 x3, f x0 x1 x2 = some x3 → x3.locks = x2.locks) : (takeEntry q type s f).locks = s.locks := by
  unfold takeEntry
  split
  · rfl
  · rename_i d _
    have hq := State.queueEntry_locks s d q
    generalize s.queueEntry d q = r at hq
    obtain ⟨r, e⟩ := r
    dsimp only at hq ⊢
    split
    · rfl
    · rcases e with _ | _ | bs
      · rfl
      · simp_all
      · dsimp only
        split
        · simp_all
        · split
          · cases h : f d bs _ with
            | none => rfl
            | some t => rw [Option.getD_some, hf _ _ _ _ h]; simpa using hq
          · rfl
@[simp] theorem State.passEntry_locks (s : State) (d : Nat) (q : Nat) (status : Nat)  : (State.passEntry s d q status).locks = s.locks := by unfold State.passEntry; (repeat' split) <;> simp
@[simp] theorem requestEntry_locks (q : Nat) (s : State) : (requestEntry q s).locks = s.locks := by
  unfold requestEntry; rw [takeEntry_locks]; intro x0 x1 x2 x3 h
  split at h
  · cases h
  · rw [Option.map_eq_some_iff] at h; obtain ⟨p, _, rfl⟩ := h; simp
@[simp] theorem consumeEntry_locks (q : Nat) (type : Nat) (s : State) (f : Nat → List Byte → State → State) (hf : ∀ x0 x1 x2, (f x0 x1 x2).locks = x2.locks) : (consumeEntry q type s f).locks = s.locks := by
  unfold consumeEntry; rw [takeEntry_locks]; intro x0 x1 x2 x3 h; simp only [Option.some.injEq] at h; subst h; simp [hf]
@[simp] theorem waitEntry_locks (q : Nat) (s : State)  : (waitEntry q s).locks = s.locks := by unfold waitEntry; (repeat' split) <;> simp (disch := (intros; (repeat' split) <;> try simp))
@[simp] theorem signalEntry_locks (q : Nat) (s : State)  : (signalEntry q s).locks = s.locks := by unfold signalEntry; (repeat' split) <;> simp (disch := (intros; (repeat' split) <;> try simp))
@[simp] theorem bindEntry_locks (q : Nat) (s : State)  : (bindEntry q s).locks = s.locks := by unfold bindEntry; (repeat' split) <;> simp (disch := (intros; (repeat' split) <;> try simp))
@[simp] theorem cancelEntry_locks (q : Nat) (s : State)  : (cancelEntry q s).locks = s.locks := by unfold cancelEntry; (repeat' split) <;> simp (disch := (intros; (repeat' split) <;> try simp))
@[simp] theorem queueWaitRelease_locks (q : Nat) (s : State)  : (queueWaitRelease q s).locks = s.locks := by unfold queueWaitRelease; dsimp only; (repeat' split) <;> simp_all
@[simp] theorem State.scanQueue_locks (s : State) (d : Nat) (q : Nat)  : (State.scanQueue s d q).1.locks = s.locks := by unfold State.scanQueue; dsimp only; (repeat' split) <;> simp_all
@[simp] theorem State.scoutExpiry_locks (s : State) (d : Nat) (q : Nat) (n : Nat)  : (State.scoutExpiry s d q n).locks = s.locks := by unfold State.scoutExpiry; (repeat' split) <;> simp (disch := (intros; (repeat' split) <;> try simp))
@[simp] theorem waitExpired_locks (q : Nat) (s : State)  : (waitExpired q s).locks = s.locks := by unfold waitExpired; dsimp only; (repeat' split) <;> simp_all
@[simp] theorem State.updPort_locks (s : State) (p : Nat) (f : CtrlPort → CtrlPort)  : (State.updPort s p f).locks = s.locks := by unfold State.updPort; (repeat' split) <;> simp
@[simp] theorem requestFlit_locks (p : Nat) (corrupt : Bool) (s : State)  : (requestFlit p corrupt s).locks = s.locks := by unfold requestFlit; dsimp only; (repeat' split) <;> simp_all
@[simp] theorem State.markOnce_locks (s : State) (p : Nat) (key : Nat) (f : State → State) (hf : ∀ x0, (f x0).locks = x0.locks) : (State.markOnce s p key f).locks = s.locks := by unfold State.markOnce; (repeat' split) <;> simp_all
@[simp] theorem State.reqAddr_locks (s : State) (p : Nat) (u : Nat) (r : Req)  : (State.reqAddr s p u r).1.locks = s.locks := by unfold State.reqAddr; dsimp only; (repeat' split) <;> simp_all
@[simp] theorem State.refuseMem_locks (s : State) (p : Nat) (r : Req) (a : Nat) (cause : Nat)  : (State.refuseMem s p r a cause).locks = s.locks := by unfold State.refuseMem; (repeat' split) <;> simp
@[simp] theorem State.updUnit_locks (s : State) (u : Nat) (f : MemUnit → MemUnit)  : (State.updUnit s u f).locks = s.locks := by unfold State.updUnit; (repeat' split) <;> simp
@[simp] theorem State.openBank_locks (s : State) (u : Nat) (a : Nat)  : (State.openBank s u a).locks = s.locks := by unfold State.openBank; (repeat' split) <;> simp
@[simp] theorem State.fetchLine_locks (s : State) (p : Nat) (u : Nat) (r : Req) (t : Nat)  : (State.fetchLine s p u r t).1.locks = s.locks := by unfold State.fetchLine; dsimp only; (repeat' split) <;> simp_all
@[simp] theorem memReadEntry_locks (u : Nat) (half : Nat) (s : State)  : (memReadEntry u half s).locks = s.locks := by unfold memReadEntry; simp only []; (repeat' split) <;> simp (disch := (intros; (repeat' split) <;> try simp))
@[simp] theorem State.writeDram_locks (s : State) (a : Nat) (bs : List Byte) (be : Nat)  : (State.writeDram s a bs be).locks = s.locks := by unfold State.writeDram; (repeat' split) <;> simp
@[simp] theorem memWriteEntry_locks (u : Nat) (half : Nat) (s : State)  : (memWriteEntry u half s).locks = s.locks := by unfold memWriteEntry; dsimp only; (repeat' split) <;> simp_all
@[simp] theorem selfRefreshEntry_locks (u : Nat) (s : State)  : (selfRefreshEntry u s).locks = s.locks := by unfold selfRefreshEntry; (repeat' split) <;> simp
@[simp] theorem State.template_locks (s : State) (d : Nat)  : (State.template s d).1.locks = s.locks := by unfold State.template; dsimp only; (repeat' split) <;> simp_all
@[simp] theorem State.buckAnswer_locks (s : State) (d : Nat) (st : Nat) (set : Nat) (gen : Nat)  : (State.buckAnswer s d st set gen).locks = s.locks := by unfold State.buckAnswer; (repeat' split) <;> simp
@[simp] theorem State.touchMark_locks (s : State) (d : Nat) (m : Nat)  : (State.touchMark s d m).locks = s.locks := by unfold State.touchMark; (repeat' split) <;> simp
@[simp] theorem State.touchSet_locks (s : State) (d : Nat) (i : Nat)  : (State.touchSet s d i).locks = s.locks := by unfold State.touchSet; (repeat' split) <;> simp
@[simp] theorem State.createSet_locks (s : State) (d : Nat) (bs : Option (List Byte))  : (State.createSet s d bs).locks = s.locks := by unfold State.createSet; dsimp only; (repeat' split) <;> simp_all
@[simp] theorem createCmd_locks (d : Nat) (s : State)  : (createCmd d s).locks = s.locks := by
  unfold createCmd
  have hq := State.template_locks s d
  generalize s.template d = r at hq
  obtain ⟨r, _ | _⟩ := r
  · rfl
  · simp_all
@[simp] theorem State.jobSets_locks (s : State) (d : Nat)  : (State.jobSets s d).1.locks = s.locks := by
  unfold State.jobSets; dsimp only; split
  · rw [foldl_fst_locks]; rintro ⟨s, l⟩ k
    dsimp only; split <;> (rename_i h; have := congrArg (fun p => p.1.locks) h; simp only [State.unitRead_locks] at this; exact this.symm)
  · rfl
@[simp] theorem State.unlessJobs_locks (s : State) (d : Nat) (i : Nat) (hostJobs : List Nat) (f : State → State) (hf : ∀ x0, (f x0).locks = x0.locks) : (State.unlessJobs s d i hostJobs f).locks = s.locks := by unfold State.unlessJobs; dsimp only; (repeat' split) <;> simp_all
@[simp] theorem sealSet_locks (d : Nat) (i : Nat) (hostJobs : List Nat) (s : State)  : (sealSet d i hostJobs s).locks = s.locks := by unfold sealSet; dsimp only; (repeat' split) <;> simp_all
@[simp] theorem switchSet_locks (d : Nat) (i : Nat) (s : State)  : (switchSet d i s).locks = s.locks := by unfold switchSet; dsimp only; (repeat' split) <;> simp_all
@[simp] theorem drainModel_locks (d : Nat) (m : Nat) (s : State)  : (drainModel d m s).locks = s.locks := by unfold drainModel; dsimp only; (repeat' split) <;> simp_all
@[simp] theorem releaseCmd_locks (d : Nat) (i : Nat) (hostJobs : List Nat) (s : State)  : (releaseCmd d i hostJobs s).locks = s.locks := by unfold releaseCmd; dsimp only; (repeat' split) <;> simp_all
@[simp] theorem jobResume_locks (d : Nat) (s : State)  : (jobResume d s).locks = s.locks := by unfold jobResume; (repeat' split) <;> simp
@[simp] theorem buckDoorbell_locks (d : Nat) (v : Nat) (s : State)  : (buckDoorbell d v s).locks = s.locks := by unfold buckDoorbell; dsimp only; (repeat' split) <;> simp_all
@[simp] theorem State.jobEntry_locks (s : State) (d : Nat)  : (State.jobEntry s d).1.locks = s.locks := by unfold State.jobEntry; dsimp only; (repeat' split) <;> simp_all
@[simp] theorem State.jobRan_locks (s : State) (d : Nat) (j : BuckJob) (r : Ran) (bytes : Nat)  : (State.jobRan s d j r bytes).locks = s.locks := by unfold State.jobRan; (repeat' split) <;> simp
@[simp] theorem State.linkChecked_locks (s : State) (ckt : Nat)  : (State.linkChecked s ckt).locks = s.locks := by unfold State.linkChecked; (repeat' split) <;> simp
@[simp] theorem State.jobBytes_locks (s : State) (d : Nat) (kind : Nat) (a : Nat) (n : Nat) (w : HostRead)  : (State.jobBytes s d kind a n w).1.locks = s.locks := by unfold State.jobBytes; dsimp only; (repeat' split) <;> simp_all
@[simp] theorem State.setWrite_locks (s : State) (e : SetEnt) (off : Nat) (bs : List Byte)  : (State.setWrite s e off bs).locks = s.locks := by unfold State.setWrite; (repeat' split) <;> simp
@[simp] theorem State.runTiles_locks (j : BuckJob) (e : SetEnt) (base : Nat) (src : Source) (a : Nat) (a6 : Nat) (a7 : List Byte) (a8 : State) (a9 : Ran)  : (State.runTiles j e base src a a6 a7 a8 a9).1.locks = a8.locks := by fun_induction State.runTiles j e base src a a6 a7 a8 a9 <;> simp_all +zetaDelta
@[simp] theorem State.convert_locks (s : State) (d : Nat) (j : BuckJob) (e : SetEnt) (base : Nat) (room : Nat) (selfBad : Bool)  : (State.convert s d j e base room selfBad).1.locks = s.locks := by unfold State.convert; simp only []; (repeat' split) <;> simp (disch := (intros; (repeat' split) <;> try simp))
@[simp] theorem State.copyRange_locks (s : State) (d : Nat) (j : BuckJob) (e : SetEnt) (entry : Nat)  : (State.copyRange s d j e entry).1.locks = s.locks := by
  unfold State.copyRange; dsimp only; split
  · split
    · rfl
    · split
      · simp
      · dsimp only; rw [foldl_locks]; simp; intro s a; rfl
  · rfl
@[simp] theorem State.touchSlot_locks (s : State) (d : Nat) (i : Nat) (a : Nat)  : (State.touchSlot s d i a).locks = s.locks := by unfold State.touchSlot; (repeat' split) <;> simp
@[simp] theorem State.runBuckJob_locks (s : State) (d : Nat) (bs : List Byte) (selfBad : Bool)  : (State.runBuckJob s d bs selfBad).locks = s.locks := by unfold State.runBuckJob; dsimp only; (repeat' split) <;> simp_all
@[simp] theorem jobStart_locks (d : Nat) (type : Nat) (selfBad : Bool) (s : State)  : (jobStart d type selfBad s).locks = s.locks := by
  unfold jobStart; dsimp only
  have hq := State.jobEntry_locks s d
  generalize s.jobEntry d = r at hq
  obtain ⟨r, _ | _ | bs⟩ := r <;> (repeat' split) <;> simp_all
@[simp] theorem State.writeJobStatus_locks (s : State) (d : Nat) (st : Nat)  : (State.writeJobStatus s d st).locks = s.locks := by unfold State.writeJobStatus; dsimp only; (repeat' split) <;> simp_all
@[simp] theorem jobComplete_locks (d : Nat) (s : State)  : (jobComplete d s).locks = s.locks := by unfold jobComplete; dsimp only; (repeat' split) <;> simp_all
@[simp] theorem State.noteBuild_locks (s : State) (d : Nat) (w : Work)  : (State.noteBuild s d w).locks = s.locks := by unfold State.noteBuild; (repeat' split) <;> simp
@[simp] theorem State.postBuild_locks (s : State) (d : Nat)  : (State.postBuild s d).locks = s.locks := by unfold State.postBuild; (repeat' split) <;> simp
@[simp] theorem State.finishBuild_locks (s : State) (d : Nat) (b : Build)  : (State.finishBuild s d b).locks = s.locks := by unfold State.finishBuild; (repeat' split) <;> simp
@[simp] theorem State.takeTickets_locks (s : State) (d : Nat) (all : List (List Byte)) (n : Nat)  : (State.takeTickets s d all n).locks = s.locks := by unfold State.takeTickets; dsimp only; (repeat' split) <;> simp_all
@[simp] theorem State.replayPrompt_locks (s : State) (d : Nat) (q : Nat) (addr : Nat) (n : Nat)  : (State.replayPrompt s d q addr n).1.locks = s.locks := by unfold State.replayPrompt; dsimp only; (repeat' split) <;> simp_all
@[simp] theorem State.replayTicket_locks (d : Nat) (a1 : State × Replayed) (t : List Byte) (next : List Byte)  : (State.replayTicket d a1 t next).1.locks = a1.1.locks := by unfold State.replayTicket; dsimp only; (repeat' split) <;> simp_all
@[simp] theorem State.replayMismatch_locks (s : State) (d : Nat)  : (State.replayMismatch s d).locks = s.locks := by unfold State.replayMismatch; (repeat' split) <;> simp
@[simp] theorem State.checkReplay_locks (s : State) (d : Nat) (st : Nat) (r : Replayed)  : (State.checkReplay s d st r).locks = s.locks := by unfold State.checkReplay; (repeat' split) <;> simp
@[simp] theorem State.replayBuild_locks (s : State) (d st a : Nat) : (State.replayBuild s d st a).locks = s.locks := by
  unfold State.replayBuild
  split
  · simp only []
    split
    · rfl
    · split
      · rw [State.finishBuild_locks]; split <;> simp
      · split
        · rfl
        · rw [State.finishBuild_locks, State.checkReplay_locks, foldl_fst_locks]
          · simp
          · simp
  · rfl
@[simp] theorem State.touchSets_locks (s : State) (d : Nat) (reps : List (Nat × Replica))  : (State.touchSets s d reps).locks = s.locks := by
  unfold State.touchSets; dsimp only
  rw [foldl_locks, foldl_locks]
  · intro s m; rw [foldl_locks]; simp
  · intro s r; (repeat' split) <;> simp
@[simp] theorem State.putTicket_locks (s : State) (d : Nat) (kind : Nat) (replica : Nat) (queue : Nat) (aux : Nat) (body : List (Nat × Nat × Nat))  : (State.putTicket s d kind replica queue aux body).locks = s.locks := by unfold State.putTicket; (repeat' split) <;> simp
@[simp] theorem State.putTickets_locks (s : State) (d : Nat) (ts : List Ticket)  : (State.putTickets s d ts).locks = s.locks := by unfold State.putTickets; (repeat' split) <;> simp
@[simp] theorem State.holdBuild_locks (s : State) (d : Nat) (st : Nat) (a : Nat) (cause : Nat)  : (State.holdBuild s d st a cause).locks = s.locks := by unfold State.holdBuild; (repeat' split) <;> simp
@[simp] theorem State.noteTickets_locks (s : State) (d : Nat)  : (State.noteTickets s d).locks = s.locks := by unfold State.noteTickets; (repeat' split) <;> simp
@[simp] theorem State.ownBuild_locks (s : State) (d : Nat) (st : Nat) (a : Nat)  : (State.ownBuild s d st a).locks = s.locks := by unfold State.ownBuild; dsimp only; (repeat' split) <;> simp_all
@[simp] theorem build_locks (d : Nat) (s : State)  : (build d s).locks = s.locks := by unfold build; dsimp only; (repeat' split) <;> simp_all
@[simp] theorem ticketReadback_locks (d : Nat) (s : State)  : (ticketReadback d s).locks = s.locks := by unfold ticketReadback; (repeat' split) <;> simp
@[simp] theorem lndOutIdx_locks (d : Nat) (v : Nat) (s : State)  : (lndOutIdx d v s).locks = s.locks := by unfold lndOutIdx; (repeat' split) <;> simp
@[simp] theorem State.lndCfg_locks (s : State) (d : Nat) (off : Nat) (old : Nat) (new : Nat) (f : LndLd → LndLd)  : (State.lndCfg s d off old new f).locks = s.locks := by unfold State.lndCfg; (repeat' split) <;> simp
@[simp] theorem lndOutBase_locks (d : Nat) (v : Nat) (s : State)  : (lndOutBase d v s).locks = s.locks := by unfold lndOutBase; dsimp only; (repeat' split) <;> simp_all
@[simp] theorem lndOutCfg_locks (d : Nat) (v : Nat) (s : State)  : (lndOutCfg d v s).locks = s.locks := by unfold lndOutCfg; dsimp only; (repeat' split) <;> simp_all
@[simp] theorem lndOutWb_locks (d : Nat) (v : Nat) (s : State)  : (lndOutWb d v s).locks = s.locks := by unfold lndOutWb; dsimp only; (repeat' split) <;> simp_all
@[simp] theorem State.grAnswer_locks (s : State) (d : Nat) (st : Nat) (h : Nat)  : (State.grAnswer s d st h).locks = s.locks := by unfold State.grAnswer; (repeat' split) <;> simp
@[simp] theorem State.grRead_locks (s : State) (d : Nat) (cls : Nat) (a : Nat) (n : Nat)  : (State.grRead s d cls a n).1.locks = s.locks := by unfold State.grRead; (repeat' split) <;> simp (disch := (intros; (repeat' split) <;> try simp))
@[simp] theorem State.buildMask_locks (s : State) (o : GObj) (ids : List Nat)  : (State.buildMask s o ids).locks = s.locks := by unfold State.buildMask; (repeat' split) <;> simp
@[simp] theorem graderLoad_locks (d : Nat) (s : State)  : (graderLoad d s).locks = s.locks := by unfold graderLoad; dsimp only; (repeat' split) <;> simp_all
@[simp] theorem graderUnload_locks (d : Nat) (h : Nat) (s : State)  : (graderUnload d h s).locks = s.locks := by unfold graderUnload; (repeat' split) <;> simp
@[simp] theorem State.grIssue_locks (s : State) (d : Nat) (e : GrEntry)  : (State.grIssue s d e).1.locks = s.locks := by unfold State.grIssue; dsimp only; (repeat' split) <;> simp_all
@[simp] theorem State.broken_locks (s : State) (o : GObj) (a : Nat) (bad : Bool) (breaks : Bool)  : (State.broken s o a bad breaks).locks = s.locks := by unfold State.broken; (repeat' split) <;> simp
@[simp] theorem State.readState_locks (s : State) (o : GObj) (a2 : Nat)  : (State.readState s o a2).1.locks = s.locks := by unfold State.readState; simp
@[simp] theorem State.readMask_locks (s : State) (o : GObj) (mask : Nat) (lines : List Nat)  : (State.readMask s o mask lines).1.locks = s.locks := by unfold State.readMask; (repeat' split) <;> simp
set_option maxRecDepth 20000 in
@[simp] theorem State.advance_locks (s : State) (o : Option GObj) (x tok : Nat) : (s.advance o x tok).1.locks = s.locks := by
  unfold State.advance
  split
  · rfl
  · split
    · rfl
    · simp only []; split <;> (try simp only []) <;> (repeat' split) <;> simp
@[simp] theorem State.shadowStep_locks (s : State) (o : Option GObj) (x t : Nat) : (s.shadowStep o x t).1.locks = s.locks := by
  cases o with
  | none => rfl
  | some ob => simp only [State.shadowStep]; split <;> split <;> simp
@[simp] theorem State.shadow_locks (s : State) (o : Option GObj) (x : Nat) (ts : List Nat) : (s.shadow o x ts).1.locks = s.locks := by
  induction ts generalizing s x with
  | nil => rfl
  | cons t ts ih =>
    have h := State.shadowStep_locks s o x t
    unfold State.shadow
    split <;> simp_all
@[simp] theorem State.grade_locks (s : State) (d : Nat) (e : GrEntry) (r : Serve) (v : Nat) (rec : Nat) (j : Nat) (stream : Nat) (a8 : Nat)  : (State.grade s d e r v rec j stream a8).1.locks = s.locks := by unfold State.grade; simp only [State.takeFree]; (repeat' split) <;> simp (disch := (intros; (repeat' split) <;> simp [apply_ite State.locks, apply_ite Prod.fst, apply_dite State.locks])) [apply_ite State.locks, apply_ite Prod.fst, apply_dite State.locks]
@[simp] theorem State.noteEmpty_locks (s : State) (d : Nat) (k : Nat) (slot : Nat) (r : Serve)  : (State.noteEmpty s d k slot r).locks = s.locks := by unfold State.noteEmpty; (repeat' split) <;> simp
@[simp] theorem State.noteCheck_locks (s : State) (d : Nat) (k : Nat) (slot : Nat) (r : Serve)  : (State.noteCheck s d k slot r).locks = s.locks := by unfold State.noteCheck; (repeat' split) <;> simp
@[simp] theorem State.noteGraded_locks (s : State) (d : Nat) (k : Nat) (slot : Nat) (r : Serve) (g : Graded) (differ : Bool)  : (State.noteGraded s d k slot r g differ).locks = s.locks := by unfold State.noteGraded; (repeat' split) <;> simp
@[simp] theorem State.updLive_locks (s : State) (d : Nat) (arr : Nat) (f : Serve → Serve)  : (State.updLive s d arr f).locks = s.locks := by unfold State.updLive; (repeat' split) <;> simp
@[simp] theorem State.draftSlot_locks (d : Nat) (e : GrEntry) (v : Nat) (tainted : Bool) (bad : List Nat) (a5 : State × Phase) (sl : Nat)  : (State.draftSlot d e v tainted bad a5 sl).1.locks = a5.1.locks := by unfold State.draftSlot; simp only []; (repeat' split) <;> simp (disch := (intros; (repeat' split) <;> try simp))
@[simp] theorem State.raiseCheck_locks (s : State) (d : Nat) (ph : Phase)  : (State.raiseCheck s d ph).locks = s.locks := by unfold State.raiseCheck; (repeat' split) <;> simp
@[simp] theorem State.phaseCycles_locks (s : State) (ph : Phase) : (s.phaseCycles ph).2.locks = s.locks := by unfold State.phaseCycles; simp
@[simp] theorem draftPhase_locks (d : Nat) (bad : List Nat) (s : State)  : (draftPhase d bad s).locks = s.locks := by
  unfold draftPhase; dsimp only; (repeat' split) <;> try rfl
  simp [State.phaseCycles_locks]
@[simp] theorem State.gradeAll_locks (d : Nat) (e : GrEntry) (v base slot : Nat) (r : Serve) (bad : List Nat) (o : Option GObj) (ds : List Nat) (i n : Nat)
    (a : State × List Graded × Phase) : (State.gradeAll d e v base slot r bad o ds i n a).1.locks = a.1.locks := by
  induction n generalizing i a with
  | zero => obtain ⟨s, gs, ph⟩ := a; simp [State.gradeAll]
  | succ n ih => rw [State.gradeAll, ih]; obtain ⟨s, gs, ph⟩ := a; simp [State.gradeAll]
@[simp] theorem State.deliverToks_locks (s : State) (stops : List Nat) (o : Option GObj) (a : Nat) (a5 : List Graded) (a6 : List Nat) (a7 : List (Nat × Nat) × Bool × Nat)  : (State.deliverToks s stops o a a5 a6 a7).1.locks = s.locks := by
  induction a5 generalizing s a a6 a7 with
  | nil => obtain ⟨ts, sus, n⟩ := a7; simp [State.deliverToks]
  | cons g gs ih =>
    obtain ⟨ts, sus, n⟩ := a7
    rw [State.deliverToks]
    split
    · rfl
    · have hq := State.advance_locks s o a ‹_›
      generalize s.advance o a _ = r at hq
      obtain ⟨r, y, fin, b⟩ := r
      dsimp only at hq ⊢
      (repeat' split) <;> first | exact hq | (rw [ih]; exact hq)
@[simp] theorem State.verifySlot_locks (s : State) (d : Nat) (e : GrEntry) (rep : Replica) (tainted : Bool) (bad : List Nat) (ph : Phase) (base : Nat) (slot : Nat) (eff : Nat) (r : Serve)  : (State.verifySlot s d e rep tainted bad ph base slot eff r).1.locks = s.locks := by unfold State.verifySlot; dsimp only; (repeat' split) <;> simp_all
@[simp] theorem verifyPhase_locks (d : Nat) (bad : List Nat) (s : State)  : (verifyPhase d bad s).locks = s.locks := by 
  unfold verifyPhase; dsimp only; (repeat' split) <;> try rfl
  simp only [State.updGr_locks, State.raiseCheck_locks, State.phaseCycles_locks]
  rw [foldl_fst_locks, foldl_fst_locks]
  · simp
  · intro p x; split <;> simp
  · intro p x; split
    · split <;> simp
    · rfl
@[simp] theorem State.signIfAsked_locks (s : State) (d : Nat)  : (State.signIfAsked s d).locks = s.locks := by unfold State.signIfAsked; (repeat' split) <;> simp
@[simp] theorem tallySignCmd_locks (d : Nat) (v : Nat) (s : State)  : (tallySignCmd d v s).locks = s.locks := by unfold tallySignCmd; (repeat' split) <;> simp
@[simp] theorem State.tallyCfg_locks (s : State) (d : Nat) (off : Nat) (old : Nat) (new : Nat) (f : TallyCtx → TallyCtx)  : (State.tallyCfg s d off old new f).locks = s.locks := by unfold State.tallyCfg; (repeat' split) <;> simp
@[simp] theorem tallyRingBase_locks (d : Nat) (v : Nat) (s : State)  : (tallyRingBase d v s).locks = s.locks := by unfold tallyRingBase; dsimp only; (repeat' split) <;> simp_all
@[simp] theorem tallyRingCfg_locks (d : Nat) (v : Nat) (s : State)  : (tallyRingCfg d v s).locks = s.locks := by unfold tallyRingCfg; dsimp only; (repeat' split) <;> simp_all
@[simp] theorem tallyRingIdx_locks (d : Nat) (v : Nat) (s : State)  : (tallyRingIdx d v s).locks = s.locks := by unfold tallyRingIdx; (repeat' split) <;> simp
@[simp] theorem tallySignCfg_locks (d : Nat) (v : Nat) (s : State)  : (tallySignCfg d v s).locks = s.locks := by unfold tallySignCfg; dsimp only; (repeat' split) <;> simp_all
@[simp] theorem tallyJrnBase_locks (d : Nat) (v : Nat) (s : State)  : (tallyJrnBase d v s).locks = s.locks := by unfold tallyJrnBase; dsimp only; (repeat' split) <;> simp_all
@[simp] theorem tallyJrnCfg_locks (d : Nat) (v : Nat) (s : State)  : (tallyJrnCfg d v s).locks = s.locks := by unfold tallyJrnCfg; dsimp only; (repeat' split) <;> simp_all
@[simp] theorem tallyJrnIdx_locks (d : Nat) (v : Nat) (s : State)  : (tallyJrnIdx d v s).locks = s.locks := by unfold tallyJrnIdx; (repeat' split) <;> simp
@[simp] theorem tallyEvtBase_locks (d : Nat) (v : Nat) (s : State)  : (tallyEvtBase d v s).locks = s.locks := by unfold tallyEvtBase; dsimp only; (repeat' split) <;> simp_all
@[simp] theorem State.giveBootEvents_locks (s : State) (d : Nat)  : (State.giveBootEvents s d).locks = s.locks := by unfold State.giveBootEvents; (repeat' split) <;> simp
@[simp] theorem tallyEvtCfg_locks (d : Nat) (v : Nat) (s : State)  : (tallyEvtCfg d v s).locks = s.locks := by unfold tallyEvtCfg; dsimp only; (repeat' split) <;> simp_all
@[simp] theorem tallyEvtIdx_locks (d : Nat) (v : Nat) (s : State)  : (tallyEvtIdx d v s).locks = s.locks := by unfold tallyEvtIdx; (repeat' split) <;> simp
@[simp] theorem tallyTwinCfg_locks (d : Nat) (v : Nat) (s : State)  : (tallyTwinCfg d v s).locks = s.locks := by unfold tallyTwinCfg; (repeat' split) <;> simp
@[simp] theorem stretch_locks (k : Nat) (s : State)  : (stretch k s).locks = s.locks := by unfold stretch; dsimp only; (repeat' split) <;> simp_all
@[simp] theorem State.sampleRails_locks (s : State) (rails : List Nat)  : (State.sampleRails s rails).locks = s.locks := by unfold State.sampleRails; (repeat' split) <;> simp
@[simp] theorem State.updTherm_locks (s : State) (f : Therm → Therm)  : (State.updTherm s f).locks = s.locks := by unfold State.updTherm; (repeat' split) <;> simp
@[simp] theorem State.askHaltAll_locks (s : State) (cause : Nat)  : (State.askHaltAll s cause).locks = s.locks := by unfold State.askHaltAll; (repeat' split) <;> simp (disch := (intros; (repeat' split) <;> try simp))
@[simp] theorem State.burnStands_locks (s : State)  : (State.burnStands s).locks = s.locks := by unfold State.burnStands; (repeat' split) <;> simp
@[simp] theorem State.haltNow_locks (s : State) (d : Nat) (cause : Nat)  : (State.haltNow s d cause).locks = s.locks := by unfold State.haltNow; (repeat' split) <;> simp
@[simp] theorem State.haltAllNow_locks (s : State) (cause : Nat)  : (State.haltAllNow s cause).locks = s.locks := by unfold State.haltAllNow; (repeat' split) <;> simp
@[simp] theorem tempSample_locks (tj : List Nat) (hbm : List Nat) (rails : List Nat) (s : State)  : (tempSample tj hbm rails s).locks = s.locks := by unfold tempSample; dsimp only; (repeat' split) <;> simp_all
@[simp] theorem State.updPins_locks (s : State) (f : Pins → Pins) (h : (f s.pins).held = s.pins.held) : (s.updPins f).locks = s.locks := by
  unfold State.updPins; simp [h]
@[simp] theorem pwrWarn_locks (s : State)  : (pwrWarn s).locks = s.locks := by unfold pwrWarn; dsimp only; (repeat' split) <;> simp_all
@[simp] theorem State.command15_locks (s : State) (f : State → State) (hf : ∀ x0, (f x0).locks = x0.locks) : (State.command15 s f).locks = s.locks := by unfold State.command15; (repeat' split) <;> simp_all
@[simp] theorem State.updMgmt_locks (s : State) (f : Mgmt → Mgmt)  : (State.updMgmt s f).locks = s.locks := by unfold State.updMgmt; (repeat' split) <;> simp
@[simp] theorem State.respond_locks (s : State) (cmd : Nat) (tag : Nat) (status : Nat) (data : List Byte)  : (State.respond s cmd tag status data).locks = s.locks := by unfold State.respond; (repeat' split) <;> simp
@[simp] theorem State.setCopy_locks (s : State) (c : Nat) (st : Nat) (q : Nat)  : (State.setCopy s c st q).locks = s.locks := by unfold State.setCopy; (repeat' split) <;> simp
@[simp] theorem State.changeAll_locks (s : State) (port off sel old new : Nat) (f : State → State) (h : ∀ s, (f s).locks = s.locks) :
    (State.changeAll s port off sel old new f).locks = s.locks := by
  unfold State.changeAll; split
  · rw [foldl_locks]; intro s a; split <;> simp
  · simp [h]
@[simp] theorem updateAbort_locks (tag : Nat) (s : State)  : (updateAbort tag s).locks = s.locks := by unfold updateAbort; (repeat' split) <;> simp (disch := (intros; (repeat' split) <;> try simp))
@[simp] theorem getStatus_locks (tag : Nat) (s : State)  : (getStatus tag s).locks = s.locks := by unfold getStatus; (repeat' split) <;> simp
@[simp] theorem State.command4_locks (s : State) (cmd : Nat) (tag : Nat) (f : State → State) (hf : ∀ x0, (f x0).locks = x0.locks) : (State.command4 s cmd tag f).locks = s.locks := by unfold State.command4; (repeat' split) <;> simp_all
@[simp] theorem readReg_locks (tag : Nat) (dom : Nat) (off : Nat) (count : Nat) (s : State)  : (readReg tag dom off count s).locks = s.locks := by unfold readReg; (repeat' split) <;> simp
@[simp] theorem aelCmd_locks (p : Nat) (ld : Option Nat) (v : Nat) (s : State)  : (aelCmd p ld v s).locks = s.locks := by unfold aelCmd; (repeat' split) <;> simp
@[simp] theorem State.updHost_locks (s : State) (f : HostSt → HostSt)  : (State.updHost s f).locks = s.locks := by unfold State.updHost; (repeat' split) <;> simp
@[simp] theorem ctrOf_locks {s t : State} {r : Bool × State} (h : ctrOf t = some r) (e : t.locks = s.locks) : r.2.locks = s.locks := by
  simp only [ctrOf, Option.some.injEq] at h; subst h; exact e
theorem recOf_locks {s t : State} {r : Bool × State} (h : recOf t = some r) (e : t.locks = s.locks) : r.2.locks = s.locks := by
  simp only [recOf, Option.some.injEq] at h; subst h; exact e
theorem State.clearStand_locks {s : State} {st o v : Nat} {r : Bool × State} (h : s.clearStand st o v = some r) : r.2.locks = s.locks := by
  unfold State.clearStand State.clearHr State.clearEd State.clearDk State.clearCl State.clearFl at h
  (repeat' split at h) <;> (first | (cases h; done) | exact ctrOf_locks h (by simp) | exact recOf_locks h (by simp))
theorem State.clearCtx_locks {s : State} {o v : Nat} {r : Bool × State} (h : s.clearCtx o v = some r) : r.2.locks = s.locks := by
  unfold State.clearCtx at h
  (repeat' split at h) <;> (first | (cases h; done) | exact ctrOf_locks h (by simp) | exact recOf_locks h (by simp))
theorem State.clearCmp_locks {s : State} {o v : Nat} {r : Bool × State} (h : s.clearCmp o v = some r) : r.2.locks = s.locks := by
  unfold State.clearCmp at h
  (repeat' split at h) <;> (first | (cases h; done) | exact ctrOf_locks h (by simp) | exact recOf_locks h (by simp))
theorem State.clearLnd_locks {s : State} {d o v : Nat} {r : Bool × State} (h : s.clearLnd d o v = some r) : r.2.locks = s.locks := by
  unfold State.clearLnd at h
  (repeat' split at h) <;> (first | (cases h; done) | exact ctrOf_locks h (by simp) | exact recOf_locks h (by simp))
theorem State.clearGr_locks {s : State} {d o v : Nat} {r : Bool × State} (h : s.clearGr d o v = some r) : r.2.locks = s.locks := by
  unfold State.clearGr at h
  (repeat' split at h) <;> (first | (cases h; done) | exact ctrOf_locks h (by simp) | exact recOf_locks h (by simp))
theorem State.clearQ_locks {s : State} {d o v : Nat} {r : Bool × State} (h : s.clearQ d o v = some r) : r.2.locks = s.locks := by
  unfold State.clearQ at h
  (repeat' split at h) <;> (first | (cases h; done) | exact ctrOf_locks h (by simp) | exact recOf_locks h (by simp))
theorem State.clearNotch_locks {s : State} {d o v : Nat} {r : Bool × State} (h : s.clearNotch d o v = some r) : r.2.locks = s.locks := by
  unfold State.clearNotch at h
  (repeat' split at h) <;> (first | (cases h; done) | exact ctrOf_locks h (by simp) | exact recOf_locks h (by simp))
theorem State.clearTally_locks {s : State} {d o v : Nat} {r : Bool × State} (h : s.clearTally d o v = some r) : r.2.locks = s.locks := by
  unfold State.clearTally at h
  (repeat' split at h) <;> (first | (cases h; done) | exact ctrOf_locks h (by simp) | exact recOf_locks h (by simp))
theorem State.clearBridge_locks {s : State} {d o v : Nat} {r : Bool × State} (h : s.clearBridge d o v = some r) : r.2.locks = s.locks := by
  unfold State.clearBridge at h
  (repeat' split at h) <;> (first | (cases h; done) | exact ctrOf_locks h (by simp) | exact recOf_locks h (by simp))
theorem State.clearMem_locks {s : State} {d o v : Nat} {r : Bool × State} (h : s.clearMem d o v = some r) : r.2.locks = s.locks := by
  unfold State.clearMem at h
  (repeat' split at h) <;> (first | (cases h; done) | exact ctrOf_locks h (by simp) | exact recOf_locks h (by simp))
theorem State.clearBuck_locks {s : State} {d o v : Nat} {r : Bool × State} (h : s.clearBuck d o v = some r) : r.2.locks = s.locks := by
  unfold State.clearBuck at h
  (repeat' split at h) <;> (first | (cases h; done) | exact ctrOf_locks h (by simp) | exact recOf_locks h (by simp))
theorem State.clearHost_locks {s : State} {d o v : Nat} {r : Bool × State} (h : s.clearHost d o v = some r) : r.2.locks = s.locks := by
  unfold State.clearHost at h
  (repeat' split at h) <;> (first | (cases h; done) | exact ctrOf_locks h (by simp) | exact recOf_locks h (by simp))
theorem State.clearDbg_locks {s : State} {d o v : Nat} {r : Bool × State} (h : s.clearDbg d o v = some r) : r.2.locks = s.locks := by
  unfold State.clearDbg at h
  (repeat' split at h) <;> (first | (cases h; done) | exact ctrOf_locks h (by simp) | exact recOf_locks h (by simp))
theorem State.clearAel_locks {s : State} {d o v : Nat} {r : Bool × State} (h : s.clearAel d o v = some r) : r.2.locks = s.locks := by
  unfold State.clearAel at h
  (repeat' split at h) <;> (first | (cases h; done) | exact ctrOf_locks h (by simp) | exact recOf_locks h (by simp))
theorem State.clearReg_locks {s : State} {d off v : Nat} {r : Bool × State} (h : s.clearReg d off v = some r) : r.2.locks = s.locks := by
  revert h
  unfold State.clearReg
  simp only []
  (repeat' split) <;> intro h <;> first
    | (simp only [reduceCtorEq] at h; done)
    | with_reducible exact State.clearCtx_locks h
    | with_reducible exact State.clearCmp_locks h
    | with_reducible exact State.clearLnd_locks h
    | with_reducible exact State.clearGr_locks h
    | with_reducible exact State.clearQ_locks h
    | with_reducible exact State.clearNotch_locks h
    | with_reducible exact State.clearTally_locks h
    | with_reducible exact State.clearBridge_locks h
    | with_reducible exact State.clearMem_locks h
    | with_reducible exact State.clearBuck_locks h
    | with_reducible exact State.clearHost_locks h
    | with_reducible exact State.clearDbg_locks h
    | with_reducible exact State.clearAel_locks h
    | with_reducible exact State.clearStand_locks h
theorem State.mgtWrite_locks {s t : State} {dom off v : Nat} (h : s.mgtWrite dom off v = some t) : t.locks = s.locks := by
  unfold State.mgtWrite at h
  (repeat' split at h) <;> simp only [Option.some.injEq, reduceCtorEq] at h <;> (try subst h) <;> (first | (simp; done) | (exact State.clearReg_locks ‹_›))
@[simp] theorem writeReg_locks (tag dom off v : Nat) (s : State) : (writeReg tag dom off v s).locks = s.locks := by
  unfold writeReg; rw [State.command4_locks]; intro s; (repeat' split) <;> simp
  exact State.mgtWrite_locks ‹_›
@[simp] theorem readTally_locks (tag ctx back : Nat) (s : State) : (readTally tag ctx back s).locks = s.locks := by
  unfold readTally; rw [State.command4_locks]; intro s; dsimp only; (repeat' split) <;> simp
@[simp] theorem readLedger_locks (tag : Nat) (i : Nat) (s : State)  : (readLedger tag i s).locks = s.locks := by unfold readLedger; (repeat' split) <;> simp
@[simp] theorem readLog_locks (tag : Nat) (i : Nat) (s : State)  : (readLog tag i s).locks = s.locks := by unfold readLog; (repeat' split) <;> simp
@[simp] theorem stopForReset_locks (e : BootEnv) (s : State)  : (stopForReset e s).locks = s.locks := by unfold stopForReset; (repeat' split) <;> simp
@[simp] theorem mctpControl_locks (eid : Option Nat) (s : State)  : (mctpControl eid s).locks = s.locks := by unfold mctpControl; (repeat' split) <;> simp
@[simp] theorem setdasa_locks (addr : Nat) (dyn : Nat) (s : State)  : (setdasa addr dyn s).locks = s.locks := by unfold setdasa; (repeat' split) <;> simp
@[simp] theorem entdaa_locks (dyn : Nat) (s : State)  : (entdaa dyn s).locks = s.locks := by unfold entdaa; (repeat' split) <;> simp (disch := (intros; (repeat' split) <;> simp (disch := (intros; (repeat' split) <;> try simp))))
@[simp] theorem State.spdm_locks (s : State) (inOrder : Bool) (f : State → State) (hf : ∀ x0, (f x0).locks = x0.locks) : (State.spdm s inOrder f).locks = s.locks := by unfold State.spdm; (repeat' split) <;> simp_all
@[simp] theorem State.heard_locks (s : State) (bs : List Byte)  : (State.heard s bs).locks = s.locks := by unfold State.heard; (repeat' split) <;> simp
@[simp] theorem State.answer_locks (s : State) (code : Nat) (data : List Byte)  : (State.answer s code data).locks = s.locks := by unfold State.answer; (repeat' split) <;> simp
@[simp] theorem getVersion_locks (s : State)  : (getVersion s).locks = s.locks := by unfold getVersion; (repeat' split) <;> simp
@[simp] theorem getCapabilities_locks (s : State)  : (getCapabilities s).locks = s.locks := by unfold getCapabilities; (repeat' split) <;> simp
@[simp] theorem negotiateAlgorithms_locks (s : State)  : (negotiateAlgorithms s).locks = s.locks := by unfold negotiateAlgorithms; (repeat' split) <;> simp
@[simp] theorem getDigests_locks (s : State)  : (getDigests s).locks = s.locks := by unfold getDigests; (repeat' split) <;> simp
@[simp] theorem getCertificate_locks (slot : Nat) (off : Nat) (len : Nat) (s : State)  : (getCertificate slot off len s).locks = s.locks := by unfold getCertificate; (repeat' split) <;> simp
@[simp] theorem challenge_locks (nonce : List Byte) (s : State)  : (challenge nonce s).locks = s.locks := by unfold challenge; (repeat' split) <;> simp
@[simp] theorem getMeasurements_locks (i : Nat) (signed : Bool) (nonce : List Byte) (s : State)  : (getMeasurements i signed nonce s).locks = s.locks := by unfold getMeasurements; (repeat' split) <;> simp
@[simp] theorem keyExchange_locks (share : List Byte) (s : State)  : (keyExchange share s).locks = s.locks := by unfold keyExchange; dsimp only; (repeat' split) <;> (try simp only) <;> (repeat' split) <;> simp
@[simp] theorem finish_locks (ok : Bool) (s : State)  : (finish ok s).locks = s.locks := by unfold finish; (repeat' split) <;> simp
@[simp] theorem endSession_locks (s : State)  : (endSession s).locks = s.locks := by unfold endSession; (repeat' split) <;> simp
@[simp] theorem vendorDefinedRequest_locks (ld : Option Nat) (s : State)  : (vendorDefinedRequest ld s).locks = s.locks := by unfold vendorDefinedRequest; (repeat' split) <;> simp
@[simp] theorem flr_locks (d : Nat) (s : State)  : (flr d s).locks = s.locks := by unfold flr; (repeat' split) <;> simp
@[simp] theorem State.refuseCxl_locks (s : State) (d : Nat) (off : Nat) (write : Bool)  : (State.refuseCxl s d off write).locks = s.locks := by unfold State.refuseCxl; (repeat' split) <;> simp
@[simp] theorem State.refuseHostMem_locks (s : State) (d : Nat) (a : Nat) (cls : Nat) (cause : Nat)  : (State.refuseHostMem s d a cls cause).locks = s.locks := by unfold State.refuseHostMem; (repeat' split) <;> simp
@[simp] theorem State.hostMemWrite_locks (s : State) (a : Nat) (be : Nat) (bs : List Byte)  : (State.hostMemWrite s a be bs).locks = s.locks := by unfold State.hostMemWrite; (repeat' split) <;> simp
@[simp] theorem State.hostMemRead_locks (s : State) (d : Nat) (off : Nat) (a : Nat) (cls : Nat)  : (State.hostMemRead s d off a cls).locks = s.locks := by unfold State.hostMemRead; dsimp only; (repeat' split) <;> simp_all
@[simp] theorem cxlMemAccess_locks (d : Nat) (off : Nat) (write : Bool) (be : Nat) (bs : List Byte) (s : State)  : (cxlMemAccess d off write be bs s).locks = s.locks := by unfold cxlMemAccess; dsimp only; (repeat' split) <;> simp_all
@[simp] theorem State.readbackFails_locks (s : State) (d : Nat)  : (State.readbackFails s d).locks = s.locks := by unfold State.readbackFails; (repeat' split) <;> simp
@[simp] theorem State.readFails_locks (s : State) (w : HostRead)  : (State.readFails s w).locks = s.locks := by unfold State.readFails; dsimp only; (repeat' split) <;> simp_all
@[simp] theorem hostReadCompletion_locks (w : HostRead) (data : Option (List Byte)) (s : State)  : (hostReadCompletion w data s).locks = s.locks := by unfold hostReadCompletion; (repeat' split) <;> simp
@[simp] theorem msixUnmask_locks (ld : Nat) (v : Nat) (s : State)  : (msixUnmask ld v s).locks = s.locks := by unfold msixUnmask; dsimp only; (repeat' split) <;> simp_all
@[simp] theorem State.rowDegraded_locks (s : State) (row : Nat) : (s.rowDegraded row).locks = s.locks := by
  unfold State.rowDegraded; dsimp only; rw [foldl_locks]
  · simp
  · intro s a; (repeat' split) <;> simp
@[simp] theorem shift_locks (d : Nat) (row : Nat) (pos : Nat) (s : State)  : (shift d row pos s).locks = s.locks := by unfold shift; dsimp only; (repeat' split) <;> simp_all
@[simp] theorem State.reloadStand_locks (s : State) (st : Nat) (lost : Bool)  : (State.reloadStand s st lost).locks = s.locks := by unfold State.reloadStand; (repeat' split) <;> simp
@[simp] theorem rowShifted_locks (s : State) : (rowShifted s).locks = s.locks := by
  unfold rowShifted; dsimp only; split
  · rfl
  · rw [State.raiseAt_locks, State.updRepair_locks, State.updRow_locks, foldl_locks]
    intro s q; split <;> simp
@[simp] theorem State.sendCtl_locks (s : State) (d : Nat) (c : Ctl) (lid : Nat)  : (State.sendCtl s d c lid).locks = s.locks := by unfold State.sendCtl; (repeat' split) <;> simp
@[simp] theorem State.sendCtls_locks (s : State) (d : Nat) (c : Ctl) (lids : List Nat)  : (State.sendCtls s d c lids).locks = s.locks := by unfold State.sendCtls; (repeat' split) <;> simp
@[simp] theorem State.giveGo_locks (s : State) (d : Nat) (c : Ctl)  : (State.giveGo s d c).locks = s.locks := by unfold State.giveGo; (repeat' split) <;> simp
@[simp] theorem State.rootDone_locks (s : State) (d : Nat) (c : Ctl)  : (State.rootDone s d c).locks = s.locks := by unfold State.rootDone; dsimp only; (repeat' split) <;> simp_all
@[simp] theorem State.subtreeDone_locks (s : State) (d : Nat)  : (State.subtreeDone s d).locks = s.locks := by unfold State.subtreeDone; dsimp only; (repeat' split) <;> simp_all
@[simp] theorem State.spreadArm_locks (s : State) (d : Nat) (c : Ctl) (parent : Option Nat)  : (State.spreadArm s d c parent).locks = s.locks := by unfold State.spreadArm; dsimp only; (repeat' split) <;> simp_all
@[simp] theorem bcastStart_locks (d : Nat) (resume : Bool) (s : State)  : (bcastStart d resume s).locks = s.locks := by unfold bcastStart; dsimp only; (repeat' split) <;> simp_all
@[simp] theorem bcastAbandon_locks (d : Nat) (s : State)  : (bcastAbandon d s).locks = s.locks := by unfold bcastAbandon; (repeat' split) <;> simp
@[simp] theorem State.dropCtl_locks (s : State) (p : Packet)  : (State.dropCtl s p).locks = s.locks := by unfold State.dropCtl; (repeat' split) <;> simp
@[simp] theorem takeCtl_locks (cmd : Nat) (corrupt : Bool) (f : Nat → Packet → Ctl → State → State) (s : State)
    (h : ∀ a b c d, (f a b c d).locks = d.locks) : (takeCtl cmd corrupt f s).locks = s.locks := by
  unfold takeCtl
  split
  · rename_i a b hh
    have : a.locks = s.locks := by
      have h2 := congrArg (fun p => p.1.locks) hh
      simpa using h2.symm
    (repeat' split) <;> simp_all
  · rename_i a hh
    have h2 := congrArg (fun p => p.1.locks) hh
    simpa using h2.symm
@[simp] theorem controlArm_locks (corrupt : Bool) (s : State)  : (controlArm corrupt s).locks = s.locks := by unfold controlArm; (repeat' split) <;> simp (disch := (intros; (repeat' split) <;> simp [apply_ite State.locks, apply_ite Prod.fst, apply_dite State.locks])) [apply_ite State.locks, apply_ite Prod.fst, apply_dite State.locks]
@[simp] theorem controlGo_locks (corrupt : Bool) (s : State)  : (controlGo corrupt s).locks = s.locks := by unfold controlGo; (repeat' split) <;> simp (disch := (intros; (repeat' split) <;> simp (disch := (intros; (repeat' split) <;> try simp))))
@[simp] theorem confirm_locks (corrupt : Bool) (s : State)  : (confirm corrupt s).locks = s.locks := by unfold confirm; (repeat' split) <;> simp (disch := (intros; (repeat' split) <;> simp [apply_ite State.locks, apply_ite Prod.fst, apply_dite State.locks])) [apply_ite State.locks, apply_ite Prod.fst, apply_dite State.locks]
@[simp] theorem bar2Write_locks (ld : Nat) (off : Nat) (v : Nat) (s : State)  : (bar2Write ld off v s).locks = s.locks := by unfold bar2Write; (repeat' split) <;> simp
@[simp] theorem planCmd_locks (d : Nat) (v : Nat) (s : State)  : (planCmd d v s).locks = s.locks := by unfold planCmd; (repeat' split) <;> simp
@[simp] theorem ctxWrite_locks (d : Nat) (o : Nat) (v : Nat) (s : State)  : (ctxWrite d o v s).locks = s.locks := by unfold ctxWrite; (repeat' split) <;> simp
@[simp] theorem bcastWrite_locks (d : Nat) (o : Nat) (v : Nat) (s : State)  : (bcastWrite d o v s).locks = s.locks := by unfold bcastWrite; (repeat' split) <;> simp
@[simp] theorem repairWrite_locks (d : Nat) (o : Nat) (v : Nat) (s : State)  : (repairWrite d o v s).locks = s.locks := by unfold repairWrite; (repeat' split) <;> simp
@[simp] theorem lndWrite_locks (d : Nat) (o : Nat) (v : Nat) (s : State)  : (lndWrite d o v s).locks = s.locks := by unfold lndWrite; (repeat' split) <;> simp
@[simp] theorem grWrite_locks (d : Nat) (o : Nat) (v : Nat) (s : State)  : (grWrite d o v s).locks = s.locks := by unfold grWrite; (repeat' split) <;> simp
@[simp] theorem qWrite_locks (d : Nat) (o : Nat) (v : Nat) (s : State)  : (qWrite d o v s).locks = s.locks := by unfold qWrite; (repeat' split) <;> simp
@[simp] theorem tallyWrite_locks (d : Nat) (o : Nat) (v : Nat) (s : State)  : (tallyWrite d o v s).locks = s.locks := by unfold tallyWrite; (repeat' split) <;> simp
@[simp] theorem mapWrite_locks (d : Nat) (o : Nat) (v : Nat) (s : State)  : (mapWrite d o v s).locks = s.locks := by unfold mapWrite; (repeat' split) <;> simp
@[simp] theorem buckCmd_locks (d : Nat) (v : Nat) (jobs : List Nat) (s : State)  : (buckCmd d v jobs s).locks = s.locks := by unfold buckCmd; (repeat' split) <;> simp
@[simp] theorem buckJobBase_locks (d : Nat) (v : Nat) (s : State)  : (buckJobBase d v s).locks = s.locks := by unfold buckJobBase; dsimp only; (repeat' split) <;> simp_all
@[simp] theorem buckWrite_locks (d : Nat) (o : Nat) (v : Nat) (jobs : List Nat) (s : State)  : (buckWrite d o v jobs s).locks = s.locks := by unfold buckWrite; (repeat' split) <;> simp
@[simp] theorem notchWrite_locks (d : Nat) (n : Nat) (v : Nat) (s : State)  : (notchWrite d n v s).locks = s.locks := by unfold notchWrite; (repeat' split) <;> simp
@[simp] theorem standWrite_locks (st : Nat) (o : Nat) (v : Nat) (s : State)  : (standWrite st o v s).locks = s.locks := by unfold standWrite; (repeat' split) <;> simp
@[simp] theorem ldSet_locks (d : Nat) (off : Nat) (v : Nat) (jobs : List Nat) (s : State)  : (ldSet d off v jobs s).locks = s.locks := by unfold ldSet; dsimp only; (repeat' split) <;> simp_all
@[simp] theorem bar0Write_locks (d off v : Nat) (jobs : List Nat) (s : State) : (bar0Write d off v jobs s).locks = s.locks := by
  unfold bar0Write
  split
  · rfl
  · split
    · simp
    · split
      · simp
      · split
        · split <;> simp
        · split
          · rename_i r hq; exact State.clearReg_locks hq
          · simp
@[simp] theorem hostLinkUp_locks (speed : Nat) (width : Nat) (s : State)  : (hostLinkUp speed width s).locks = s.locks := by unfold hostLinkUp; (repeat' split) <;> simp
@[simp] theorem pwrWarnHalt_locks (s : State)  : (pwrWarnHalt s).locks = s.locks := by unfold pwrWarnHalt; (repeat' split) <;> simp (disch := (intros; (repeat' split) <;> simp (disch := (intros; (repeat' split) <;> try simp))))
@[simp] theorem promptStaged_locks (q : Nat) (s : State)  : (promptStaged q s).locks = s.locks := by unfold promptStaged; dsimp only; (repeat' split) <;> simp_all

/-! The exceptions. -/

/-- The part of `locks` that only a reset or a boot changes. -/
def State.lockPart (s : State) : Tab Dom × Bool × Tab (List Byte) × Bool × List Instr :=
  (s.prot, s.sec.locked, s.sec.sects, s.pins.held, s.pending)

theorem State.lockPart_of {s t : State} (h : t.locks = s.locks) : t.lockPart = s.lockPart := by
  simp only [State.locks, Prod.mk.injEq] at h; simp [State.lockPart, h]

theorem State.flash_of {s t : State} (h : t.locks = s.locks) : t.flash = s.flash := by
  simp only [State.locks, Prod.mk.injEq] at h; simp [h]

theorem State.clock_of {s t : State} (h : t.locks = s.locks) :
    t.ring.count = s.ring.count ∧ t.ring.cycle = s.ring.cycle ∧ t.ring.lenLog2 = s.ring.lenLog2 ∧ t.ael.seeded = s.ael.seeded := by
  simp only [State.locks, Prod.mk.injEq] at h; simp [h]

/-! An update writes the flash and nothing else of `locks`. -/

theorem State.program_lockPart (s : State) (off : Nat) (bs : List Byte) : (s.program off bs).lockPart = s.lockPart := rfl

theorem updateBegin_lockPart (tag : Nat) (s : State) : (updateBegin tag s).lockPart = s.lockPart := by
  unfold updateBegin State.command15
  split
  · dsimp only
    split
    · exact State.lockPart_of (by simp)
    · rw [State.lockPart_of (State.respond_locks ..), State.lockPart_of (State.updMgmt_locks ..), State.lockPart_of (State.setCopy_locks ..)]
      rfl
  · rfl

theorem updateWrite_lockPart (tag off : Nat) (bs : List Byte) (s : State) : (updateWrite tag off bs s).lockPart = s.lockPart := by
  unfold updateWrite State.command15
  split
  · dsimp only
    split
    · exact State.lockPart_of (by simp)
    · split
      · exact State.lockPart_of (by simp)
      · exact (State.lockPart_of (by simp)).trans (State.program_lockPart s off bs)
  · rfl

theorem State.changeAll_lockPart (s : State) (port off sel old new : Nat) (f : State → State) (h : (f s).lockPart = s.lockPart) :
    (s.changeAll port off sel old new f).lockPart = s.lockPart := by
  unfold State.changeAll
  split
  · exact State.lockPart_of (by rw [foldl_locks]; intro s a; split <;> simp)
  · exact (State.lockPart_of (by simp)).trans h

theorem State.commit_lockPart (s : State) (hdr : List Byte) : (s.commit hdr).lockPart = s.lockPart := by
  unfold State.commit
  refine State.changeAll_lockPart _ _ _ _ _ _ _ ?_
  show ((((s.program 4 (hdr.drop 4)).program 0 (hdr.take 4)).setCopy s.mgmt.updCopy 0 (num hdr 8 8)).updMgmt _).lockPart = s.lockPart
  rw [State.lockPart_of (State.updMgmt_locks _ _), State.lockPart_of (State.setCopy_locks _ _ _ _), State.program_lockPart, State.program_lockPart]

theorem updateCommit_lockPart (tag : Nat) (hdr : List Byte) (seed : Option (List Byte)) (s : State) :
    (updateCommit tag hdr seed s).lockPart = s.lockPart := by
  unfold updateCommit State.command15
  split
  · dsimp only
    split
    · exact State.lockPart_of (by simp)
    · split
      · exact State.lockPart_of (by simp)
      · split
        · exact State.lockPart_of (by simp)
        · exact (State.lockPart_of (by simp)).trans (State.commit_lockPart s hdr)
  · rfl

/-! The root clock, and the seeding of ring time (R34, R35, R521, R522). -/

theorem State.nextEdge_lockPart (s : State) : s.nextEdge.lockPart = s.lockPart := rfl
theorem State.nextEdge_flash (s : State) : s.nextEdge.flash = s.flash := rfl

theorem tick_lockPart (s : State) : (tick s).lockPart = s.lockPart := by
  unfold tick; split
  · rfl
  · rw [State.lockPart_of (State.beginCycle_locks _), State.lockPart_of (State.sendBlocks_locks _), State.nextEdge_lockPart,
      State.lockPart_of (State.endCycle_locks _)]
theorem tick_flash (s : State) : (tick s).flash = s.flash := by
  unfold tick; split
  · rfl
  · rw [State.flash_of (State.beginCycle_locks _), State.flash_of (State.sendBlocks_locks _), State.nextEdge_flash,
      State.flash_of (State.endCycle_locks _)]

theorem State.nextEdge_clock (s : State) : s.nextEdge.ring.count = s.ring.count ∧ s.nextEdge.ring.cycle = s.ring.cycle + 1 ∧
    s.nextEdge.ring.lenLog2 = s.ring.lenLog2 ∧ s.nextEdge.ael.seeded = s.ael.seeded := ⟨rfl, rfl, rfl, rfl⟩

/-- R35: a root edge adds one to the cycle, within the ring. -/
theorem tick_clock (s : State) (h : s.ring.cycle + 1 < s.L) : (tick s).ring.count = s.ring.count ∧
    (tick s).ring.cycle = s.ring.cycle + 1 ∧ (tick s).ring.lenLog2 = s.ring.lenLog2 ∧ (tick s).ael.seeded = s.ael.seeded := by
  have h1 := State.clock_of (State.beginCycle_locks s.endCycle.nextEdge.sendBlocks)
  have h2 := State.clock_of (State.sendBlocks_locks s.endCycle.nextEdge)
  have h3 := State.clock_of (State.endCycle_locks s)
  have h4 := State.nextEdge_clock s.endCycle
  unfold tick; rw [if_neg (Nat.not_le.mpr h)]
  rw [h1.1, h1.2.1, h1.2.2.1, h1.2.2.2, h2.1, h2.2.1, h2.2.2.1, h2.2.2.2, h4.1, h4.2.1, h4.2.2.1, h4.2.2.2, h3.1, h3.2.1, h3.2.2.1, h3.2.2.2]
  exact ⟨rfl, rfl, rfl, rfl⟩

theorem State.acquire_seeded (s : State) (h : s.ael.seeded = true) : s.acquire = s := by unfold State.acquire; simp [h]
theorem State.acquire_lockPart (s : State) : s.acquire.lockPart = s.lockPart := by
  unfold State.acquire; split
  · rfl
  · exact (State.lockPart_of (s := { s with ring := _ }) rfl).trans rfl
theorem State.acquire_flash (s : State) : s.acquire.flash = s.flash := by unfold State.acquire; split <;> rfl

theorem State.seedRing_seeded (s : State) (h : s.ael.seeded = true) : s.seedRing.locks = s.locks := by
  unfold State.seedRing; (repeat' split) <;> simp_all
theorem State.seedRing_lockPart (s : State) : s.seedRing.lockPart = s.lockPart := by
  unfold State.seedRing; (repeat' split)
  · rfl
  · rfl
  · rfl
  · exact State.lockPart_of (by simp)
theorem State.seedRing_flash (s : State) : s.seedRing.flash = s.flash := by
  unfold State.seedRing; (repeat' split)
  · rfl
  · rfl
  · rfl
  · exact State.flash_of (by simp)

theorem State.bcastBoundaries_locks (s : State) : (s.eachCtx State.bcastBoundary).locks = s.locks := by simp

theorem State.nextRing_locks (s : State) : s.nextRing.lockPart = s.lockPart ∧ s.nextRing.flash = s.flash ∧
    s.nextRing.ring.count = (s.ring.count + 1) % 2 ^ 64 ∧ s.nextRing.ring.cycle = 0 ∧ s.nextRing.ring.lenLog2 = s.ring.lenLog2 ∧
    s.nextRing.ael.seeded = s.ael.seeded := ⟨rfl, rfl, rfl, rfl, rfl, rfl⟩

/-- A boundary up to the links, and from the seeding of ring time on. -/
def State.boundaryHead (s : State) : State := ((s.endCycle.settlePhases.nextRing.eachCtx State.twinBoundary).portBoundary 12).linksDone
def State.boundaryTail (s : State) (heard : Bool) (l : Nat → Nat) : State :=
  let s := (s.orphanRing heard).restoreRef
  let s := (s.dropFlits.eachCtx State.ctxBoundary).cmpBoundary l
  let s := (s.eachCtx State.bcastBoundary).shiftBoundary
  let s := (s.buildBank s.ring.count).flushIfStopped
  (s.pulseRing.sendMarks 12).beginCycle

theorem ringBoundary_parts (s : State) : ringBoundary s = (s.boundaryHead.acquire.seedRing).boundaryTail s.heardParent fun k => (s.getCmp k).loc + 1 := by
  simp only [ringBoundary, State.boundaryHead, State.boundaryTail]

theorem State.endPhases_locks (s : State) : s.endCycle.settlePhases.locks = s.locks := by simp
theorem State.boundaryHead_locks (s : State) : s.boundaryHead.locks = s.endCycle.settlePhases.nextRing.locks := by unfold State.boundaryHead; simp
theorem State.boundaryTail_locks (s : State) (heard : Bool) (l : Nat → Nat) : (s.boundaryTail heard l).locks = s.locks := by unfold State.boundaryTail; simp

theorem ringBoundary_lockPart (s : State) : (ringBoundary s).lockPart = s.lockPart := by
  rw [ringBoundary_parts, State.lockPart_of (State.boundaryTail_locks _ _ _), State.seedRing_lockPart, State.acquire_lockPart,
    State.lockPart_of (State.boundaryHead_locks _), (State.nextRing_locks _).1, State.lockPart_of (State.endPhases_locks _)]

theorem ringBoundary_flash (s : State) : (ringBoundary s).flash = s.flash := by
  rw [ringBoundary_parts, State.flash_of (State.boundaryTail_locks _ _ _), State.seedRing_flash, State.acquire_flash,
    State.flash_of (State.boundaryHead_locks _), (State.nextRing_locks _).2.1, State.flash_of (State.endPhases_locks _)]

/-- R34, R41: once ring time is seeded a boundary adds one to the count and restarts the cycle. -/
theorem ringBoundary_clock (s : State) (h : s.ael.seeded = true) : (ringBoundary s).ring.count = (s.ring.count + 1) % 2 ^ 64 ∧
    (ringBoundary s).ring.cycle = 0 ∧ (ringBoundary s).ring.lenLog2 = s.ring.lenLog2 ∧ (ringBoundary s).ael.seeded = true := by
  have hh := State.clock_of (State.boundaryHead_locks s)
  have hn := State.nextRing_locks s.endCycle.settlePhases
  have hs := State.clock_of (State.endPhases_locks s)
  have hd : s.boundaryHead.ael.seeded = true := by rw [hh.2.2.2, hn.2.2.2.2.2, hs.2.2.2, h]
  have ht := State.clock_of ((State.boundaryTail_locks (s.boundaryHead.acquire.seedRing) s.heardParent fun k => (s.getCmp k).loc + 1).trans
    (State.seedRing_seeded _ (by rw [State.acquire_seeded _ hd, hd])))
  rw [State.acquire_seeded _ hd] at ht
  rw [ringBoundary_parts, State.acquire_seeded _ hd]
  simp [ht, hh, hn, hs, h]

end Sys2Proof.Machine
end

