-- ==== Sys2Proof/Laws/Stand.lean ====
section
/-! SUPPORT. What the operations that instructions share leave unchanged: of the device outside the stands (far), of the other
stands (others), and of a stand its plan and its banks (layout). -/

set_option linter.unusedSimpArgs false

namespace Sys2Proof.Machine

/-- What no instruction of a stand writes. -/
def State.far (s : State) : RingSt × Tab Cmp × Therm × Repair × Tab Bcast × MemSt × AelSt × WeightSt × NotchSt × QueueSt × HubSt × Tab Dom × Sec × Mem × Pins × List Instr :=
  (s.ring, s.cmp, s.therm, s.repair, s.bcast, s.mem, s.ael, s.weight, s.notch, s.queue, s.hub, s.prot, s.sec, s.flash, s.pins, s.pending)

@[simp] theorem State.far_fold (s : State) : (s.ring, s.cmp, s.therm, s.repair, s.bcast, s.mem, s.ael, s.weight, s.notch, s.queue, s.hub, s.prot, s.sec, s.flash, s.pins, s.pending) = s.far := rfl

@[simp] theorem State.far_mk (a b c d e f g h i j k l m n o p q r t u v w x y z) :
    State.far ⟨a, b, c, d, e, f, g, h, i, j, k, l, m, n, o, p, q, r, t, u, v, w, x, y, z⟩ = (a, e, f, g, h, k, l, m, n, o, p, q, r, v, w, z) := rfl

@[simp] theorem foldl_far {α : Type} (f : State → α → State) (l : List α) (s : State) (h : ∀ s a, (f s a).far = s.far) :
    (l.foldl f s).far = s.far := by
  induction l generalizing s with
  | nil => rfl
  | cons a l ih => rw [List.foldl_cons, ih, h]

@[simp] theorem foldl_fst_far {α β : Type} (f : State × β → α → State × β) (l : List α) (p : State × β)
    (h : ∀ p a, ((f p a).1).far = p.1.far) : ((l.foldl f p).1).far = p.1.far := by
  induction l generalizing p with
  | nil => rfl
  | cons a l ih => rw [List.foldl_cons, ih, h]

@[simp] theorem State.takeFree_far (s : State) : s.takeFree.2.far = s.far := rfl

@[simp] theorem State.updStand_far (s : State) (st : Nat) (f : Stand → Stand)  : (State.updStand s st f).far = s.far := by unfold State.updStand; (repeat' split) <;> simp
@[simp] theorem State.updTally_far (s : State) (d : Nat) (f : TallyCtx → TallyCtx)  : (State.updTally s d f).far = s.far := by unfold State.updTally; (repeat' split) <;> simp
@[simp] theorem State.failStep_far (s : State) (d : Nat) (cause : Nat) (unit : Nat)  : (State.failStep s d cause unit).far = s.far := by unfold State.failStep; (repeat' split) <;> simp
@[simp] theorem State.updAcc_far (s : State) (d : Nat) (f : StepAcc → StepAcc)  : (State.updAcc s d f).far = s.far := by unfold State.updAcc; (repeat' split) <;> simp
@[simp] theorem State.hostWrite_far (s : State) (ld : Nat) (addr : Nat) (bytes : List Byte)  : (State.hostWrite s ld addr bytes).far = s.far := by unfold State.hostWrite; (repeat' split) <;> simp
@[simp] theorem State.updMsix_far (s : State) (ld : Nat) (v : Nat) (f : Msix → Msix)  : (State.updMsix s ld v f).far = s.far := by unfold State.updMsix; (repeat' split) <;> simp
@[simp] theorem State.hostDrop_far (s : State) (ld : Nat) (cause : Nat) (off : Nat)  : (State.hostDrop s ld cause off).far = s.far := by unfold State.hostDrop; (repeat' split) <;> simp
@[simp] theorem State.sendMsi_far (s : State) (ld : Nat) (v : Nat)  : (State.sendMsi s ld v).far = s.far := by unfold State.sendMsi; dsimp only; (repeat' split) <;> simp_all
@[simp] theorem State.putEvent_far (s : State) (ld : Nat) (r : List Byte)  : (State.putEvent s ld r).far = s.far := by unfold State.putEvent; dsimp only; (repeat' split) <;> simp_all
@[simp] theorem State.putLog_far (s : State) (r : List Byte)  : (State.putLog s r).far = s.far := by unfold State.putLog; (repeat' split) <;> simp
@[simp] theorem State.raiseAt_far (s : State) (code : Nat) (d : Nat) (unit : Nat) (cyc : Nat) (i1 : Nat) (i2 : Nat)  : (State.raiseAt s code d unit cyc i1 i2).far = s.far := by unfold State.raiseAt; dsimp only; (repeat' split) <;> simp_all
@[simp] theorem State.noteTaint_far (s : State) (st : Nat) (k : Nat) (ctr : Nat) (tainted : Bool)  : (State.noteTaint s st k ctr tainted).far = s.far := by unfold State.noteTaint; dsimp only; (repeat' split) <;> simp_all
@[simp] theorem State.addOp_far (s : State) (st : Nat) (k : Nat) (h : Hdr) (due : Nat) (sus : Bool) (kind : OpKind)  : (State.addOp s st k h due sus kind).far = s.far := by unfold State.addOp; (repeat' split) <;> simp
@[simp] theorem State.updCtx_far (s : State) (d : Nat) (f : PlanCtx → PlanCtx)  : (State.updCtx s d f).far = s.far := by unfold State.updCtx; (repeat' split) <;> simp
@[simp] theorem State.askHalt_far (s : State) (d : Nat) (cause : Nat) (ring : Nat) (unit : Nat)  : (State.askHalt s d cause ring unit).far = s.far := by unfold State.askHalt; (repeat' split) <;> simp
@[simp] theorem State.raiseFail_far (s : State) (code : Nat) (d : Nat) (unit : Nat) (cyc : Nat) (i1 : Nat) (i2 : Nat)  : (State.raiseFail s code d unit cyc i1 i2).far = s.far := by unfold State.raiseFail; (repeat' split) <;> simp
@[simp] theorem State.parityFault_far (s : State) (st : Nat) (stream : Nat) (store : Nat)  : (State.parityFault s st stream store).far = s.far := by unfold State.parityFault; (repeat' split) <;> simp
@[simp] theorem State.consume_far (s : State) (st : Nat) (h : Hdr) (rcomb : Option Nat)  : (State.consume s st h rcomb).far = s.far := by unfold State.consume; (repeat' split) <;> simp
@[simp] theorem State.noteSlip_far (s : State) (d : Nat) (unit : Nat) (late : Nat) (cyc : Nat)  : (State.noteSlip s d unit late cyc).far = s.far := by unfold State.noteSlip; dsimp only; (repeat' split) <;> simp_all
@[simp] theorem State.beginIssue_far (s : State) (st : Nat) (k : Nat) (h : Hdr) (rcomb : Option Nat) (occ : Nat)  : (State.beginIssue s st k h rcomb occ).far = s.far := by unfold State.beginIssue; dsimp only; (repeat' split) <;> simp_all
@[simp] theorem nopEffect_far (st : Nat) (k : Nat) (h : Hdr) (s : State)  : (nopEffect st k h s).far = s.far := by unfold nopEffect; (repeat' split) <;> simp
@[simp] theorem arEffect_far (st : Nat) (k : Nat) (stamp : Nat) (rd : Nat) (v : Stand → Nat) (s : State)  : (arEffect st k stamp rd v s).far = s.far := by unfold arEffect; (repeat' split) <;> simp
@[simp] theorem State.updNode_far (s : State) (l : Loc) (f : Node → Node)  : (State.updNode s l f).far = s.far := by unfold State.updNode; (repeat' split) <;> simp
@[simp] theorem State.newPacket_far (s : State) (lat : Nat) (src : Loc) (route : List Nat) (rail : Nat) (reply : Bool) (dom : Nat) (pl : Payload) (op : Option (Nat × Nat))  : (State.newPacket s lat src route rail reply dom pl op).far = s.far := by unfold State.newPacket; (repeat' split) <;> simp
@[simp] theorem State.opStepAt_far (s : State) (delay : Nat) (o : Option (Nat × Nat)) (sus : Bool)  : (State.opStepAt s delay o sus).far = s.far := by unfold State.opStepAt; (repeat' split) <;> simp
@[simp] theorem State.opStep_far (s : State) (o : Option (Nat × Nat)) (sus : Bool)  : (State.opStep s o sus).far = s.far := by unfold State.opStep; (repeat' split) <;> simp
@[simp] theorem State.sendBy_far (s : State) (lat : Nat) (src : Loc) (e : Nat) (dom : Nat) (pl : Payload) (op : Option (Nat × Nat)) (waits : Option (Nat × Nat))  : (State.sendBy s lat src e dom pl op waits).far = s.far := by unfold State.sendBy; (repeat' split) <;> simp
@[simp] theorem fgPostEffect_far (st : Nat) (h : Hdr) (credit : Bool) (ctr : Nat) (amt : Nat) (route : Nat) (s : State)  : (fgPostEffect st h credit ctr amt route s).far = s.far := by unfold fgPostEffect; (repeat' split) <;> simp
@[simp] theorem fgNotchEffect_far (st : Nat) (h : Hdr) (op : Nat) (notch : Nat) (ret : Nat) (route : Nat) (value : Nat) (s : State)  : (fgNotchEffect st h op notch ret route value s).far = s.far := by unfold fgNotchEffect; (repeat' split) <;> simp
@[simp] theorem State.endJob_far (s : State) (st : Nat) (j : Job)  : (State.endJob s st j).far = s.far := by unfold State.endJob; (repeat' split) <;> simp
@[simp] theorem State.shiftJob_far (s : State) (st : Nat) (j : Job) (now : Nat)  : (State.shiftJob s st j now).far = s.far := by unfold State.shiftJob; (repeat' split) <;> simp
@[simp] theorem State.scoutFind_far (s : State) (d : Nat) (check : Nat) (unit : Nat) (res : Nat) (cyc : Nat)  : (State.scoutFind s d check unit res cyc).far = s.far := by unfold State.scoutFind; (repeat' split) <;> simp
@[simp] theorem State.scoutDeck_far (s : State) (st : Nat) (port : Nat) (bank : Nat) (cyc : Nat)  : (State.scoutDeck s st port bank cyc).far = s.far := by unfold State.scoutDeck; dsimp only; (repeat' split) <;> simp_all
@[simp] theorem State.refuse_far (s : State) (st : Nat) (port : Nat) (off : Int) (cyc : Nat) (cause : Nat)  : (State.refuse s st port off cyc cause).1.far = s.far := by unfold State.refuse; (repeat' split) <;> simp
@[simp] theorem State.enterLine_far (s : State) (st : Nat) (port : Nat) (bank : Nat) (cyc : Nat)  : (State.enterLine s st port bank cyc).far = s.far := by unfold State.enterLine; (repeat' split) <;> simp
@[simp] theorem State.noteUnit_far (s : State) (st : Nat) (cls : Nat) (port : Nat) (a : Nat) (u : Nat) (cyc : Nat) (outcome : Nat) (inj : Option (Nat × List Byte))  : (State.noteUnit s st cls port a u cyc outcome inj).far = s.far := by unfold State.noteUnit; dsimp only; (repeat' split) <;> simp_all
@[simp] theorem State.readUnits_far (st : Nat) (cls : Nat) (port : Nat) (a : Nat) (cyc : Nat) (inj : Option (Nat × List Byte)) (a7 : List Nat) (a8 : State)  : (State.readUnits st cls port a cyc inj a7 a8).1.far = a8.far := by fun_induction State.readUnits st cls port a cyc inj a7 a8 <;> simp_all
@[simp] theorem State.readLine_far (s : State) (st : Nat) (port : Nat) (off : Int) (cyc : Nat)  : (State.readLine s st port off cyc).1.far = s.far := by unfold State.readLine; dsimp only; (repeat' split) <;> simp_all
@[simp] theorem State.raiseMet_far (s : State) (st : Nat) (unit : Nat) (m : Met)  : (State.raiseMet s st unit m).far = s.far := by unfold State.raiseMet; (repeat' split) <;> simp
@[simp] theorem State.jobMet_far (s : State) (st : Nat) (id : Nat) (m : Met)  : (State.jobMet s st id m).far = s.far := by unfold State.jobMet; (repeat' split) <;> simp
@[simp] theorem State.jobRead_far (s : State) (st : Nat) (id : Nat) (port : Nat) (l : Int)  : (State.jobRead s st id port l).far = s.far := by unfold State.jobRead; simp
@[simp] theorem State.scoutInput_far (s : State) (d : Nat) (unit : Nat) (name : Nat) (cyc : Nat)  : (State.scoutInput s d unit name cyc).far = s.far := by unfold State.scoutInput; (repeat' split) <;> simp
@[simp] theorem State.scoutWrite_far (s : State) (st : Nat) (line : Int) (cyc : Nat)  : (State.scoutWrite s st line cyc).far = s.far := by unfold State.scoutWrite; (repeat' split) <;> simp
@[simp] theorem State.mergeUnits_far (st : Nat) (cls : Nat) (port : Nat) (a : Nat) (cyc : Nat) (inj : Option (Nat × List Byte)) (a7 : List Nat) (a8 : State)  : (State.mergeUnits st cls port a cyc inj a7 a8).1.far = a8.far := by fun_induction State.mergeUnits st cls port a cyc inj a7 a8 <;> simp_all +zetaDelta
@[simp] theorem State.writeLine_far (s : State) (st : Nat) (port : Nat) (off : Int) (cyc : Nat) (arrival : Bool) (img : Nat) (be : Nat)  : (State.writeLine s st port off cyc arrival img be).1.far = s.far := by unfold State.writeLine; dsimp only; (repeat' split) <;> simp_all
@[simp] theorem State.jobWrite_far (s : State) (st : Nat) (id : Nat) (port : Nat) (l : Int) (img : Nat) (be : Nat)  : (State.jobWrite s st id port l img be).far = s.far := by unfold State.jobWrite; simp
@[simp] theorem State.runAct_far (s : State) (stage : Stage) (st : Nat) (j : Job) (a : Act) (hstage : ∀ x0 x1 x2 x3, (stage x0 x1 x2 x3).far = x3.far) : (State.runAct s stage st j a).far = s.far := by
  unfold State.runAct; dsimp only; split <;> simp [hstage]
@[simp] theorem State.runJob_far (stage : Stage) (st : Nat) (id : Nat) (a : Nat) (a5 : State) (hstage : ∀ x0 x1 x2 x3, (stage x0 x1 x2 x3).far = x3.far) : (State.runJob stage st id a a5).far = a5.far := by fun_induction State.runJob stage st id a a5 <;> simp_all
@[simp] theorem State.startJob_far (s : State) (stage : Stage) (st : Nat) (id : Nat) (stream : Nat) (kind : JobKind) (sus : Bool) (acts : List (Nat × Act)) (hstage : ∀ x0 x1 x2 x3, (stage x0 x1 x2 x3).far = x3.far) : (State.startJob s stage st id stream kind sus acts).far = s.far := by unfold State.startJob; (repeat' split) <;> simp_all
@[simp] theorem State.edFail_far (s : State) (st : Nat) (issued : Nat) (res : List Nat) (tab : List Nat)  : (State.edFail s st issued res tab).far = s.far := by unfold State.edFail; dsimp only; (repeat' split) <;> simp_all
@[simp] theorem State.computeStage_far (s : State) (st : Nat) (j : Job) (k : EdKind) (o : EdOp) (a : Slot) (b : Slot) (c : Slot) (d : Slot) (wr : Nat)  : (State.computeStage s st j k o a b c d wr).far = s.far := by unfold State.computeStage; simp
@[simp] theorem State.residentStage_far (s : State) (st : Nat) (j : Job) (slot : Nat)  : (State.residentStage s st j slot).far = s.far := by unfold State.residentStage; (repeat' split) <;> simp
@[simp] theorem edStage_far (a : Nat) (a2 : Job) (a3 : Act) (a4 : State)  : (edStage a a2 a3 a4).far = a4.far := by unfold edStage; (repeat' split) <;> simp
@[simp] theorem edEffect_far (k : EdKind) (st : Nat) (o : EdOp) (s : State)  : (edEffect k st o s).far = s.far := by unfold edEffect; (repeat' split) <;> simp
@[simp] theorem edOpenEffect_far (st : Nat) (h : Hdr) (slot : Nat) (handle : Nat) (out : Bool) (wrap : Bool) (arEn : Bool) (areg : Nat) (s : State)  : (edOpenEffect st h slot handle out wrap arEn areg s).far = s.far := by unfold edOpenEffect; dsimp only; (repeat' split) <;> simp_all
@[simp] theorem edCloseEffect_far (st : Nat) (h : Hdr) (slot : Nat) (s : State)  : (edCloseEffect st h slot s).far = s.far := by unfold edCloseEffect; (repeat' split) <;> simp
@[simp] theorem edTakeEffect_far (st : Nat) (h : Hdr) (slot : Nat) (e : Ftq) (s : State)  : (edTakeEffect st h slot e s).far = s.far := by unfold edTakeEffect; (repeat' split) <;> simp
@[simp] theorem State.loadStage_far (s : State) (st : Nat) (j : Job) (handle : Nat) (buf : Nat) (base : Int)  : (State.loadStage s st j handle buf base).far = s.far := by unfold State.loadStage; (repeat' split) <;> simp
@[simp] theorem State.rowStage_far (s : State) (st : Nat) (j : Job) (r0 : Nat) (i : Nat) (init : Bool) (c : AccRow)  : (State.rowStage s st j r0 i init c).far = s.far := by unfold State.rowStage; (repeat' split) <;> simp
@[simp] theorem State.mulStage_far (s : State) (st : Nat) (j : Job) (handle : Nat) (aoff : Nat) (buf : Nat) (r0 : Nat) (i : Nat) (init : Bool)  : (State.mulStage s st j handle aoff buf r0 i init).far = s.far := by unfold State.mulStage; (repeat' split) <;> simp
@[simp] theorem State.addxStage_far (s : State) (st : Nat) (j : Job) (handle : Nat) (aoff : Nat) (fp32 : Bool) (r0 : Nat) (i : Nat) (init : Bool)  : (State.addxStage s st j handle aoff fp32 r0 i init).far = s.far := by unfold State.addxStage; (repeat' split) <;> simp
@[simp] theorem State.drainStage_far (s : State) (st : Nat) (j : Job) (i : Nat)  : (State.drainStage s st j i).far = s.far := by unfold State.drainStage; (repeat' split) <;> simp
@[simp] theorem hrStage_far (a : Nat) (a2 : Job) (a3 : Act) (a4 : State)  : (hrStage a a2 a3 a4).far = a4.far := by unfold hrStage; (repeat' split) <;> simp
@[simp] theorem hrLoadEffect_far (st : Nat) (h : Hdr) (handle : Nat) (tile : Nat) (buf : Nat) (arEn : Bool) (areg : Nat) (s : State)  : (hrLoadEffect st h handle tile buf arEn areg s).far = s.far := by unfold hrLoadEffect; (repeat' split) <;> simp
@[simp] theorem hrMulEffect_far (st : Nat) (h : Hdr) (handle : Nat) (buf : Nat) (rows : Nat) (r0 : Nat) (init : Bool) (arEn : Bool) (areg : Nat) (s : State)  : (hrMulEffect st h handle buf rows r0 init arEn areg s).far = s.far := by unfold hrMulEffect; (repeat' split) <;> simp
@[simp] theorem hrAddxEffect_far (st : Nat) (h : Hdr) (handle : Nat) (fp32 : Bool) (rows : Nat) (r0 : Nat) (init : Bool) (arEn : Bool) (areg : Nat) (s : State)  : (hrAddxEffect st h handle fp32 rows r0 init arEn areg s).far = s.far := by unfold hrAddxEffect; (repeat' split) <;> simp
@[simp] theorem hrDrainEffect_far (st : Nat) (h : Hdr) (handle : Nat) (rows : Nat) (r0 : Nat) (fmt : Nat) (sat : Bool) (adj : Int) (push : Bool) (tag : Nat) (arEn : Bool) (areg : Nat) (s : State)  : (hrDrainEffect st h handle rows r0 fmt sat adj push tag arEn areg s).far = s.far := by unfold hrDrainEffect; (repeat' split) <;> simp
@[simp] theorem State.skIssue_far (stage : Stage) (s : State) (st : Nat) (h : Hdr) (kind : JobKind) (ix : List Int) (hstage : ∀ x0 x1 x2 x3, (stage x0 x1 x2 x3).far = x3.far) : (State.skIssue stage s st h kind ix).far = s.far := by unfold State.skIssue; (repeat' split) <;> simp_all
@[simp] theorem State.indexFault_far (s : State) (st : Nat) (inst : Nat) (ent : Nat) (cause : Nat) (kind : Nat) (handle : Nat) (value : Nat) (cyc : Nat)  : (State.indexFault s st inst ent cause kind handle value cyc).far = s.far := by unfold State.indexFault; dsimp only; (repeat' split) <;> simp_all
@[simp] theorem State.noteEntries_far (s : State) (st : Nat) (j : Job) (h : Nat) (w : Walk)  : (State.noteEntries s st j h w).far = s.far := by unfold State.noteEntries; (repeat' split) <;> simp (disch := (intros; (repeat' split) <;> simp))
@[simp] theorem State.farFaults_far (s : State) (st : Nat) (j : Job) (h : Nat) (bs : List (Option Int × Nat))  : (State.farFaults s st j h bs).far = s.far := by unfold State.farFaults; simp only []; (repeat' split) <;> simp (disch := (intros; (repeat' split) <;> simp))
@[simp] theorem State.addGrain_far (s : State) (d : Nat) (g : Nat) (n : Nat) (be : Nat) (line : List Byte) (cyc : Nat) (sus : Bool)  : (State.addGrain s d g n be line cyc sus).far = s.far := by unfold State.addGrain; dsimp only; (repeat' split) <;> simp_all
@[simp] theorem State.grainOne_far (s : State) (st : Nat) (d : Desc) (g : Nat) (l : Int) (p : List Byte × Nat) (sus : Bool)  : (State.grainOne s st d g l p sus).far = s.far := by unfold State.grainOne; (repeat' split) <;> simp
@[simp] theorem State.awaits_far (s : State) (st : Nat) (id : Nat) (n : Nat)  : (State.awaits s st id n).far = s.far := by unfold State.awaits; (repeat' split) <;> simp
@[simp] theorem State.goOnJob_far (s : State) (st : Nat) (id : Nat) (k : JobKind) (more : LineTab) (acts : List (Nat × Act))  : (State.goOnJob s st id k more acts).far = s.far := by unfold State.goOnJob; (repeat' split) <;> simp
@[simp] theorem State.moveIn_far (s : State) (st : Nat) (j : Job) (mv : Move) (c0 : Nat) (ps : List (Int × Option Int × Nat))  : (State.moveIn s st j mv c0 ps).far = s.far := by unfold State.moveIn; dsimp only; (repeat' split) <;> simp_all
@[simp] theorem State.moveOwn_far (s : State) (st : Nat) (j : Job) (mv : Move) (c0 : Nat) (more : LineTab) (reads : List (Option Int)) (ps : List (Int × Option Int))  : (State.moveOwn s st j mv c0 more reads ps).far = s.far := by unfold State.moveOwn; (repeat' split) <;> simp
@[simp] theorem State.moveOut_far (s : State) (st : Nat) (j : Job) (mv : Move) (c0 : Nat) (more : LineTab) (reads : List (Option Int)) (ps : List (Int × Option Int)) (ents : List (Int × Nat))  : (State.moveOut s st j mv c0 more reads ps ents).far = s.far := by unfold State.moveOut; (repeat' split) <;> simp
@[simp] theorem State.moveStart_far (s : State) (st : Nat) (j : Job) (mv : Move)  : (State.moveStart s st j mv).far = s.far := by unfold State.moveStart; dsimp only; (repeat' split) <;> simp_all
@[simp] theorem State.moveWrites_far (s : State) (st : Nat) (j : Job) (mv : Move) (lines : List (Int × Nat × List MByte)) (n : Nat)  : (State.moveWrites s st j mv lines n).far = s.far := by unfold State.moveWrites; (repeat' split) <;> simp
@[simp] theorem State.moveLine_far (s : State) (st : Nat) (j : Job) (mv : Move) (lines : List (Int × Nat × List MByte)) (reqs : Nat) (k : Nat)  : (State.moveLine s st j mv lines reqs k).far = s.far := by unfold State.moveLine; (repeat' split) <;> simp
@[simp] theorem State.atomSources_far (s : State) (st : Nat) (src : Nat) (els : List (Option Int))  : (State.atomSources s st src els).1.far = s.far := by unfold State.atomSources; dsimp only; (repeat' split) <;> simp_all
@[simp] theorem State.atomStart_far (s : State) (st : Nat) (j : Job) (op : Nat) (tgt : Nat) (src : Nat) (ret : Nat) (aoff : Nat) (imm : Nat)  : (State.atomStart s st j op tgt src ret aoff imm).far = s.far := by unfold State.atomStart; (repeat' split) <;> simp
@[simp] theorem State.atomic_far (s : State) (st : Nat) (op : Nat) (off : Int) (operand : Nat) (cyc : Nat) (arrival : Bool)  : (State.atomic s st op off operand cyc arrival).1.far = s.far := by unfold State.atomic; dsimp only; (repeat' split) <;> simp_all
@[simp] theorem State.atomOne_far (s : State) (st : Nat) (j : Job) (op : Nat) (tgt : Nat) (src : Nat) (ret : Nat) (aoff : Nat) (imm : Nat) (els : List (Option Int × Option Int × Option Int)) (olds : List (Nat × Nat × Nat)) (i : Nat)  : (State.atomOne s st j op tgt src ret aoff imm els olds i).far = s.far := by unfold State.atomOne; dsimp only; (repeat' split) <;> simp_all
@[simp] theorem State.scrubOne_far (s : State) (st : Nat) (j : Job) (next : Int) (left : Nat) (wb : List (Nat × Int × Nat × Nat))  : (State.scrubOne s st j next left wb).far = s.far := by unfold State.scrubOne; dsimp only; (repeat' split) <;> simp_all
@[simp] theorem State.noteBins_far (s : State) (st : Nat) (j : Job) (key : Nat) (a4 : Bins)  : (State.noteBins s st j key a4).far = s.far := by unfold State.noteBins; dsimp only; (repeat' split) <;> simp_all
@[simp] theorem State.binStage_far (s : State) (st : Nat) (j : Job) (key : Nat) (list : Nat) (pos : Nat) (b : Nat)  : (State.binStage s st j key list pos b).far = s.far := by unfold State.binStage; (repeat' split) <;> simp
@[simp] theorem State.bankIssue_far (s : State) (st : Nat) (h : Hdr) (a3 : Later) (k : Nat)  : (State.bankIssue s st h a3 k).far = s.far := by unfold State.bankIssue; (repeat' split) <;> simp

/-- Every stand but one. -/
def othersOf (t : Tab Stand) (st : Nat) : Nat → Stand := fun j => if j = st then {} else tget {} t j
def State.others (s : State) (st : Nat) : Nat → Stand := othersOf s.stand st
@[simp] theorem State.othersOf_stand (s : State) (st : Nat) : othersOf s.stand st = s.others st := rfl
@[simp] theorem State.others_mk (a b c d e f g h i j k l m n o p q r t u v w x y z st) :
    State.others ⟨a, b, c, d, e, f, g, h, i, j, k, l, m, n, o, p, q, r, t, u, v, w, x, y, z⟩ st = othersOf i st := rfl
theorem State.getStand_of_others {s t : State} {st j : Nat} (h : t.others st = s.others st) (hj : j ≠ st) : t.getStand j = s.getStand j := by
  have := congrFun h j
  simp only [State.others, othersOf, hj, if_false] at this; exact this

@[simp] theorem foldl_others {α : Type} (f : State → α → State) (l : List α) (s : State) (st : Nat) (h : ∀ s a, (f s a).others st = s.others st) :
    (l.foldl f s).others st = s.others st := by
  induction l generalizing s with
  | nil => rfl
  | cons a l ih => rw [List.foldl_cons, ih, h]

@[simp] theorem foldl_fst_others {α β : Type} (f : State × β → α → State × β) (l : List α) (p : State × β) (st : Nat)
    (h : ∀ p a, ((f p a).1).others st = p.1.others st) : ((l.foldl f p).1).others st = p.1.others st := by
  induction l generalizing p with
  | nil => rfl
  | cons a l ih => rw [List.foldl_cons, ih, h]

@[simp] theorem State.takeFree_others (s : State) (st : Nat) : s.takeFree.2.others st = s.others st := rfl

@[simp] theorem State.updStand_others (s : State) (st : Nat) (f : Stand → Stand) : (s.updStand st f).others st = s.others st := by
  funext j
  unfold State.others othersOf State.updStand
  simp only []
  split
  · rfl
  · rename_i h; rw [tget_tupd_ne _ _ _ (Ne.symm h)]

@[simp] theorem State.updTally_others (s : State) (d : Nat) (f : TallyCtx → TallyCtx) (st0 : Nat)  : (State.updTally s d f).others st0 = s.others st0 := by unfold State.updTally; (repeat' split) <;> simp
@[simp] theorem State.failStep_others (s : State) (d : Nat) (cause : Nat) (unit : Nat) (st0 : Nat)  : (State.failStep s d cause unit).others st0 = s.others st0 := by unfold State.failStep; (repeat' split) <;> simp
@[simp] theorem State.updAcc_others (s : State) (d : Nat) (f : StepAcc → StepAcc) (st0 : Nat)  : (State.updAcc s d f).others st0 = s.others st0 := by unfold State.updAcc; (repeat' split) <;> simp
@[simp] theorem State.hostWrite_others (s : State) (ld : Nat) (addr : Nat) (bytes : List Byte) (st0 : Nat)  : (State.hostWrite s ld addr bytes).others st0 = s.others st0 := by unfold State.hostWrite; (repeat' split) <;> simp
@[simp] theorem State.updMsix_others (s : State) (ld : Nat) (v : Nat) (f : Msix → Msix) (st0 : Nat)  : (State.updMsix s ld v f).others st0 = s.others st0 := by unfold State.updMsix; (repeat' split) <;> simp
@[simp] theorem State.hostDrop_others (s : State) (ld : Nat) (cause : Nat) (off : Nat) (st0 : Nat)  : (State.hostDrop s ld cause off).others st0 = s.others st0 := by unfold State.hostDrop; (repeat' split) <;> simp
@[simp] theorem State.sendMsi_others (s : State) (ld : Nat) (v : Nat) (st0 : Nat)  : (State.sendMsi s ld v).others st0 = s.others st0 := by unfold State.sendMsi; dsimp only; (repeat' split) <;> simp_all
@[simp] theorem State.putEvent_others (s : State) (ld : Nat) (r : List Byte) (st0 : Nat)  : (State.putEvent s ld r).others st0 = s.others st0 := by unfold State.putEvent; dsimp only; (repeat' split) <;> simp_all
@[simp] theorem State.putLog_others (s : State) (r : List Byte) (st0 : Nat)  : (State.putLog s r).others st0 = s.others st0 := by unfold State.putLog; (repeat' split) <;> simp
@[simp] theorem State.raiseAt_others (s : State) (code : Nat) (d : Nat) (unit : Nat) (cyc : Nat) (i1 : Nat) (i2 : Nat) (st0 : Nat)  : (State.raiseAt s code d unit cyc i1 i2).others st0 = s.others st0 := by unfold State.raiseAt; dsimp only; (repeat' split) <;> simp_all
@[simp] theorem State.noteTaint_others (s : State) (st : Nat) (k : Nat) (ctr : Nat) (tainted : Bool)  : (State.noteTaint s st k ctr tainted).others st = s.others st := by unfold State.noteTaint; dsimp only; (repeat' split) <;> simp_all
@[simp] theorem State.addOp_others (s : State) (st : Nat) (k : Nat) (h : Hdr) (due : Nat) (sus : Bool) (kind : OpKind)  : (State.addOp s st k h due sus kind).others st = s.others st := by unfold State.addOp; (repeat' split) <;> simp
@[simp] theorem State.updCtx_others (s : State) (d : Nat) (f : PlanCtx → PlanCtx) (st0 : Nat)  : (State.updCtx s d f).others st0 = s.others st0 := by unfold State.updCtx; (repeat' split) <;> simp
@[simp] theorem State.askHalt_others (s : State) (d : Nat) (cause : Nat) (ring : Nat) (unit : Nat) (st0 : Nat)  : (State.askHalt s d cause ring unit).others st0 = s.others st0 := by unfold State.askHalt; (repeat' split) <;> simp
@[simp] theorem State.raiseFail_others (s : State) (code : Nat) (d : Nat) (unit : Nat) (cyc : Nat) (i1 : Nat) (i2 : Nat) (st0 : Nat)  : (State.raiseFail s code d unit cyc i1 i2).others st0 = s.others st0 := by unfold State.raiseFail; (repeat' split) <;> simp
@[simp] theorem State.parityFault_others (s : State) (st : Nat) (stream : Nat) (store : Nat)  : (State.parityFault s st stream store).others st = s.others st := by unfold State.parityFault; (repeat' split) <;> simp
@[simp] theorem State.consume_others (s : State) (st : Nat) (h : Hdr) (rcomb : Option Nat)  : (State.consume s st h rcomb).others st = s.others st := by unfold State.consume; (repeat' split) <;> simp
@[simp] theorem State.noteSlip_others (s : State) (d : Nat) (unit : Nat) (late : Nat) (cyc : Nat) (st0 : Nat)  : (State.noteSlip s d unit late cyc).others st0 = s.others st0 := by unfold State.noteSlip; dsimp only; (repeat' split) <;> simp_all
@[simp] theorem State.beginIssue_others (s : State) (st : Nat) (k : Nat) (h : Hdr) (rcomb : Option Nat) (occ : Nat)  : (State.beginIssue s st k h rcomb occ).others st = s.others st := by unfold State.beginIssue; dsimp only; (repeat' split) <;> simp_all
@[simp] theorem nopEffect_others (st : Nat) (k : Nat) (h : Hdr) (s : State)  : (nopEffect st k h s).others st = s.others st := by unfold nopEffect; (repeat' split) <;> simp
@[simp] theorem arEffect_others (st : Nat) (k : Nat) (stamp : Nat) (rd : Nat) (v : Stand → Nat) (s : State)  : (arEffect st k stamp rd v s).others st = s.others st := by unfold arEffect; (repeat' split) <;> simp
@[simp] theorem State.updNode_others (s : State) (l : Loc) (f : Node → Node) (st0 : Nat)  : (State.updNode s l f).others st0 = s.others st0 := by unfold State.updNode; (repeat' split) <;> simp
@[simp] theorem State.newPacket_others (s : State) (lat : Nat) (src : Loc) (route : List Nat) (rail : Nat) (reply : Bool) (dom : Nat) (pl : Payload) (op : Option (Nat × Nat)) (st0 : Nat)  : (State.newPacket s lat src route rail reply dom pl op).others st0 = s.others st0 := by unfold State.newPacket; (repeat' split) <;> simp
@[simp] theorem State.opStepAt_others (s : State) (delay st id : Nat) (sus : Bool) : (s.opStepAt delay (some (st, id)) sus).others st = s.others st := by
  unfold State.opStepAt; simp
@[simp] theorem State.opStepAt_none (s : State) (delay : Nat) (sus : Bool) : s.opStepAt delay none sus = s := rfl
@[simp] theorem State.opStep_others (s : State) (st id : Nat) (sus : Bool) : (s.opStep (some (st, id)) sus).others st = s.others st := by
  unfold State.opStep; simp
@[simp] theorem State.opStep_none (s : State) (sus : Bool) : s.opStep none sus = s := rfl
@[simp] theorem State.sendBy_others (s : State) (lat : Nat) (src : Loc) (e dom : Nat) (pl : Payload) (st id : Nat) :
    (s.sendBy lat src e dom pl (some (st, id)) none).others st = s.others st := by
  unfold State.sendBy; split <;> simp
@[simp] theorem State.sendBy_others' (s : State) (lat : Nat) (src : Loc) (e dom : Nat) (pl : Payload) (st id : Nat) :
    (s.sendBy lat src e dom pl none (some (st, id))).others st = s.others st := by
  unfold State.sendBy; split <;> simp
@[simp] theorem fgPostEffect_others (st : Nat) (h : Hdr) (credit : Bool) (ctr : Nat) (amt : Nat) (route : Nat) (s : State)  : (fgPostEffect st h credit ctr amt route s).others st = s.others st := by unfold fgPostEffect; (repeat' split) <;> simp
@[simp] theorem fgNotchEffect_others (st : Nat) (h : Hdr) (op : Nat) (notch : Nat) (ret : Nat) (route : Nat) (value : Nat) (s : State)  : (fgNotchEffect st h op notch ret route value s).others st = s.others st := by unfold fgNotchEffect; (repeat' split) <;> simp
@[simp] theorem State.endJob_others (s : State) (st : Nat) (j : Job)  : (State.endJob s st j).others st = s.others st := by unfold State.endJob; (repeat' split) <;> simp
@[simp] theorem State.shiftJob_others (s : State) (st : Nat) (j : Job) (now : Nat)  : (State.shiftJob s st j now).others st = s.others st := by unfold State.shiftJob; (repeat' split) <;> simp
@[simp] theorem State.scoutFind_others (s : State) (d : Nat) (check : Nat) (unit : Nat) (res : Nat) (cyc : Nat) (st0 : Nat)  : (State.scoutFind s d check unit res cyc).others st0 = s.others st0 := by unfold State.scoutFind; (repeat' split) <;> simp
@[simp] theorem State.scoutDeck_others (s : State) (st : Nat) (port : Nat) (bank : Nat) (cyc : Nat)  : (State.scoutDeck s st port bank cyc).others st = s.others st := by unfold State.scoutDeck; dsimp only; (repeat' split) <;> simp_all
@[simp] theorem State.refuse_others (s : State) (st : Nat) (port : Nat) (off : Int) (cyc : Nat) (cause : Nat)  : (State.refuse s st port off cyc cause).1.others st = s.others st := by unfold State.refuse; (repeat' split) <;> simp
@[simp] theorem State.enterLine_others (s : State) (st : Nat) (port : Nat) (bank : Nat) (cyc : Nat)  : (State.enterLine s st port bank cyc).others st = s.others st := by unfold State.enterLine; (repeat' split) <;> simp
@[simp] theorem State.noteUnit_others (s : State) (st : Nat) (cls : Nat) (port : Nat) (a : Nat) (u : Nat) (cyc : Nat) (outcome : Nat) (inj : Option (Nat × List Byte))  : (State.noteUnit s st cls port a u cyc outcome inj).others st = s.others st := by unfold State.noteUnit; dsimp only; (repeat' split) <;> simp_all
@[simp] theorem State.readUnits_others (st : Nat) (cls : Nat) (port : Nat) (a : Nat) (cyc : Nat) (inj : Option (Nat × List Byte)) (a7 : List Nat) (a8 : State)  : (State.readUnits st cls port a cyc inj a7 a8).1.others st = a8.others st := by fun_induction State.readUnits st cls port a cyc inj a7 a8 <;> simp_all
@[simp] theorem State.readLine_others (s : State) (st : Nat) (port : Nat) (off : Int) (cyc : Nat)  : (State.readLine s st port off cyc).1.others st = s.others st := by unfold State.readLine; dsimp only; (repeat' split) <;> simp_all
@[simp] theorem State.raiseMet_others (s : State) (st : Nat) (unit : Nat) (m : Met)  : (State.raiseMet s st unit m).others st = s.others st := by unfold State.raiseMet; (repeat' split) <;> simp
@[simp] theorem State.jobMet_others (s : State) (st : Nat) (id : Nat) (m : Met)  : (State.jobMet s st id m).others st = s.others st := by unfold State.jobMet; (repeat' split) <;> simp
@[simp] theorem State.jobRead_others (s : State) (st : Nat) (id : Nat) (port : Nat) (l : Int)  : (State.jobRead s st id port l).others st = s.others st := by unfold State.jobRead; simp
@[simp] theorem State.scoutInput_others (s : State) (d : Nat) (unit : Nat) (name : Nat) (cyc : Nat) (st0 : Nat)  : (State.scoutInput s d unit name cyc).others st0 = s.others st0 := by unfold State.scoutInput; (repeat' split) <;> simp
@[simp] theorem State.scoutWrite_others (s : State) (st : Nat) (line : Int) (cyc : Nat)  : (State.scoutWrite s st line cyc).others st = s.others st := by unfold State.scoutWrite; (repeat' split) <;> simp
@[simp] theorem State.mergeUnits_others (st : Nat) (cls : Nat) (port : Nat) (a : Nat) (cyc : Nat) (inj : Option (Nat × List Byte)) (a7 : List Nat) (a8 : State)  : (State.mergeUnits st cls port a cyc inj a7 a8).1.others st = a8.others st := by fun_induction State.mergeUnits st cls port a cyc inj a7 a8 <;> simp_all +zetaDelta
@[simp] theorem State.writeLine_others (s : State) (st : Nat) (port : Nat) (off : Int) (cyc : Nat) (arrival : Bool) (img : Nat) (be : Nat)  : (State.writeLine s st port off cyc arrival img be).1.others st = s.others st := by unfold State.writeLine; dsimp only; (repeat' split) <;> simp_all
@[simp] theorem State.jobWrite_others (s : State) (st : Nat) (id : Nat) (port : Nat) (l : Int) (img : Nat) (be : Nat)  : (State.jobWrite s st id port l img be).others st = s.others st := by unfold State.jobWrite; simp
@[simp] theorem State.runAct_others (s : State) (stage : Stage) (st : Nat) (j : Job) (a : Act) (hstage : ∀ x1 x2 x3, (stage st x1 x2 x3).others st = x3.others st) : (State.runAct s stage st j a).others st = s.others st := by
  unfold State.runAct; dsimp only; split <;> simp [hstage]
@[simp] theorem State.runJob_others (stage : Stage) (st : Nat) (id : Nat) (a : Nat) (a5 : State) (hstage : ∀ x1 x2 x3, (stage st x1 x2 x3).others st = x3.others st) : (State.runJob stage st id a a5).others st = a5.others st := by fun_induction State.runJob stage st id a a5 <;> simp_all
@[simp] theorem State.startJob_others (s : State) (stage : Stage) (st : Nat) (id : Nat) (stream : Nat) (kind : JobKind) (sus : Bool) (acts : List (Nat × Act)) (hstage : ∀ x1 x2 x3, (stage st x1 x2 x3).others st = x3.others st) : (State.startJob s stage st id stream kind sus acts).others st = s.others st := by unfold State.startJob; (repeat' split) <;> simp_all
@[simp] theorem State.edFail_others (s : State) (st : Nat) (issued : Nat) (res : List Nat) (tab : List Nat)  : (State.edFail s st issued res tab).others st = s.others st := by unfold State.edFail; dsimp only; (repeat' split) <;> simp_all
@[simp] theorem State.computeStage_others (s : State) (st : Nat) (j : Job) (k : EdKind) (o : EdOp) (a : Slot) (b : Slot) (c : Slot) (d : Slot) (wr : Nat)  : (State.computeStage s st j k o a b c d wr).others st = s.others st := by unfold State.computeStage; simp
@[simp] theorem State.residentStage_others (s : State) (st : Nat) (j : Job) (slot : Nat)  : (State.residentStage s st j slot).others st = s.others st := by unfold State.residentStage; (repeat' split) <;> simp
@[simp] theorem edStage_others (st : Nat) (j : Job) (a : Act) (s : State) : (edStage st j a s).others st = s.others st := by
  unfold edStage; split <;> simp
@[simp] theorem edEffect_others (k : EdKind) (st : Nat) (o : EdOp) (s : State)  : (edEffect k st o s).others st = s.others st := by unfold edEffect; (repeat' split) <;> simp
@[simp] theorem edOpenEffect_others (st : Nat) (h : Hdr) (slot : Nat) (handle : Nat) (out : Bool) (wrap : Bool) (arEn : Bool) (areg : Nat) (s : State)  : (edOpenEffect st h slot handle out wrap arEn areg s).others st = s.others st := by unfold edOpenEffect; dsimp only; (repeat' split) <;> simp_all
@[simp] theorem edCloseEffect_others (st : Nat) (h : Hdr) (slot : Nat) (s : State)  : (edCloseEffect st h slot s).others st = s.others st := by unfold edCloseEffect; (repeat' split) <;> simp
@[simp] theorem edTakeEffect_others (st : Nat) (h : Hdr) (slot : Nat) (e : Ftq) (s : State)  : (edTakeEffect st h slot e s).others st = s.others st := by unfold edTakeEffect; (repeat' split) <;> simp
@[simp] theorem State.loadStage_others (s : State) (st : Nat) (j : Job) (handle : Nat) (buf : Nat) (base : Int)  : (State.loadStage s st j handle buf base).others st = s.others st := by unfold State.loadStage; (repeat' split) <;> simp
@[simp] theorem State.rowStage_others (s : State) (st : Nat) (j : Job) (r0 : Nat) (i : Nat) (init : Bool) (c : AccRow)  : (State.rowStage s st j r0 i init c).others st = s.others st := by unfold State.rowStage; (repeat' split) <;> simp
@[simp] theorem State.mulStage_others (s : State) (st : Nat) (j : Job) (handle : Nat) (aoff : Nat) (buf : Nat) (r0 : Nat) (i : Nat) (init : Bool)  : (State.mulStage s st j handle aoff buf r0 i init).others st = s.others st := by unfold State.mulStage; (repeat' split) <;> simp
@[simp] theorem State.addxStage_others (s : State) (st : Nat) (j : Job) (handle : Nat) (aoff : Nat) (fp32 : Bool) (r0 : Nat) (i : Nat) (init : Bool)  : (State.addxStage s st j handle aoff fp32 r0 i init).others st = s.others st := by unfold State.addxStage; (repeat' split) <;> simp
@[simp] theorem State.drainStage_others (s : State) (st : Nat) (j : Job) (i : Nat)  : (State.drainStage s st j i).others st = s.others st := by unfold State.drainStage; (repeat' split) <;> simp
@[simp] theorem hrStage_others (st : Nat) (j : Job) (a : Act) (s : State) : (hrStage st j a s).others st = s.others st := by
  unfold hrStage; split <;> simp
@[simp] theorem hrLoadEffect_others (st : Nat) (h : Hdr) (handle : Nat) (tile : Nat) (buf : Nat) (arEn : Bool) (areg : Nat) (s : State)  : (hrLoadEffect st h handle tile buf arEn areg s).others st = s.others st := by unfold hrLoadEffect; (repeat' split) <;> simp
@[simp] theorem hrMulEffect_others (st : Nat) (h : Hdr) (handle : Nat) (buf : Nat) (rows : Nat) (r0 : Nat) (init : Bool) (arEn : Bool) (areg : Nat) (s : State)  : (hrMulEffect st h handle buf rows r0 init arEn areg s).others st = s.others st := by unfold hrMulEffect; (repeat' split) <;> simp
@[simp] theorem hrAddxEffect_others (st : Nat) (h : Hdr) (handle : Nat) (fp32 : Bool) (rows : Nat) (r0 : Nat) (init : Bool) (arEn : Bool) (areg : Nat) (s : State)  : (hrAddxEffect st h handle fp32 rows r0 init arEn areg s).others st = s.others st := by unfold hrAddxEffect; (repeat' split) <;> simp
@[simp] theorem hrDrainEffect_others (st : Nat) (h : Hdr) (handle : Nat) (rows : Nat) (r0 : Nat) (fmt : Nat) (sat : Bool) (adj : Int) (push : Bool) (tag : Nat) (arEn : Bool) (areg : Nat) (s : State)  : (hrDrainEffect st h handle rows r0 fmt sat adj push tag arEn areg s).others st = s.others st := by unfold hrDrainEffect; (repeat' split) <;> simp
@[simp] theorem State.skIssue_others (stage : Stage) (s : State) (st : Nat) (h : Hdr) (kind : JobKind) (ix : List Int) (hstage : ∀ x1 x2 x3, (stage st x1 x2 x3).others st = x3.others st) : (State.skIssue stage s st h kind ix).others st = s.others st := by unfold State.skIssue; (repeat' split) <;> simp_all
@[simp] theorem State.indexFault_others (s : State) (st : Nat) (inst : Nat) (ent : Nat) (cause : Nat) (kind : Nat) (handle : Nat) (value : Nat) (cyc : Nat)  : (State.indexFault s st inst ent cause kind handle value cyc).others st = s.others st := by unfold State.indexFault; dsimp only; (repeat' split) <;> simp_all
@[simp] theorem State.noteEntries_others (s : State) (st : Nat) (j : Job) (h : Nat) (w : Walk)  : (State.noteEntries s st j h w).others st = s.others st := by unfold State.noteEntries; (repeat' split) <;> simp (disch := (intros; (repeat' split) <;> simp))
@[simp] theorem State.farFaults_others (s : State) (st : Nat) (j : Job) (h : Nat) (bs : List (Option Int × Nat))  : (State.farFaults s st j h bs).others st = s.others st := by unfold State.farFaults; simp only []; (repeat' split) <;> simp (disch := (intros; (repeat' split) <;> simp))
@[simp] theorem State.addGrain_others (s : State) (d : Nat) (g : Nat) (n : Nat) (be : Nat) (line : List Byte) (cyc : Nat) (sus : Bool) (st0 : Nat)  : (State.addGrain s d g n be line cyc sus).others st0 = s.others st0 := by unfold State.addGrain; dsimp only; (repeat' split) <;> simp_all
@[simp] theorem State.grainOne_others (s : State) (st : Nat) (d : Desc) (g : Nat) (l : Int) (p : List Byte × Nat) (sus : Bool)  : (State.grainOne s st d g l p sus).others st = s.others st := by unfold State.grainOne; (repeat' split) <;> simp
@[simp] theorem State.awaits_others (s : State) (st : Nat) (id : Nat) (n : Nat)  : (State.awaits s st id n).others st = s.others st := by unfold State.awaits; (repeat' split) <;> simp
@[simp] theorem State.goOnJob_others (s : State) (st : Nat) (id : Nat) (k : JobKind) (more : LineTab) (acts : List (Nat × Act))  : (State.goOnJob s st id k more acts).others st = s.others st := by unfold State.goOnJob; (repeat' split) <;> simp
@[simp] theorem State.moveIn_others (s : State) (st : Nat) (j : Job) (mv : Move) (c0 : Nat) (ps : List (Int × Option Int × Nat))  : (State.moveIn s st j mv c0 ps).others st = s.others st := by unfold State.moveIn; dsimp only; (repeat' split) <;> simp_all
@[simp] theorem State.moveOwn_others (s : State) (st : Nat) (j : Job) (mv : Move) (c0 : Nat) (more : LineTab) (reads : List (Option Int)) (ps : List (Int × Option Int))  : (State.moveOwn s st j mv c0 more reads ps).others st = s.others st := by unfold State.moveOwn; (repeat' split) <;> simp
@[simp] theorem State.moveOut_others (s : State) (st : Nat) (j : Job) (mv : Move) (c0 : Nat) (more : LineTab) (reads : List (Option Int)) (ps : List (Int × Option Int)) (ents : List (Int × Nat))  : (State.moveOut s st j mv c0 more reads ps ents).others st = s.others st := by unfold State.moveOut; (repeat' split) <;> simp
@[simp] theorem State.moveStart_others (s : State) (st : Nat) (j : Job) (mv : Move)  : (State.moveStart s st j mv).others st = s.others st := by unfold State.moveStart; dsimp only; (repeat' split) <;> simp_all
@[simp] theorem State.moveWrites_others (s : State) (st : Nat) (j : Job) (mv : Move) (lines : List (Int × Nat × List MByte)) (n : Nat)  : (State.moveWrites s st j mv lines n).others st = s.others st := by unfold State.moveWrites; (repeat' split) <;> simp
@[simp] theorem State.moveLine_others (s : State) (st : Nat) (j : Job) (mv : Move) (lines : List (Int × Nat × List MByte)) (reqs : Nat) (k : Nat)  : (State.moveLine s st j mv lines reqs k).others st = s.others st := by unfold State.moveLine; (repeat' split) <;> simp
@[simp] theorem State.atomSources_others (s : State) (st : Nat) (src : Nat) (els : List (Option Int))  : (State.atomSources s st src els).1.others st = s.others st := by unfold State.atomSources; dsimp only; (repeat' split) <;> simp_all
@[simp] theorem State.atomStart_others (s : State) (st : Nat) (j : Job) (op : Nat) (tgt : Nat) (src : Nat) (ret : Nat) (aoff : Nat) (imm : Nat)  : (State.atomStart s st j op tgt src ret aoff imm).others st = s.others st := by unfold State.atomStart; (repeat' split) <;> simp
@[simp] theorem State.atomic_others (s : State) (st : Nat) (op : Nat) (off : Int) (operand : Nat) (cyc : Nat) (arrival : Bool)  : (State.atomic s st op off operand cyc arrival).1.others st = s.others st := by unfold State.atomic; dsimp only; (repeat' split) <;> simp_all
@[simp] theorem State.atomOne_others (s : State) (st : Nat) (j : Job) (op : Nat) (tgt : Nat) (src : Nat) (ret : Nat) (aoff : Nat) (imm : Nat) (els : List (Option Int × Option Int × Option Int)) (olds : List (Nat × Nat × Nat)) (i : Nat)  : (State.atomOne s st j op tgt src ret aoff imm els olds i).others st = s.others st := by unfold State.atomOne; dsimp only; (repeat' split) <;> simp_all
@[simp] theorem State.scrubOne_others (s : State) (st : Nat) (j : Job) (next : Int) (left : Nat) (wb : List (Nat × Int × Nat × Nat))  : (State.scrubOne s st j next left wb).others st = s.others st := by unfold State.scrubOne; dsimp only; (repeat' split) <;> simp_all
@[simp] theorem State.noteBins_others (s : State) (st : Nat) (j : Job) (key : Nat) (a4 : Bins)  : (State.noteBins s st j key a4).others st = s.others st := by unfold State.noteBins; dsimp only; (repeat' split) <;> simp_all
@[simp] theorem State.binStage_others (s : State) (st : Nat) (j : Job) (key : Nat) (list : Nat) (pos : Nat) (b : Nat)  : (State.binStage s st j key list pos b).others st = s.others st := by unfold State.binStage; (repeat' split) <;> simp
@[simp] theorem State.bankIssue_others (s : State) (st : Nat) (h : Hdr) (a3 : Later) (k : Nat)  : (State.bankIssue s st h a3 k).others st = s.others st := by unfold State.bankIssue; (repeat' split) <;> simp

/-- A function changed at one argument. -/
def setAt {α : Type} (g : Nat → α) (k : Nat) (v : α) : Nat → α := fun j => if j = k then v else g j
@[simp] theorem setAt_same {α : Type} (g : Nat → α) (k : Nat) : setAt g k (g k) = g := by
  funext j; unfold setAt; split
  · rename_i h; rw [h]
  · rfl
@[simp] theorem setAt_self {α : Type} (g : Nat → α) (k : Nat) (v : α) : setAt g k v k = v := by simp [setAt]
@[simp] theorem setAt_setAt {α : Type} (g : Nat → α) (k : Nat) (v w : α) : setAt (setAt g k v) k w = setAt g k w := by
  funext j; unfold setAt; split <;> rfl
theorem setAt_ne {α : Type} (g : Nat → α) {k j : Nat} (v : α) (h : j ≠ k) : setAt g k v j = g j := by simp [setAt, h]

/-- What an instruction leaves of its stand while it works: its plan, its banks' classes, owners and power states. -/
def Stand.layout (t : Stand) := (t.ctx, t.cuts, t.desc, t.cls, t.own, t.pwr)
@[simp] theorem Stand.layout_fold (t : Stand) : (t.ctx, t.cuts, t.desc, t.cls, t.own, t.pwr) = t.layout := rfl
@[simp] theorem Stand.layout_mk (x0 x1 x2 x3 x4 x5 x6 x7 x8 x9 x10 x11 x12 x13 x14 x15 x16 x17 x18 x19 x20 x21 x22 x23 x24 x25 x26 x27 x28 x29 x30 x31 x32 x33 x34 x35 x36 x37 x38 x39 x40 x41 x42 x43 x44 x45 x46 x47 x48 x49 x50 x51 x52 x53 x54 x55 x56 x57 x58 x59 x60 x61 x62 x63 x64 x65 x66 x67 x68 x69 x70 x71 x72 x73 x74 x75 x76 x77 x78 x79 x80 x81 x82) :
    Stand.layout ⟨x0, x1, x2, x3, x4, x5, x6, x7, x8, x9, x10, x11, x12, x13, x14, x15, x16, x17, x18, x19, x20, x21, x22, x23, x24, x25, x26, x27, x28, x29, x30, x31, x32, x33, x34, x35, x36, x37, x38, x39, x40, x41, x42, x43, x44, x45, x46, x47, x48, x49, x50, x51, x52, x53, x54, x55, x56, x57, x58, x59, x60, x61, x62, x63, x64, x65, x66, x67, x68, x69, x70, x71, x72, x73, x74, x75, x76, x77, x78, x79, x80, x81, x82⟩ = (x0, x4, x5, x62, x61, x63) := rfl

def layoutOf (t : Tab Stand) := fun st => (tget ({} : Stand) t st).layout
def State.layout (s : State) := layoutOf s.stand
@[simp] theorem State.layoutOf_stand (s : State) : layoutOf s.stand = s.layout := rfl
@[simp] theorem State.getStand_layout (s : State) (st : Nat) : (s.getStand st).layout = s.layout st := rfl

@[simp] theorem State.layout_mk (a b c d e f g h i j k l m n o p q r t u v w x y z) :
    State.layout ⟨a, b, c, d, e, f, g, h, i, j, k, l, m, n, o, p, q, r, t, u, v, w, x, y, z⟩ = layoutOf i := rfl

@[simp] theorem foldl_layout {α : Type} (f : State → α → State) (l : List α) (s : State) (h : ∀ s a, (f s a).layout = s.layout) :
    (l.foldl f s).layout = s.layout := by
  induction l generalizing s with
  | nil => rfl
  | cons a l ih => rw [List.foldl_cons, ih, h]

@[simp] theorem foldl_fst_layout {α β : Type} (f : State × β → α → State × β) (l : List α) (p : State × β)
    (h : ∀ p a, ((f p a).1).layout = p.1.layout) : ((l.foldl f p).1).layout = p.1.layout := by
  induction l generalizing p with
  | nil => rfl
  | cons a l ih => rw [List.foldl_cons, ih, h]

@[simp] theorem State.takeFree_layout (s : State) : s.takeFree.2.layout = s.layout := rfl
@[simp] theorem State.takeFree_getStand (s : State) (st : Nat) : s.takeFree.2.getStand st = s.getStand st := rfl

@[simp] theorem State.updStand_layout (s : State) (st : Nat) (f : Stand → Stand) :
    (s.updStand st f).layout = setAt s.layout st (f (s.getStand st)).layout := by
  funext st'
  unfold State.layout layoutOf State.updStand State.getStand setAt
  simp only []
  split
  · rename_i h; subst h; simp
  · rename_i h; rw [tget_tupd_ne _ _ _ (Ne.symm h)]

@[simp] theorem Stand.updSlot_layout (t : Stand) (a : Nat) (f : Slot → Slot) : (t.updSlot a f).layout = t.layout := rfl
@[simp] theorem Stand.updOp_layout (t : Stand) (a : Nat) (f : Op → Op) : (t.updOp a f).layout = t.layout := rfl
@[simp] theorem Stand.updJob_layout (t : Stand) (a : Nat) (f : Job → Job) : (t.updJob a f).layout = t.layout := rfl
@[simp] theorem Stand.updStream_layout (t : Stand) (a : Nat) (f : Stream → Stream) : (t.updStream a f).layout = t.layout := rfl
@[simp] theorem Stand.updBuf_layout (t : Stand) (a : Nat) (f : WBuf → WBuf) : (t.updBuf a f).layout = t.layout := rfl
@[simp] theorem Stand.pushFtq_layout (t : Stand) (a b : Nat) (c : Bool) : (t.pushFtq a b c).layout = t.layout := by
  unfold Stand.pushFtq; (repeat' split) <;> rfl
@[simp] theorem Stand.noteRefusal_layout (t : Stand) (a b : Nat) (c : Int) (d e : Nat) : (t.noteRefusal a b c d e).layout = t.layout := rfl
@[simp] theorem Stand.disarmDk_layout (t : Stand) (a : Bool) : (t.disarmDk a).layout = t.layout := by unfold Stand.disarmDk; split <;> rfl
@[simp] theorem Stand.noteEcc_layout (t : Stand) (a : Bool) (b c d e f g h i : Nat) : (t.noteEcc a b c d e f g h i).layout = t.layout := rfl
@[simp] theorem Stand.spoil_layout (t : Stand) (a b : Nat) : (t.spoil a b).layout = t.layout := rfl
@[simp] theorem Stand.cleanUnit_layout (t : Stand) (a b : Nat) : (t.cleanUnit a b).layout = t.layout := rfl
@[simp] theorem Stand.markJob_layout (t : Stand) (a : Nat) (b : Bool) : (t.markJob a b).layout = t.layout := rfl
@[simp] theorem Stand.putRow_layout (t : Stand) (a : Nat) (b : AccRow) : (t.putRow a b).layout = t.layout := rfl
@[simp] theorem Stand.foldl_layout {α : Type} (f : Stand → α → Stand) (l : List α) (t : Stand) (h : ∀ t a, (f t a).layout = t.layout) :
    (l.foldl f t).layout = t.layout := by
  induction l generalizing t with
  | nil => rfl
  | cons a l ih => rw [List.foldl_cons, ih, h]
theorem State.updStand_layout_of {s : State} {st : Nat} {f : Stand → Stand} (h : ∀ t, (f t).layout = t.layout) :
    (s.updStand st f).layout = s.layout := by
  rw [State.updStand_layout, h]; simp

@[simp] theorem State.updTally_layout (s : State) (d : Nat) (f : TallyCtx → TallyCtx)  : (State.updTally s d f).layout = s.layout := by unfold State.updTally; (repeat' split) <;> simp
@[simp] theorem State.failStep_layout (s : State) (d : Nat) (cause : Nat) (unit : Nat)  : (State.failStep s d cause unit).layout = s.layout := by unfold State.failStep; (repeat' split) <;> simp
@[simp] theorem State.updAcc_layout (s : State) (d : Nat) (f : StepAcc → StepAcc)  : (State.updAcc s d f).layout = s.layout := by unfold State.updAcc; (repeat' split) <;> simp
@[simp] theorem State.hostWrite_layout (s : State) (ld : Nat) (addr : Nat) (bytes : List Byte)  : (State.hostWrite s ld addr bytes).layout = s.layout := by unfold State.hostWrite; (repeat' split) <;> simp
@[simp] theorem State.updMsix_layout (s : State) (ld : Nat) (v : Nat) (f : Msix → Msix)  : (State.updMsix s ld v f).layout = s.layout := by unfold State.updMsix; (repeat' split) <;> simp
@[simp] theorem State.hostDrop_layout (s : State) (ld : Nat) (cause : Nat) (off : Nat)  : (State.hostDrop s ld cause off).layout = s.layout := by unfold State.hostDrop; (repeat' split) <;> simp
@[simp] theorem State.sendMsi_layout (s : State) (ld : Nat) (v : Nat)  : (State.sendMsi s ld v).layout = s.layout := by unfold State.sendMsi; dsimp only; (repeat' split) <;> simp_all
@[simp] theorem State.putEvent_layout (s : State) (ld : Nat) (r : List Byte)  : (State.putEvent s ld r).layout = s.layout := by unfold State.putEvent; dsimp only; (repeat' split) <;> simp_all
@[simp] theorem State.putLog_layout (s : State) (r : List Byte)  : (State.putLog s r).layout = s.layout := by unfold State.putLog; (repeat' split) <;> simp
@[simp] theorem State.raiseAt_layout (s : State) (code : Nat) (d : Nat) (unit : Nat) (cyc : Nat) (i1 : Nat) (i2 : Nat)  : (State.raiseAt s code d unit cyc i1 i2).layout = s.layout := by unfold State.raiseAt; dsimp only; (repeat' split) <;> simp_all
@[simp] theorem State.noteTaint_layout (s : State) (st : Nat) (k : Nat) (ctr : Nat) (tainted : Bool)  : (State.noteTaint s st k ctr tainted).layout = s.layout := by unfold State.noteTaint; dsimp only; (repeat' split) <;> simp_all
@[simp] theorem State.addOp_layout (s : State) (st : Nat) (k : Nat) (h : Hdr) (due : Nat) (sus : Bool) (kind : OpKind)  : (State.addOp s st k h due sus kind).layout = s.layout := by unfold State.addOp; (repeat' split) <;> simp
@[simp] theorem State.updCtx_layout (s : State) (d : Nat) (f : PlanCtx → PlanCtx)  : (State.updCtx s d f).layout = s.layout := by unfold State.updCtx; (repeat' split) <;> simp
@[simp] theorem State.askHalt_layout (s : State) (d : Nat) (cause : Nat) (ring : Nat) (unit : Nat)  : (State.askHalt s d cause ring unit).layout = s.layout := by unfold State.askHalt; (repeat' split) <;> simp
@[simp] theorem State.raiseFail_layout (s : State) (code : Nat) (d : Nat) (unit : Nat) (cyc : Nat) (i1 : Nat) (i2 : Nat)  : (State.raiseFail s code d unit cyc i1 i2).layout = s.layout := by unfold State.raiseFail; (repeat' split) <;> simp
@[simp] theorem State.parityFault_layout (s : State) (st : Nat) (stream : Nat) (store : Nat)  : (State.parityFault s st stream store).layout = s.layout := by unfold State.parityFault; (repeat' split) <;> simp
@[simp] theorem State.consume_layout (s : State) (st : Nat) (h : Hdr) (rcomb : Option Nat)  : (State.consume s st h rcomb).layout = s.layout := by unfold State.consume; (repeat' split) <;> simp
@[simp] theorem State.noteSlip_layout (s : State) (d : Nat) (unit : Nat) (late : Nat) (cyc : Nat)  : (State.noteSlip s d unit late cyc).layout = s.layout := by unfold State.noteSlip; dsimp only; (repeat' split) <;> simp_all
@[simp] theorem State.beginIssue_layout (s : State) (st : Nat) (k : Nat) (h : Hdr) (rcomb : Option Nat) (occ : Nat)  : (State.beginIssue s st k h rcomb occ).layout = s.layout := by unfold State.beginIssue; dsimp only; (repeat' split) <;> simp_all
@[simp] theorem nopEffect_layout (st : Nat) (k : Nat) (h : Hdr) (s : State)  : (nopEffect st k h s).layout = s.layout := by unfold nopEffect; (repeat' split) <;> simp
@[simp] theorem arEffect_layout (st : Nat) (k : Nat) (stamp : Nat) (rd : Nat) (v : Stand → Nat) (s : State)  : (arEffect st k stamp rd v s).layout = s.layout := by unfold arEffect; (repeat' split) <;> simp
@[simp] theorem State.updNode_layout (s : State) (l : Loc) (f : Node → Node)  : (State.updNode s l f).layout = s.layout := by unfold State.updNode; (repeat' split) <;> simp
@[simp] theorem State.newPacket_layout (s : State) (lat : Nat) (src : Loc) (route : List Nat) (rail : Nat) (reply : Bool) (dom : Nat) (pl : Payload) (op : Option (Nat × Nat))  : (State.newPacket s lat src route rail reply dom pl op).layout = s.layout := by unfold State.newPacket; (repeat' split) <;> simp
@[simp] theorem State.opStepAt_layout (s : State) (delay : Nat) (o : Option (Nat × Nat)) (sus : Bool)  : (State.opStepAt s delay o sus).layout = s.layout := by unfold State.opStepAt; (repeat' split) <;> simp
@[simp] theorem State.opStep_layout (s : State) (o : Option (Nat × Nat)) (sus : Bool)  : (State.opStep s o sus).layout = s.layout := by unfold State.opStep; (repeat' split) <;> simp
@[simp] theorem State.sendBy_layout (s : State) (lat : Nat) (src : Loc) (e : Nat) (dom : Nat) (pl : Payload) (op : Option (Nat × Nat)) (waits : Option (Nat × Nat))  : (State.sendBy s lat src e dom pl op waits).layout = s.layout := by unfold State.sendBy; (repeat' split) <;> simp
@[simp] theorem fgPostEffect_layout (st : Nat) (h : Hdr) (credit : Bool) (ctr : Nat) (amt : Nat) (route : Nat) (s : State)  : (fgPostEffect st h credit ctr amt route s).layout = s.layout := by unfold fgPostEffect; (repeat' split) <;> simp
@[simp] theorem fgNotchEffect_layout (st : Nat) (h : Hdr) (op : Nat) (notch : Nat) (ret : Nat) (route : Nat) (value : Nat) (s : State)  : (fgNotchEffect st h op notch ret route value s).layout = s.layout := by unfold fgNotchEffect; (repeat' split) <;> simp
@[simp] theorem State.endJob_layout (s : State) (st : Nat) (j : Job)  : (State.endJob s st j).layout = s.layout := by unfold State.endJob; (repeat' split) <;> simp
@[simp] theorem State.shiftJob_layout (s : State) (st : Nat) (j : Job) (now : Nat)  : (State.shiftJob s st j now).layout = s.layout := by unfold State.shiftJob; (repeat' split) <;> simp
@[simp] theorem State.scoutFind_layout (s : State) (d : Nat) (check : Nat) (unit : Nat) (res : Nat) (cyc : Nat)  : (State.scoutFind s d check unit res cyc).layout = s.layout := by unfold State.scoutFind; (repeat' split) <;> simp
@[simp] theorem State.scoutDeck_layout (s : State) (st : Nat) (port : Nat) (bank : Nat) (cyc : Nat)  : (State.scoutDeck s st port bank cyc).layout = s.layout := by unfold State.scoutDeck; dsimp only; (repeat' split) <;> simp_all
@[simp] theorem State.refuse_layout (s : State) (st : Nat) (port : Nat) (off : Int) (cyc : Nat) (cause : Nat)  : (State.refuse s st port off cyc cause).1.layout = s.layout := by unfold State.refuse; (repeat' split) <;> simp
@[simp] theorem State.enterLine_layout (s : State) (st : Nat) (port : Nat) (bank : Nat) (cyc : Nat)  : (State.enterLine s st port bank cyc).layout = s.layout := by unfold State.enterLine; (repeat' split) <;> simp
@[simp] theorem State.noteUnit_layout (s : State) (st : Nat) (cls : Nat) (port : Nat) (a : Nat) (u : Nat) (cyc : Nat) (outcome : Nat) (inj : Option (Nat × List Byte))  : (State.noteUnit s st cls port a u cyc outcome inj).layout = s.layout := by unfold State.noteUnit; dsimp only; (repeat' split) <;> simp_all
@[simp] theorem State.readUnits_layout (st : Nat) (cls : Nat) (port : Nat) (a : Nat) (cyc : Nat) (inj : Option (Nat × List Byte)) (a7 : List Nat) (a8 : State)  : (State.readUnits st cls port a cyc inj a7 a8).1.layout = a8.layout := by fun_induction State.readUnits st cls port a cyc inj a7 a8 <;> simp_all
@[simp] theorem State.readLine_layout (s : State) (st : Nat) (port : Nat) (off : Int) (cyc : Nat)  : (State.readLine s st port off cyc).1.layout = s.layout := by unfold State.readLine; dsimp only; (repeat' split) <;> simp_all
@[simp] theorem State.raiseMet_layout (s : State) (st : Nat) (unit : Nat) (m : Met)  : (State.raiseMet s st unit m).layout = s.layout := by unfold State.raiseMet; (repeat' split) <;> simp
@[simp] theorem State.jobMet_layout (s : State) (st : Nat) (id : Nat) (m : Met)  : (State.jobMet s st id m).layout = s.layout := by unfold State.jobMet; (repeat' split) <;> simp
@[simp] theorem State.jobRead_layout (s : State) (st : Nat) (id : Nat) (port : Nat) (l : Int)  : (State.jobRead s st id port l).layout = s.layout := by unfold State.jobRead; simp
@[simp] theorem State.scoutInput_layout (s : State) (d : Nat) (unit : Nat) (name : Nat) (cyc : Nat)  : (State.scoutInput s d unit name cyc).layout = s.layout := by unfold State.scoutInput; (repeat' split) <;> simp
@[simp] theorem State.scoutWrite_layout (s : State) (st : Nat) (line : Int) (cyc : Nat)  : (State.scoutWrite s st line cyc).layout = s.layout := by unfold State.scoutWrite; (repeat' split) <;> simp
@[simp] theorem State.mergeUnits_layout (st : Nat) (cls : Nat) (port : Nat) (a : Nat) (cyc : Nat) (inj : Option (Nat × List Byte)) (a7 : List Nat) (a8 : State)  : (State.mergeUnits st cls port a cyc inj a7 a8).1.layout = a8.layout := by fun_induction State.mergeUnits st cls port a cyc inj a7 a8 <;> simp_all +zetaDelta
@[simp] theorem State.writeLine_layout (s : State) (st : Nat) (port : Nat) (off : Int) (cyc : Nat) (arrival : Bool) (img : Nat) (be : Nat)  : (State.writeLine s st port off cyc arrival img be).1.layout = s.layout := by unfold State.writeLine; dsimp only; (repeat' split) <;> simp_all
@[simp] theorem State.jobWrite_layout (s : State) (st : Nat) (id : Nat) (port : Nat) (l : Int) (img : Nat) (be : Nat)  : (State.jobWrite s st id port l img be).layout = s.layout := by unfold State.jobWrite; simp
@[simp] theorem State.runAct_layout (s : State) (stage : Stage) (st : Nat) (j : Job) (a : Act) (hstage : ∀ x0 x1 x2 x3, (stage x0 x1 x2 x3).layout = x3.layout) : (State.runAct s stage st j a).layout = s.layout := by
  unfold State.runAct; dsimp only; split <;> simp [hstage]
@[simp] theorem State.runJob_layout (stage : Stage) (st : Nat) (id : Nat) (a : Nat) (a5 : State) (hstage : ∀ x0 x1 x2 x3, (stage x0 x1 x2 x3).layout = x3.layout) : (State.runJob stage st id a a5).layout = a5.layout := by fun_induction State.runJob stage st id a a5 <;> simp_all
@[simp] theorem State.startJob_layout (s : State) (stage : Stage) (st : Nat) (id : Nat) (stream : Nat) (kind : JobKind) (sus : Bool) (acts : List (Nat × Act)) (hstage : ∀ x0 x1 x2 x3, (stage x0 x1 x2 x3).layout = x3.layout) : (State.startJob s stage st id stream kind sus acts).layout = s.layout := by unfold State.startJob; (repeat' split) <;> simp_all
@[simp] theorem State.edFail_layout (s : State) (st : Nat) (issued : Nat) (res : List Nat) (tab : List Nat)  : (State.edFail s st issued res tab).layout = s.layout := by unfold State.edFail; simp only []; (repeat' split) <;> simp (disch := (intros; (repeat' split) <;> simp))
@[simp] theorem State.computeStage_layout (s : State) (st : Nat) (j : Job) (k : EdKind) (o : EdOp) (a b c d : Slot) (wr : Nat) :
    (s.computeStage st j k o a b c d wr).layout = s.layout := by
  unfold State.computeStage
  simp only []
  rw [State.edFail_layout, State.updStand_layout_of]
  · simp
  · intro t; rfl
@[simp] theorem State.residentStage_layout (s : State) (st : Nat) (j : Job) (slot : Nat)  : (State.residentStage s st j slot).layout = s.layout := by unfold State.residentStage; (repeat' split) <;> simp
@[simp] theorem edStage_layout (a : Nat) (a2 : Job) (a3 : Act) (a4 : State)  : (edStage a a2 a3 a4).layout = a4.layout := by unfold edStage; (repeat' split) <;> simp
@[simp] theorem edEffect_layout (k : EdKind) (st : Nat) (o : EdOp) (s : State)  : (edEffect k st o s).layout = s.layout := by
  unfold edEffect
  simp only []
  rw [State.startJob_layout _ _ _ _ _ _ _ _ edStage_layout, State.noteTaint_layout, State.addOp_layout, State.updStand_layout_of, State.beginIssue_layout]
  intro t
  exact Stand.foldl_layout (fun (t : Stand) (p : Nat × Nat) => t.updSlot p.1 fun q => q.advance (q.total (t.getDesc q.handle)) p.2) _ t fun _ _ => rfl
@[simp] theorem edOpenEffect_layout (st : Nat) (h : Hdr) (slot : Nat) (handle : Nat) (out : Bool) (wrap : Bool) (arEn : Bool) (areg : Nat) (s : State)  : (edOpenEffect st h slot handle out wrap arEn areg s).layout = s.layout := by unfold edOpenEffect; dsimp only; (repeat' split) <;> simp_all
@[simp] theorem edCloseEffect_layout (st : Nat) (h : Hdr) (slot : Nat) (s : State)  : (edCloseEffect st h slot s).layout = s.layout := by unfold edCloseEffect; (repeat' split) <;> simp
@[simp] theorem edTakeEffect_layout (st : Nat) (h : Hdr) (slot : Nat) (e : Ftq) (s : State)  : (edTakeEffect st h slot e s).layout = s.layout := by unfold edTakeEffect; (repeat' split) <;> simp
@[simp] theorem State.loadStage_layout (s : State) (st : Nat) (j : Job) (handle : Nat) (buf : Nat) (base : Int)  : (State.loadStage s st j handle buf base).layout = s.layout := by unfold State.loadStage; (repeat' split) <;> simp
@[simp] theorem State.rowStage_layout (s : State) (st : Nat) (j : Job) (r0 : Nat) (i : Nat) (init : Bool) (c : AccRow)  : (State.rowStage s st j r0 i init c).layout = s.layout := by unfold State.rowStage; (repeat' split) <;> simp
@[simp] theorem State.mulStage_layout (s : State) (st : Nat) (j : Job) (handle : Nat) (aoff : Nat) (buf : Nat) (r0 : Nat) (i : Nat) (init : Bool)  : (State.mulStage s st j handle aoff buf r0 i init).layout = s.layout := by unfold State.mulStage; (repeat' split) <;> simp
@[simp] theorem State.addxStage_layout (s : State) (st : Nat) (j : Job) (handle : Nat) (aoff : Nat) (fp32 : Bool) (r0 : Nat) (i : Nat) (init : Bool)  : (State.addxStage s st j handle aoff fp32 r0 i init).layout = s.layout := by unfold State.addxStage; (repeat' split) <;> simp
@[simp] theorem State.drainStage_layout (s : State) (st : Nat) (j : Job) (i : Nat)  : (State.drainStage s st j i).layout = s.layout := by unfold State.drainStage; (repeat' split) <;> simp
@[simp] theorem hrStage_layout (a : Nat) (a2 : Job) (a3 : Act) (a4 : State)  : (hrStage a a2 a3 a4).layout = a4.layout := by unfold hrStage; (repeat' split) <;> simp
@[simp] theorem hrLoadEffect_layout (st : Nat) (h : Hdr) (handle : Nat) (tile : Nat) (buf : Nat) (arEn : Bool) (areg : Nat) (s : State)  : (hrLoadEffect st h handle tile buf arEn areg s).layout = s.layout := by unfold hrLoadEffect; (repeat' split) <;> simp
@[simp] theorem hrMulEffect_layout (st : Nat) (h : Hdr) (handle : Nat) (buf : Nat) (rows : Nat) (r0 : Nat) (init : Bool) (arEn : Bool) (areg : Nat) (s : State)  : (hrMulEffect st h handle buf rows r0 init arEn areg s).layout = s.layout := by unfold hrMulEffect; (repeat' split) <;> simp
@[simp] theorem hrAddxEffect_layout (st : Nat) (h : Hdr) (handle : Nat) (fp32 : Bool) (rows : Nat) (r0 : Nat) (init : Bool) (arEn : Bool) (areg : Nat) (s : State)  : (hrAddxEffect st h handle fp32 rows r0 init arEn areg s).layout = s.layout := by unfold hrAddxEffect; (repeat' split) <;> simp
@[simp] theorem hrDrainEffect_layout (st : Nat) (h : Hdr) (handle : Nat) (rows : Nat) (r0 : Nat) (fmt : Nat) (sat : Bool) (adj : Int) (push : Bool) (tag : Nat) (arEn : Bool) (areg : Nat) (s : State)  : (hrDrainEffect st h handle rows r0 fmt sat adj push tag arEn areg s).layout = s.layout := by unfold hrDrainEffect; (repeat' split) <;> simp
@[simp] theorem State.skIssue_layout (stage : Stage) (s : State) (st : Nat) (h : Hdr) (kind : JobKind) (ix : List Int) (hstage : ∀ x0 x1 x2 x3, (stage x0 x1 x2 x3).layout = x3.layout) : (State.skIssue stage s st h kind ix).layout = s.layout := by unfold State.skIssue; (repeat' split) <;> simp_all
@[simp] theorem State.indexFault_layout (s : State) (st : Nat) (inst : Nat) (ent : Nat) (cause : Nat) (kind : Nat) (handle : Nat) (value : Nat) (cyc : Nat)  : (State.indexFault s st inst ent cause kind handle value cyc).layout = s.layout := by unfold State.indexFault; simp only []; (repeat' split) <;> simp (disch := (intros; (repeat' split) <;> simp))
@[simp] theorem State.noteEntries_layout (s : State) (st : Nat) (j : Job) (h : Nat) (w : Walk)  : (State.noteEntries s st j h w).layout = s.layout := by unfold State.noteEntries; (repeat' split) <;> simp (disch := (intros; (repeat' split) <;> simp))
@[simp] theorem State.farFaults_layout (s : State) (st : Nat) (j : Job) (h : Nat) (bs : List (Option Int × Nat))  : (State.farFaults s st j h bs).layout = s.layout := by unfold State.farFaults; simp only []; (repeat' split) <;> simp (disch := (intros; (repeat' split) <;> simp))
@[simp] theorem State.addGrain_layout (s : State) (d : Nat) (g : Nat) (n : Nat) (be : Nat) (line : List Byte) (cyc : Nat) (sus : Bool)  : (State.addGrain s d g n be line cyc sus).layout = s.layout := by unfold State.addGrain; dsimp only; (repeat' split) <;> simp_all
@[simp] theorem State.grainOne_layout (s : State) (st : Nat) (d : Desc) (g : Nat) (l : Int) (p : List Byte × Nat) (sus : Bool)  : (State.grainOne s st d g l p sus).layout = s.layout := by unfold State.grainOne; (repeat' split) <;> simp
@[simp] theorem State.awaits_layout (s : State) (st : Nat) (id : Nat) (n : Nat)  : (State.awaits s st id n).layout = s.layout := by unfold State.awaits; (repeat' split) <;> simp
@[simp] theorem State.goOnJob_layout (s : State) (st : Nat) (id : Nat) (k : JobKind) (more : LineTab) (acts : List (Nat × Act))  : (State.goOnJob s st id k more acts).layout = s.layout := by unfold State.goOnJob; (repeat' split) <;> simp
@[simp] theorem State.moveIn_layout (s : State) (st : Nat) (j : Job) (mv : Move) (c0 : Nat) (ps : List (Int × Option Int × Nat))  : (State.moveIn s st j mv c0 ps).layout = s.layout := by unfold State.moveIn; dsimp only; (repeat' split) <;> simp_all
@[simp] theorem State.moveOwn_layout (s : State) (st : Nat) (j : Job) (mv : Move) (c0 : Nat) (more : LineTab) (reads : List (Option Int)) (ps : List (Int × Option Int))  : (State.moveOwn s st j mv c0 more reads ps).layout = s.layout := by unfold State.moveOwn; (repeat' split) <;> simp
@[simp] theorem State.moveOut_layout (s : State) (st : Nat) (j : Job) (mv : Move) (c0 : Nat) (more : LineTab) (reads : List (Option Int)) (ps : List (Int × Option Int)) (ents : List (Int × Nat))  : (State.moveOut s st j mv c0 more reads ps ents).layout = s.layout := by unfold State.moveOut; (repeat' split) <;> simp
@[simp] theorem State.moveStart_layout (s : State) (st : Nat) (j : Job) (mv : Move)  : (State.moveStart s st j mv).layout = s.layout := by unfold State.moveStart; dsimp only; (repeat' split) <;> simp_all
@[simp] theorem State.moveWrites_layout (s : State) (st : Nat) (j : Job) (mv : Move) (lines : List (Int × Nat × List MByte)) (n : Nat)  : (State.moveWrites s st j mv lines n).layout = s.layout := by unfold State.moveWrites; (repeat' split) <;> simp
@[simp] theorem State.moveLine_layout (s : State) (st : Nat) (j : Job) (mv : Move) (lines : List (Int × Nat × List MByte)) (reqs : Nat) (k : Nat)  : (State.moveLine s st j mv lines reqs k).layout = s.layout := by unfold State.moveLine; (repeat' split) <;> simp
@[simp] theorem State.atomSources_layout (s : State) (st : Nat) (src : Nat) (els : List (Option Int))  : (State.atomSources s st src els).1.layout = s.layout := by unfold State.atomSources; dsimp only; (repeat' split) <;> simp_all
@[simp] theorem State.atomStart_layout (s : State) (st : Nat) (j : Job) (op : Nat) (tgt : Nat) (src : Nat) (ret : Nat) (aoff : Nat) (imm : Nat)  : (State.atomStart s st j op tgt src ret aoff imm).layout = s.layout := by unfold State.atomStart; (repeat' split) <;> simp
@[simp] theorem State.farWrite_layout (s : State) (st : Nat) (d : Desc) (a : Int) (bs : List Byte)  : (State.farWrite s st d a bs).layout = s.layout := by unfold State.farWrite; (repeat' split) <;> simp
@[simp] theorem State.atomEnd_layout (s : State) (st : Nat) (j : Job) (op : Nat) (src : Nat) (ret : Nat) (els : List (Option Int × Option Int × Option Int)) (olds : List (Nat × Nat × Nat))  : (State.atomEnd s st j op src ret els olds).layout = s.layout := by unfold State.atomEnd; dsimp only; (repeat' split) <;> simp_all
@[simp] theorem State.atomic_layout (s : State) (st : Nat) (op : Nat) (off : Int) (operand : Nat) (cyc : Nat) (arrival : Bool)  : (State.atomic s st op off operand cyc arrival).1.layout = s.layout := by unfold State.atomic; dsimp only; (repeat' split) <;> simp_all
@[simp] theorem State.atomOne_layout (s : State) (st : Nat) (j : Job) (op : Nat) (tgt : Nat) (src : Nat) (ret : Nat) (aoff : Nat) (imm : Nat) (els : List (Option Int × Option Int × Option Int)) (olds : List (Nat × Nat × Nat)) (i : Nat)  : (State.atomOne s st j op tgt src ret aoff imm els olds i).layout = s.layout := by unfold State.atomOne; dsimp only; (repeat' split) <;> simp_all
@[simp] theorem State.scrubOne_layout (s : State) (st : Nat) (j : Job) (next : Int) (left : Nat) (wb : List (Nat × Int × Nat × Nat))  : (State.scrubOne s st j next left wb).layout = s.layout := by unfold State.scrubOne; dsimp only; (repeat' split) <;> simp_all
@[simp] theorem State.noteBins_layout (s : State) (st : Nat) (j : Job) (key : Nat) (a4 : Bins)  : (State.noteBins s st j key a4).layout = s.layout := by unfold State.noteBins; simp only []; (repeat' split) <;> simp (disch := (intros; (repeat' split) <;> simp))
@[simp] theorem State.binStage_layout (s : State) (st : Nat) (j : Job) (key : Nat) (list : Nat) (pos : Nat) (b : Nat)  : (State.binStage s st j key list pos b).layout = s.layout := by unfold State.binStage; (repeat' split) <;> simp
@[simp] theorem skStage_layout (a : Nat) (a2 : Job) (a3 : Act) (a4 : State)  : (skStage a a2 a3 a4).layout = a4.layout := by unfold skStage; (repeat' split) <;> simp
@[simp] theorem skMoveEffect_layout (st : Nat) (h : Hdr) (src : Nat) (dst : Nat) (sEn : Bool) (sReg : Nat) (dEn : Bool) (dReg : Nat) (dtok : Nat) (grain : Nat) (s : State)  : (skMoveEffect st h src dst sEn sReg dEn dReg dtok grain s).layout = s.layout := by unfold skMoveEffect; (repeat' split) <;> simp
@[simp] theorem skAtomEffect_layout (st : Nat) (h : Hdr) (op : Nat) (tgt : Nat) (src : Nat) (ret : Nat) (arEn : Bool) (areg : Nat) (imm : Nat) (s : State)  : (skAtomEffect st h op tgt src ret arEn areg imm s).layout = s.layout := by unfold skAtomEffect; (repeat' split) <;> simp
@[simp] theorem skScrubEffect_layout (st : Nat) (h : Hdr) (first : Nat) (lines : Nat) (s : State)  : (skScrubEffect st h first lines s).layout = s.layout := by unfold skScrubEffect; (repeat' split) <;> simp
@[simp] theorem skBinEffect_layout (st : Nat) (h : Hdr) (key : Nat) (list : Nat) (pos : Nat) (b : Nat) (s : State)  : (skBinEffect st h key list pos b s).layout = s.layout := by unfold skBinEffect; (repeat' split) <;> simp
@[simp] theorem State.bankIssue_layout (s : State) (st : Nat) (h : Hdr) (a3 : Later) (k : Nat)  : (State.bankIssue s st h a3 k).layout = s.layout := by unfold State.bankIssue; (repeat' split) <;> simp

end Sys2Proof.Machine
end

