-- ==== Sys2Proof/Laws/Ops.lean ====
section
/-! SUPPORT. What the operations that commands share can do: issuing, answering a plan command, acting for an LD, posting to a counter,
raising an event. -/

namespace Sys2Proof.Machine

variable (s : State)

/-! Issue (R43). -/

theorem State.issue_go {st k : Nat} {i : Instr} {f : State → State} (h : s.isHead st k i = true) (g : s.holdOf st k i = .go) :
    s.issue st k i f = .next (f s) := by simp [State.issue, h, g]

theorem State.issue_held {st k : Nat} {i : Instr} {f : State → State} (h : s.isHead st k i = false ∨ s.holdOf st k i ≠ .go) :
    s.issue st k i f = .next s := by
  unfold State.issue; rw [if_neg]; rintro ⟨a, b⟩; rcases h with h | h
  · simp [a] at h
  · exact h b

/-- An instruction issues where it is its stream's head and nothing holds it, and otherwise changes nothing. -/
theorem State.issue_cases (st k : Nat) (i : Instr) (f : State → State) :
    (s.isHead st k i = true ∧ s.holdOf st k i = .go ∧ s.issue st k i f = .next (f s)) ∨
    ((s.isHead st k i = false ∨ s.holdOf st k i ≠ .go) ∧ s.issue st k i f = .next s) := by
  by_cases h : s.isHead st k i = true
  · by_cases g : s.holdOf st k i = .go
    · exact .inl ⟨h, g, s.issue_go h g⟩
    · exact .inr ⟨.inr g, s.issue_held (.inr g)⟩
  · exact .inr ⟨.inl (by simpa using h), s.issue_held (.inl (by simpa using h))⟩

theorem State.sequence_go {st k : Nat} {i : Instr} {f : State → State} (h : s.isHead st k i = true) (g : s.streamLive st k = true) :
    s.sequence st k i f = .next (f s) := by simp [State.sequence, h, g]

theorem State.sequence_held {st k : Nat} {i : Instr} {f : State → State} (h : s.isHead st k i = false ∨ s.streamLive st k = false) :
    s.sequence st k i f = .next s := by
  unfold State.sequence; rw [if_neg]; rintro ⟨a, b⟩; rcases h with h | h
  · simp [a] at h
  · simp [b] at h

/-- Nothing is taken of a counter by the streams before that none of them names (R197). -/
theorem takenTok_nil (i : Nat) : takenTok [] i = 0 := rfl
theorem takenCred_nil (i : Nat) : takenCred [] i = 0 := rfl
@[simp] theorem State.takes_zero (st : Nat) : s.takes st 0 = [] := rfl

/-! Plan commands and commands of an LD. -/

@[simp] theorem State.command_lastStatus (d n : Nat) (f : State → State) : ((s.command d n f).getCtx d).lastStatus = n := by
  simp [State.command]

theorem State.command_ok (d : Nat) (f : State → State) :
    s.command d 0 f = (f s).updCtx d fun c => { c with lastStatus := 0 } := rfl

theorem State.command_refused {d n : Nat} (f : State → State) (h : n ≠ 0) :
    s.command d n f = s.updCtx d fun c => { c with lastStatus := n } := by simp [State.command, h]

theorem State.asLd_seen {d off : Nat} (f : State → State) (h : s.seen d = true) : s.asLd d off f = f s := by simp [State.asLd, h]
theorem State.asLd_unseen {d off : Nat} (f : State → State) (h : s.seen d = false) : s.asLd d off f = s.hostDrop d 0 off := by
  simp [State.asLd, h]

theorem State.onQueue_mine {d q : Nat} (f : State → State) (h : s.queueDom q = some d) : s.onQueue d q f = f (s.touchQueue d q) := by
  simp [State.onQueue, h]
theorem State.onQueue_other {d q : Nat} (f : State → State) (h : s.queueDom q ≠ some d) : s.onQueue d q f = s := by
  simp [State.onQueue, h]

theorem State.hostNotch_mine {ld n : Nat} (f : State → State) (h : s.notchDomain n = some ld) : s.hostNotch ld n f = f s := by
  simp [State.hostNotch, h]

/-! Counters (R195, R196). -/

@[simp] theorem Cnt.post_n (c : Cnt) (now k : Nat) (sus : Bool) : (c.post now k sus).n = c.n := rfl
@[simp] theorem Cnt.post_suspect (c : Cnt) (now k : Nat) (sus : Bool) : (c.post now k sus).suspect = c.suspect := rfl
@[simp] theorem Cnt.take_n (c : Cnt) (k : Nat) : (c.take k).n = c.n - k := rfl
@[simp] theorem Cnt.take_posts (c : Cnt) (k : Nat) : (c.take k).posts = c.posts := rfl

/-- Counter 0 and numbers past the last name no counter. -/
theorem State.postTok_none {st i k : Nat} {sus : Bool} (h : i = 0 ∨ i > 31) : s.postTok st i k sus = s := by simp [State.postTok, h]
theorem State.postCred_none {st i k : Nat} (h : i = 0 ∨ i > 15) : s.postCred st i k = s := by simp [State.postCred, h]

theorem State.postTok_some {st i k : Nat} {sus : Bool} (h : 0 < i) (g : i ≤ 31) :
    s.postTok st i k sus = s.updStand st fun t => { t with tok := tput t.tok i ((t.getTok i).post s.time k sus) } := by
  unfold State.postTok; rw [if_neg (by omega)]
theorem State.postCred_some {st i k : Nat} (h : 0 < i) (g : i ≤ 15) :
    s.postCred st i k = s.updStand st fun t => { t with cred := tput t.cred i ((t.getCred i).post s.time k false) } := by
  unfold State.postCred; rw [if_neg (by omega)]

/-- A post to a token counter leaves every other counter of the stand and every other stand as it was. -/
theorem State.postTok_getTok_ne {st i j k : Nat} {sus : Bool} (h : i ≠ j) :
    ((s.postTok st i k sus).getStand st).getTok j = (s.getStand st).getTok j := by
  unfold State.postTok; split
  · rfl
  · simp [Stand.getTok, tget_tput_ne _ _ _ h]

/-! Events (R450): the step, the host's ring and the log alone. -/

/-- What an event leaves as it was. -/
def State.quiet (s : State) : Tab PlanCtx × Tab Stand × NetSt × Nat × List Instr × Tab Cmp × MemSt × RingSt :=
  (s.ctx, s.stand, s.net, s.free, s.pending, s.cmp, s.mem, s.ring)

@[simp] theorem State.updTally_quiet (d : Nat) (f : TallyCtx → TallyCtx) : (s.updTally d f).quiet = s.quiet := rfl
@[simp] theorem State.updMsix_quiet (d v : Nat) (f : Msix → Msix) : (s.updMsix d v f).quiet = s.quiet := by
  unfold State.updMsix; rfl
@[simp] theorem State.hostWrite_quiet (ld a : Nat) (bs : List Byte) : (s.hostWrite ld a bs).quiet = s.quiet := by
  unfold State.hostWrite; (repeat' split) <;> rfl
@[simp] theorem State.hostDrop_quiet (ld c off : Nat) : (s.hostDrop ld c off).quiet = s.quiet := by
  unfold State.hostDrop; (repeat' split) <;> rfl
@[simp] theorem State.sendMsi_quiet (ld v : Nat) : (s.sendMsi ld v).quiet = s.quiet := by
  unfold State.sendMsi; dsimp only; split
  · simp
  · split
    · simp
    · rfl
@[simp] theorem State.putEvent_quiet (ld : Nat) (r : List Byte) : (s.putEvent ld r).quiet = s.quiet := by
  unfold State.putEvent; dsimp only; (repeat' split) <;> simp
@[simp] theorem State.raiseAt_quiet (code d unit cyc i1 i2 : Nat) : (s.raiseAt code d unit cyc i1 i2).quiet = s.quiet := by
  unfold State.raiseAt; dsimp only; split
  · simp
  · exact (State.putEvent_quiet ..).trans (State.updTally_quiet ..)
@[simp] theorem State.failStep_quiet (d cause unit : Nat) : (s.failStep d cause unit).quiet = s.quiet := rfl
@[simp] theorem State.raiseFail_quiet (code d unit cyc i1 i2 : Nat) : (s.raiseFail code d unit cyc i1 i2).quiet = s.quiet := by
  unfold State.raiseFail; simp

end Sys2Proof.Machine
end

