-- ==== Sys2Proof/Tests/Slice0.lean ====
section
/-! SUPPORT. The model's own tests: witnesses for the statements, ill-formed terms that WellFormed refuses, and single steps. -/

namespace Sys2Proof.Tests
open Machine

set_option Elab.async false

/-- A device in READY and locked, with one domain of every unit and its plan running in cycle 100 of ring 5. -/
def live : State :=
  { ring := { locked := true, lenLog2 := 14, cycle := 100, count := 5 }
    ctx := [(0, { state := .running, stands := 16, ringsPerStep := 1, jobTag := 9 })]
    cmp := [(0, { on := true, loc := 100, kept := 100 }), (17, { loc := 100, kept := 100 }), (18, { loc := 100, kept := 100 }), (19, { loc := 100, kept := 100 })]
    stand := [(0, { ctx := some 0 })]
    prot := [(0, { valid := true, stands := 0xFFFF, aelel := 0xFFF, hbm := 1, queues := (0, 8), notches := (0, 8), lids := (0, 8), hostLast := 0xFFFF })]
    sec := { stage := 10, locked := true }
    host := { link := 2 } }

/-- The live device with stand 0 as given. -/
def onStand (f : Stand → Stand) : State := live.updStand 0 f

/-- A word of a cut list (R192): stamp, opcode, the fields of its format, and the counters waited on and posted. -/
def word (stamp op rest : Nat) (wt wtn wc wcn pt pc : Nat := 0) : Nat :=
  stamp * 2 ^ 108 + op * 2 ^ 102 + wt * 2 ^ 97 + wtn * 2 ^ 93 + wc * 2 ^ 89 + wcn * 2 ^ 86 + pt * 2 ^ 81 + pc * 2 ^ 77 + rest

/-- A stand whose stream `k` has these words in its area, the first of them at its head. -/
def withCut (k : Nat) (ws : List Nat) (t : Stand) : Stand :=
  { t with cuts := ((List.range ws.length).zip ws).map fun p => (64 * k + p.1, p.2)
           streams := [(k, { base := 64 * k, len := ws.length, pc := 64 * k, sect := 64 * k, nextSect := 64 * k, filled := true })] }

/-- A state of stand 0 with one word at the head of its stream `k`. -/
def headed (k w : Nat) (s : State) : State := s.updStand 0 (withCut k [w])

/-- The lines of a Deck as its bytes give them. -/
def deckTab (m : Mem) (ls : List Int) : LineTab := ls.foldl (fun tab l => tput tab l.toNat (ofLe (memRead m (l.toNat * 512) 512))) []

/-! Ill-formed terms: for each check of WellFormed, a command that fails it alone. -/

theorem test_wellFormed_1 : ∀ c ∈ ([
    .ringBoundary, .load 0 0 0, .arm 0 false, .go 0, .stop 0, .disarm 0, .unload 0, .abort 0 0 0, .instructionComplete 0 0,
    .hrLoad 0 {} 0 0 0 false 0, .hrMul 0 {} 0 0 1 0 false false 0, .hrAddx 0 {} 0 false 1 0 false false 0,
    .hrDrain 0 {} 0 1 0 0 false 0 false 0 false 0, .drainRowCheck 0, .standHrInject 0 0, .edOpen 0 {} 0 0 false false false 0, .edClose 0 {} 0,
    .edTake 0 {} 0, .edFma 0 {}, .edAdd 0 {}, .edMul 0 {}, .edMin 0 {}, .edMax 0 {}, .edCmp 0 {}, .edCsel 0 {}, .edCvt 0 {}, .edExp2 0 {},
    .edLog2 0 {}, .edRcp 0 {}, .edRsq 0 {}] : List Instr), c.wf = true := by decide
theorem test_wellFormed_2 : ∀ c ∈ ([
    .edTanh 0 {}, .edExpd 0 {}, .edQmx 0 {}, .edRsum 0 {}, .edRssq 0 {}, .edRmax 0 {}, .edRmin 0 {}, .edRcomb 0 {}, .edTopkf 0 {}, .standEdInject 0 0,
    .skMove 0 {} 0 0 false 0 false 0 0 0, .skAtom 0 {} 0 0 0 0 false 0 0, .skOwn 0 {} 0 0, .skPwr 0 {} 0 0, .bankTransitionDone 0 0,
    .skScrub 0 {} 0 1, .skBin 0 {} 0 0 0 0, .standDkInject 0 0, .nop 0 0 {}, .clRing 0 0 0, .loop 0 0 false 0 0 0, .loopEnd 0 0, .arSet 0 0 0 0 0,
    .arAddi 0 0 0 0 0 0, .arAdd 0 0 0 0 0 0, .arShl 0 0 0 0 0 0, .arShr 0 0 0 0 0 0, .arMuli 0 0 0 0 0 0, .arBnd 0 0 0 0 0 false 0, .arConst 0 0 0 0 0] : List Instr), c.wf = true := by decide
theorem test_wellFormed_3 : ∀ c ∈ ([
    .fgPost 0 {} false 0 1 0, .fgNotch 0 {} 0 0 0 0 0, .flitForward .bridge 0 false, .flitArrival 0 false, .packetForward .bridge 0,
    .token .bridge false, .atomic 0 false, .atomReply 0 false, .nack .bridge false, .flumeResend .bridge 0, .standFlInject 0 0,
    .frameReceive 0 0 {} 0 0 0, .resendReq 0 0 0, .linkResend 0, .ringMark 0 0 0 0 false 0, .probe 0 0 0, .echo 0 0 0 0, .discover 0 {}, .twin 0 0 0,
    .twinCompare 0, .laneLockLoss 0, .retrain 0 none, .down 0 none, .linkTrained 0 0 false, .refLost, .aelMapData 0 0, .notchAdd false,
    .notchSet false, .notchRead false, .notchWaitGe false] : List Instr), c.wf = true := by decide
theorem test_wellFormed_4 : ∀ c ∈ ([
    .notchReply 0 false, .hostNotchSet 0 0 0, .hostNotchAdd 0 0 0, .hostNotchMode 0 0 0, .enable 0 0, .disable 0 0, .resume 0 0, .queueReset 0 0,
    .qctxDoorbell 0 0, .qctxData 0 0, .request 0, .wait 0, .signal 0, .bind 0, .cancel 0, .queueWaitRelease 0, .waitExpired 0, .requestFlit 0 false,
    .memReadEntry 0 0, .memWriteEntry 0 0, .selfRefreshEntry 0, .create 0, .sealSet 0 0 [], .switch 0 0, .drain 0 0, .release 0 0 [], .jobResume 0,
    .buckJobDoorbell 0 0, .convert 0 false, .copy 0] : List Instr), c.wf = true := by decide
theorem test_wellFormed_5 : ∀ c ∈ ([
    .adapter 0 false, .buckerJobComplete 0, .build 0, .ticketReadbackComplete 0, .stepRecord 0, .lndOutIdx 0 0, .lndOutBase 0 0, .lndOutCfg 0 0,
    .lndOutWb 0 0, .graderLoad 0, .graderUnload 0 0, .draft 0 [], .verify 0 [], .graderPhaseComplete 0, .signature 0, .tallySignCmd 0 0,
    .tallyRingBase 0 0, .tallyRingCfg 0 0, .tallyRingIdx 0 0, .tallySignCfg 0 0, .tallyJrnBase 0 0, .tallyJrnCfg 0 0, .tallyJrnIdx 0 0,
    .tallyEvtBase 0 0, .tallyEvtCfg 0 0, .tallyEvtIdx 0 0, .tallyTwinCfg 0 0, .stretch 0, .tempSample [] [] [], .resetRelease {}] : List Instr), c.wf = true := by decide
theorem test_wellFormed_6 : ∀ c ∈ ([
    .coldReset, .railUndervolt, .pwrWarn, .pwrWarnRelease, .updateBegin 0, .updateWrite 0 0 [], .updateCommit 0 [] none, .updateAbort 0, .getStatus 0,
    .readReg 0 0 0 0, .writeReg 0 0 0 0, .readTally 0 0 0, .readLedger 0 0, .readLog 0 0, .reset 0 {}, .resetFlush 0 {}, .mctpControl none,
    .setdasa 0 0, .entdaa 0, .getVersion, .getCapabilities, .negotiateAlgorithms, .getDigests, .getCertificate 0 0 0, .challenge [],
    .getMeasurements 0 false [], .keyExchange [], .finish false, .endSession, .vendorDefinedRequest none] : List Instr), c.wf = true := by decide
theorem test_wellFormed_7 : ∀ c ∈ ([
    .perstN, .hotReset {}, .flr 0, .hostLinkDown, .cxlMemAccess 0 0 false 0 [], .snoop, .hostReadCompletion (.entry 0) none,
    .hostReadTimeout (.entry 0), .msixUnmask 0 0, .shift 0 0 0, .rowShifted, .start 0 false, .abandon 0, .controlArm false, .controlGo false,
    .confirm false, .extest, .bypass {}, .idcode {}, .samplePreload {}, .registerWrite 0 0 0 0 [], .perstNDeassert {}, .hostLinkUp 1 0,
    .referenceReturn, .pwrWarnHalt, .controlBlockCheckFail 0, .ideCheckFail, .fabricManagerCommand false, .promptStaged 0, .trstN {}] : List Instr), c.wf = true := by decide
theorem test_illFormed_1 : ∀ c ∈ ([
    .load 16 0 0, .load 0 65536 0, .load 0 0 64, .arm 16 false, .go 16, .stop 16, .disarm 16, .unload 16, .abort 12 0 0, .abort 0 65536 0,
    .abort 0 0 (2 ^ 64), .instructionComplete 512 0, .instructionComplete 0 4, .hrLoad 512 {} 0 0 0 false 0, .hrLoad 0 { wt := 32 } 0 0 0 false 0,
    .hrLoad 0 {} 4096 0 0 false 0, .hrLoad 0 {} 0 (2 ^ 20) 0 false 0, .hrLoad 0 {} 0 0 2 false 0, .hrLoad 0 {} 0 0 0 false 16,
    .hrMul 512 {} 0 0 1 0 false false 0, .hrMul 0 { wt := 32 } 0 0 1 0 false false 0, .hrMul 0 {} 4096 0 1 0 false false 0,
    .hrMul 0 {} 0 2 1 0 false false 0, .hrMul 0 {} 0 0 33 0 false false 0, .hrMul 0 {} 0 0 0 0 false false 0, .hrMul 0 {} 0 0 1 32 false false 0,
    .hrMul 0 {} 0 0 1 0 false false 16, .hrMul 0 {} 0 0 2 31 false false 0, .hrAddx 512 {} 0 false 1 0 false false 0,
    .hrAddx 0 { wt := 32 } 0 false 1 0 false false 0] : List Instr), c.wf = false := by decide
theorem test_illFormed_2 : ∀ c ∈ ([
    .hrAddx 0 {} 4096 false 1 0 false false 0, .hrAddx 0 {} 0 false 33 0 false false 0, .hrAddx 0 {} 0 false 0 0 false false 0,
    .hrAddx 0 {} 0 false 1 32 false false 0, .hrAddx 0 {} 0 false 1 0 false false 16, .hrAddx 0 {} 0 false 2 31 false false 0,
    .hrDrain 512 {} 0 1 0 0 false 0 false 0 false 0, .hrDrain 0 { wt := 32 } 0 1 0 0 false 0 false 0 false 0,
    .hrDrain 0 {} 4096 1 0 0 false 0 false 0 false 0, .hrDrain 0 {} 0 33 0 0 false 0 false 0 false 0, .hrDrain 0 {} 0 0 0 0 false 0 false 0 false 0,
    .hrDrain 0 {} 0 1 32 0 false 0 false 0 false 0, .hrDrain 0 {} 0 1 0 32 false 0 false 0 false 0,
    .hrDrain 0 {} 0 1 0 0 false (-129) false 0 false 0, .hrDrain 0 {} 0 1 0 0 false 128 false 0 false 0,
    .hrDrain 0 {} 0 1 0 0 false 0 false 65536 false 0, .hrDrain 0 {} 0 1 0 0 false 0 false 0 false 16, .hrDrain 0 {} 0 2 31 0 false 0 false 0 false 0,
    .drainRowCheck 512, .standHrInject 512 0, .standHrInject 0 (2 ^ 64), .edOpen 512 {} 0 0 false false false 0,
    .edOpen 0 { wt := 32 } 0 0 false false false 0, .edOpen 0 {} 32 0 false false false 0, .edOpen 0 {} 0 4096 false false false 0,
    .edOpen 0 {} 0 0 false false false 16, .edClose 512 {} 0, .edClose 0 { wt := 32 } 0, .edClose 0 {} 32, .edTake 512 {} 0] : List Instr), c.wf = false := by decide
theorem test_illFormed_3 : ∀ c ∈ ([
    .edTake 0 { wt := 32 } 0, .edTake 0 {} 32, .edFma 512 {}, .edFma 0 { n := 0 }, .edAdd 512 {}, .edAdd 0 { n := 0 }, .edMul 512 {},
    .edMul 0 { n := 0 }, .edMin 512 {}, .edMin 0 { n := 0 }, .edMax 512 {}, .edMax 0 { n := 0 }, .edCmp 512 {}, .edCmp 0 { n := 0 }, .edCsel 512 {},
    .edCsel 0 { n := 0 }, .edCvt 512 {}, .edCvt 0 { n := 0 }, .edExp2 512 {}, .edExp2 0 { n := 0 }, .edLog2 512 {}, .edLog2 0 { n := 0 },
    .edRcp 512 {}, .edRcp 0 { n := 0 }, .edRsq 512 {}, .edRsq 0 { n := 0 }, .edTanh 512 {}, .edTanh 0 { n := 0 }, .edExpd 512 {}, .edExpd 0 { n := 0 }] : List Instr), c.wf = false := by decide
theorem test_illFormed_4 : ∀ c ∈ ([
    .edQmx 512 {}, .edQmx 0 { n := 0 }, .edRsum 512 {}, .edRsum 0 { n := 0 }, .edRssq 512 {}, .edRssq 0 { n := 0 }, .edRmax 512 {},
    .edRmax 0 { n := 0 }, .edRmin 512 {}, .edRmin 0 { n := 0 }, .edRcomb 512 {}, .edRcomb 0 { n := 0 }, .edTopkf 512 {}, .edTopkf 0 { n := 0 },
    .standEdInject 512 0, .standEdInject 0 (2 ^ 64), .skMove 512 {} 0 0 false 0 false 0 0 0, .skMove 0 { wt := 32 } 0 0 false 0 false 0 0 0,
    .skMove 0 {} 4096 0 false 0 false 0 0 0, .skMove 0 {} 0 4096 false 0 false 0 0 0, .skMove 0 {} 0 0 false 16 false 0 0 0,
    .skMove 0 {} 0 0 false 0 false 16 0 0, .skMove 0 {} 0 0 false 0 false 0 32 0, .skMove 0 {} 0 0 false 0 false 0 0 3,
    .skAtom 512 {} 0 0 0 0 false 0 0, .skAtom 0 { wt := 32 } 0 0 0 0 false 0 0, .skAtom 0 {} 4 0 0 0 false 0 0, .skAtom 0 {} 0 4096 0 0 false 0 0,
    .skAtom 0 {} 0 0 4096 0 false 0 0, .skAtom 0 {} 0 0 0 4096 false 0 0] : List Instr), c.wf = false := by decide
theorem test_illFormed_5 : ∀ c ∈ ([
    .skAtom 0 {} 0 0 0 0 false 16 0, .skAtom 0 {} 0 0 0 0 false 0 (2 ^ 32), .skOwn 512 {} 0 0, .skOwn 0 { wt := 32 } 0 0, .skOwn 0 {} 4 0,
    .skOwn 0 {} 0 (2 ^ 32), .skPwr 512 {} 0 0, .skPwr 0 { wt := 32 } 0 0, .skPwr 0 {} 3 0, .skPwr 0 {} 0 (2 ^ 32), .bankTransitionDone 512 0,
    .bankTransitionDone 0 32, .skScrub 512 {} 0 1, .skScrub 0 { wt := 32 } 0 1, .skScrub 0 {} 8388608 1, .skScrub 0 {} 511 1, .skScrub 0 {} 0 12289,
    .skScrub 0 {} 0 0, .skBin 512 {} 0 0 0 0, .skBin 0 { wt := 32 } 0 0 0 0, .skBin 0 {} 4096 0 0 0, .skBin 0 {} 0 4095 0 0, .skBin 0 {} 0 0 4096 0,
    .skBin 0 {} 0 0 0 (2 ^ 32), .standDkInject 512 0, .standDkInject 0 (2 ^ 64), .nop 512 0 {}, .nop 0 4 {}, .nop 0 0 { wt := 32 }, .clRing 512 0 0] : List Instr), c.wf = false := by decide
theorem test_illFormed_6 : ∀ c ∈ ([
    .clRing 0 4 0, .clRing 0 0 4096, .loop 512 0 false 0 0 0, .loop 0 4 false 0 0 0, .loop 0 0 false 16 0 0, .loop 0 0 false 0 (2 ^ 20) 0,
    .loop 0 0 false 0 0 (2 ^ 20), .loopEnd 512 0, .loopEnd 0 4, .arSet 512 0 0 0 0, .arSet 0 4 0 0 0, .arSet 0 0 (2 ^ 20) 0 0, .arSet 0 0 0 16 0,
    .arSet 0 0 0 0 (2 ^ 48), .arAddi 512 0 0 0 0 0, .arAddi 0 4 0 0 0 0, .arAddi 0 0 (2 ^ 20) 0 0 0, .arAddi 0 0 0 16 0 0, .arAddi 0 0 0 0 16 0,
    .arAddi 0 0 0 0 0 (2 ^ 48), .arAdd 512 0 0 0 0 0, .arAdd 0 4 0 0 0 0, .arAdd 0 0 (2 ^ 20) 0 0 0, .arAdd 0 0 0 16 0 0, .arAdd 0 0 0 0 16 0,
    .arAdd 0 0 0 0 0 16, .arShl 512 0 0 0 0 0, .arShl 0 4 0 0 0 0, .arShl 0 0 (2 ^ 20) 0 0 0, .arShl 0 0 0 16 0 0] : List Instr), c.wf = false := by decide
theorem test_illFormed_7 : ∀ c ∈ ([
    .arShl 0 0 0 0 16 0, .arShl 0 0 0 0 0 64, .arShr 512 0 0 0 0 0, .arShr 0 4 0 0 0 0, .arShr 0 0 (2 ^ 20) 0 0 0, .arShr 0 0 0 16 0 0,
    .arShr 0 0 0 0 16 0, .arShr 0 0 0 0 0 64, .arMuli 512 0 0 0 0 0, .arMuli 0 4 0 0 0 0, .arMuli 0 0 (2 ^ 20) 0 0 0, .arMuli 0 0 0 16 0 0,
    .arMuli 0 0 0 0 16 0, .arMuli 0 0 0 0 0 (2 ^ 32), .arBnd 512 0 0 0 0 false 0, .arBnd 0 4 0 0 0 false 0, .arBnd 0 0 (2 ^ 20) 0 0 false 0,
    .arBnd 0 0 0 16 0 false 0, .arBnd 0 0 0 0 16 false 0, .arBnd 0 0 0 0 0 false (2 ^ 48), .arConst 512 0 0 0 0, .arConst 0 4 0 0 0,
    .arConst 0 0 (2 ^ 20) 0 0, .arConst 0 0 0 16 0, .arConst 0 0 0 0 8, .fgPost 512 {} false 0 1 0, .fgPost 0 { wt := 32 } false 0 1 0,
    .fgPost 0 {} false 32 1 0, .fgPost 0 {} false 0 4097 0, .fgPost 0 {} false 0 0 0] : List Instr), c.wf = false := by decide
theorem test_illFormed_8 : ∀ c ∈ ([
    .fgPost 0 {} false 0 1 4096, .fgNotch 512 {} 0 0 0 0 0, .fgNotch 0 { wt := 32 } 0 0 0 0 0, .fgNotch 0 {} 4 0 0 0 0, .fgNotch 0 {} 0 65536 0 0 0,
    .fgNotch 0 {} 0 0 4096 0 0, .fgNotch 0 {} 0 0 0 4096 0, .fgNotch 0 {} 0 0 0 0 (2 ^ 32), .flitForward (.edge 4) 0 false,
    .flitForward .bridge 64 false, .flitArrival 512 false, .packetForward (.edge 4) 0, .packetForward .bridge 64, .token (.edge 4) false,
    .atomic 512 false, .atomReply 512 false, .nack (.edge 4) false, .flumeResend (.edge 4) 0, .flumeResend .bridge 64, .standFlInject 512 0,
    .standFlInject 0 (2 ^ 64), .frameReceive 12 0 {} 0 0 0, .frameReceive 0 (2 ^ 20) {} 0 0 0, .resendReq 12 0 0, .resendReq 0 65536 0,
    .resendReq 0 0 65536, .linkResend 12, .ringMark 12 0 0 0 false 0, .ringMark 0 (2 ^ 64) 0 0 false 0, .ringMark 0 0 65536 0 false 0] : List Instr), c.wf = false := by decide
theorem test_illFormed_9 : ∀ c ∈ ([
    .ringMark 0 0 0 512 false 0, .probe 12 0 0, .echo 12 0 0 0, .discover 12 {}, .twin 12 0 0, .twin 0 (2 ^ 64) 0, .twin 0 0 (2 ^ 64),
    .twinCompare 16, .laneLockLoss 12, .retrain 12 none, .retrain 0 (some 16), .down 12 none, .down 0 (some 16), .linkTrained 12 0 false,
    .linkTrained 0 (2 ^ 20) false, .aelMapData 16 0, .aelMapData 0 (2 ^ 64), .notchReply 512 false, .hostNotchSet 16 0 0, .hostNotchSet 0 65536 0,
    .hostNotchSet 0 0 (2 ^ 64), .hostNotchAdd 16 0 0, .hostNotchAdd 0 65536 0, .hostNotchAdd 0 0 (2 ^ 64), .hostNotchMode 16 0 0,
    .hostNotchMode 0 65536 0, .hostNotchMode 0 0 (2 ^ 64), .enable 16 0, .enable 0 65536, .disable 16 0] : List Instr), c.wf = false := by decide
theorem test_illFormed_10 : ∀ c ∈ ([
    .disable 0 65536, .resume 16 0, .resume 0 65536, .queueReset 16 0, .queueReset 0 65536, .qctxDoorbell 16 0, .qctxDoorbell 0 (2 ^ 64),
    .qctxData 16 0, .qctxData 0 (2 ^ 64), .request 65536, .wait 65536, .signal 65536, .bind 65536, .cancel 65536, .queueWaitRelease 65536,
    .waitExpired 65536, .requestFlit 40 false, .memReadEntry 12 0, .memReadEntry 32 0, .memReadEntry 0 2, .memWriteEntry 12 0, .memWriteEntry 32 0,
    .memWriteEntry 0 2, .selfRefreshEntry 12, .selfRefreshEntry 32, .create 16, .sealSet 16 0 [], .sealSet 0 256 [], .switch 16 0, .switch 0 256] : List Instr), c.wf = false := by decide
theorem test_illFormed_11 : ∀ c ∈ ([
    .drain 16 0, .drain 0 65536, .release 16 0 [], .release 0 256 [], .jobResume 16, .buckJobDoorbell 16 0, .buckJobDoorbell 0 (2 ^ 64),
    .convert 16 false, .copy 16, .adapter 16 false, .buckerJobComplete 16, .build 16, .ticketReadbackComplete 16, .stepRecord 16, .lndOutIdx 16 0,
    .lndOutIdx 0 (2 ^ 64), .lndOutBase 16 0, .lndOutBase 0 (2 ^ 64), .lndOutCfg 16 0, .lndOutCfg 0 (2 ^ 64), .lndOutWb 16 0, .lndOutWb 0 (2 ^ 64),
    .graderLoad 16, .graderUnload 16 0, .graderUnload 0 4096, .draft 16 [], .verify 16 [], .graderPhaseComplete 16, .signature 16, .tallySignCmd 16 0] : List Instr), c.wf = false := by decide
theorem test_illFormed_12 : ∀ c ∈ ([
    .tallySignCmd 0 (2 ^ 64), .tallyRingBase 16 0, .tallyRingBase 0 (2 ^ 64), .tallyRingCfg 16 0, .tallyRingCfg 0 (2 ^ 64), .tallyRingIdx 16 0,
    .tallyRingIdx 0 (2 ^ 64), .tallySignCfg 16 0, .tallySignCfg 0 (2 ^ 64), .tallyJrnBase 16 0, .tallyJrnBase 0 (2 ^ 64), .tallyJrnCfg 16 0,
    .tallyJrnCfg 0 (2 ^ 64), .tallyJrnIdx 16 0, .tallyJrnIdx 0 (2 ^ 64), .tallyEvtBase 16 0, .tallyEvtBase 0 (2 ^ 64), .tallyEvtCfg 16 0,
    .tallyEvtCfg 0 (2 ^ 64), .tallyEvtIdx 16 0, .tallyEvtIdx 0 (2 ^ 64), .tallyTwinCfg 16 0, .tallyTwinCfg 0 (2 ^ 64), .stretch 20, .updateBegin 256,
    .updateWrite 256 0 [], .updateWrite 0 (2 ^ 32) [], .updateCommit 256 [] none, .updateAbort 256, .getStatus 256] : List Instr), c.wf = false := by decide
theorem test_illFormed_13 : ∀ c ∈ ([
    .readReg 256 0 0 0, .readReg 0 256 0 0, .readReg 0 0 (2 ^ 32) 0, .readReg 0 0 0 256, .writeReg 256 0 0 0, .writeReg 0 256 0 0,
    .writeReg 0 0 (2 ^ 32) 0, .writeReg 0 0 0 (2 ^ 64), .readTally 256 0 0, .readTally 0 256 0, .readTally 0 0 256, .readLedger 256 0,
    .readLedger 0 65536, .readLog 256 0, .readLog 0 65536, .reset 256 {}, .resetFlush 256 {}, .setdasa 128 0, .setdasa 0 128, .entdaa 128,
    .getCertificate 8 0 0, .getCertificate 0 (2 ^ 32) 0, .getCertificate 0 0 65536, .getMeasurements 256 false [], .vendorDefinedRequest (some 16),
    .flr 16, .cxlMemAccess 16 0 false 0 [], .cxlMemAccess 0 0 false (2 ^ 64) [], .cxlMemAccess 0 0 false 0 (zeros 65), .msixUnmask 16 0] : List Instr), c.wf = false := by decide
theorem test_illFormed_14 : ∀ c ∈ ([
    .msixUnmask 0 2048, .shift 16 0 0, .shift 0 32 0, .shift 0 0 32, .start 16 false, .abandon 16, .registerWrite 16 0 0 0 [],
    .registerWrite 0 3 0 0 [], .registerWrite 0 0 (2 ^ 25) 0 [], .registerWrite 0 0 0 (2 ^ 64) [], .hostLinkUp 7 0, .hostLinkUp 0 0, .hostLinkUp 1 5,
    .controlBlockCheckFail 12, .promptStaged 65536] : List Instr), c.wf = false := by decide
theorem test_illFormed_header : ∀ h ∈ ([{ stamp := 2 ^ 20 }, { wt := 32 }, { wtn := 16 }, { wc := 16 }, { wcn := 8 }, { pt := 32 }, { pc := 16 }] : List Hdr),
    h.wf = false := by decide
theorem test_illFormed_edOp : ∀ o ∈ ([{ hdr := { wt := 32 } }, { d := 32 }, { a := 32 }, { b := 32 }, { c := 32 }, { fn := 4 }, { n := 0 }, { n := 2 ^ 20 + 1 }, { imm := 2 ^ 32 },
    { k := 0 }, { k := 1025 }] : List EdOp), o.wf = false := by decide
theorem test_illFormed_place : ∀ l ∈ ([.node 512, .stand 512, .edge 4, .ctrl 40, .aelel 12, .unit 43, .unit 53] : List Loc), l.wf = false := by decide

/-! Witnesses: for each statement with hypotheses, states and operands that meet them, clause by clause. -/

theorem onStand_other (f : Stand → Stand) {st : Nat} (h : st ≠ 0) : (onStand f).getStand st = {} := by
  simp [onStand, live, State.updStand, State.getStand, tupd, tput, tget, Ne.symm h]
theorem opNumbers_onStand (f : Stand → Stand)
    (h : let t := f { ctx := some 0 }
      (∀ o ∈ t.ops, o.id < t.nextOp) ∧ (∀ j ∈ t.jobs, j.id < t.nextOp) ∧ (∀ d ∈ t.drains, d.opId < t.nextOp) ∧ (t.jobs.map (·.id)).Nodup ∧
      ∀ d ∈ t.drains, ∀ j ∈ t.jobs, j.id = d.opId → j.kind = .drain) : OpNumbers (onStand f) := by
  intro st
  by_cases e : st = 0
  · subst e; exact h
  · rw [onStand_other f e]; decide

/-- The Headrig's words by R192 and R214: each spells its command at the head of its stream, and it goes. -/
theorem witness_HeadrigLoads : Goes (headed 0 (word 100 0 (0xFFF * 2 ^ 65 + 2 ^ 64 + 0xFFFFF)) live) 0 0 (.hrLoad 0 { stamp := 100 } 0xFFF 0xFFFFF 1 false 0) ∧
    Goes (headed 0 (word 0 0 (2 ^ 65 + 2 ^ 63 + 15 * 2 ^ 59) 3 1 2 7 31 15) (onStand fun t => { t with tok := [(3, { n := 2 })], cred := [(2, { n := 8 })] })) 0 0
      (.hrLoad 0 { wt := 3, wtn := 1, wc := 2, wcn := 7, pt := 31, pc := 15 } 1 0 0 true 15) := by
  unfold Goes; decide +kernel
theorem witness_HeadrigLoads_numbers : OpNumbers (headed 0 (word 100 0 (2 ^ 65)) live) := opNumbers_onStand _ (by decide +kernel)
/-- A job of HR_LOAD whose lines have been read from a Deck that holds 7 at offset 3. -/
def loaded (n : Nat) : Job :=
  { id := 0, stream := 0, kind := .load 1 1 0, acts := [], got := (List.range n).map fun k => (k, ofLe (memRead [(3, 7)] (512 * k) 512)) }
set_option maxRecDepth 100000 in
theorem witness_HeadrigLoads_read : let t : Stand := { mem := [(3, 7)], desc := [(1, [2 ^ 63 + 5 * 2 ^ 55 + 2 ^ 45, 0])] }
    tileLines (t.getDesc 1).fmt (t.getDesc 1).scaled (t.getDesc 1).chkForm = 20 ∧
    ∀ i, i < 20 → tget 0 (loaded 20).got (0 + i) = ofLe (memRead t.mem (512 * (0 + i)) 512) := by decide +kernel

theorem witness_HeadrigPasses : Goes (headed 0 (word 0 1 (2 * 2 ^ 65 + 2 ^ 64 + 31 * 2 ^ 54 + 2 ^ 48)) live) 0 0 (.hrMul 0 {} 2 1 32 0 true false 0) ∧
    (∀ b ∈ [0, 1], Goes (headed 0 (word 0 2 (3 * 2 ^ 65 + b * 2 ^ 64 + 31 * 2 ^ 49 + 2 ^ 63 + 2 ^ 59)) live) 0 0 (.hrAddx 0 {} 3 (b == 1) 1 31 false true 1)) := by
  unfold Goes; decide +kernel
theorem witness_HeadrigPasses_numbers : OpNumbers (headed 0 (word 0 1 (2 * 2 ^ 65)) live) ∧ OpNumbers (headed 0 (word 0 2 (2 * 2 ^ 65)) live) :=
  ⟨opNumbers_onStand _ (by decide +kernel), opNumbers_onStand _ (by decide +kernel)⟩
theorem witness_HeadrigPasses_rows : (({} : Stand).row 31).cols.length = 64 := by simp [Stand.row, Stand.rowVersions, tfind?, freeRow]

theorem witness_HeadrigDrains : Goes (headed 0 (word 0 3 (3 * 2 ^ 65 + 31 * 2 ^ 54 + 9 * 2 ^ 43 + 2 ^ 42 + 0x80 * 2 ^ 34 + 2 ^ 33 + 7)) live) 0 0
    (.hrDrain 0 {} 3 32 0 9 true (-128) true 7 false 0) := by unfold Goes; decide +kernel
theorem witness_HeadrigDrains_numbers : OpNumbers (headed 0 (word 0 3 (3 * 2 ^ 65)) live) := opNumbers_onStand _ (by decide +kernel)

/-- A row of 64 columns, each 7, and a check accumulator. -/
def sevens (chk : Int) : AccRow := { cols := List.replicate 64 7, flags := List.replicate 64 0, chk := chk, chkFlags := 0 }
/-- Stand 0 with a drain of two rows at work, its first row read and at its comparison. -/
def draining (chk : Int) (mask : Nat) : State := onStand fun t =>
  { t with
    desc := [(3, [2 ^ 63 + 9 * 2 ^ 55 + 2 ^ 48, 102400, 128 * 2 ^ 40, 2 ^ 40, 2 ^ 40, 2 ^ 40, 2 ^ 40, 0])], nextOp := 1
    drains := [{ opId := 0, handle := 3, aoff := 0, rows := 2, r0 := 0, fmt := 9, sat := false, adj := 0, push := false, tag := 7, ds := 94, reads := [(sevens chk, chk)], mask := mask }]
    jobs := [{ id := 0, stream := 0, kind := .drain, acts := [(101, .stage 1)] }] }
theorem witness_HeadrigDrains_check : live.drainDue 0 = none ∧
    (∀ c ∈ [(448 : Int), 449], ∀ m ∈ [0, 2], ((draining c m).drainDue 0).isSome = true ∧ ((draining c m).getStand 0).hrRec.valid = false ∧
      (((draining c m).drainDue 0).any fun x => decide (x.2.1.cols.foldl (· + ·) 0 = x.2.2)) = (c == 448)) := by decide +kernel
theorem witness_HeadrigDrains_checkNumbers : OpNumbers (draining 448 0) := opNumbers_onStand _ (by decide +kernel)
theorem witness_HeadrigDrains_read : let t := (draining 448 0).getStand 0
    t.drains.find? (·.opId == 0) ≠ none ∧ t.hrInject.arm = false ∧ (t.jobs.map fun j => (j.stream, j.kind)) = [(0, .drain)] := by decide +kernel

theorem witness_EdgerSlots : Goes (headed 1 (word 0 0 (31 * 2 ^ 72 + 4 * 2 ^ 60 + 2 ^ 58)) live) 0 1 (.edOpen 0 {} 31 4 false true false 0) ∧
    Goes (headed 1 (word 0 1 (31 * 2 ^ 72)) live) 0 1 (.edClose 0 {} 31) ∧
    Goes (headed 1 (word 0 2 (6 * 2 ^ 72)) (onStand fun t => { t with ftq := [{ tag := 1, handle := 3, aoff := 0, r0 := 0, rows := 2, fmt := 0, suspect := false, cycle := 100 }] })) 0 1
      (.edTake 0 {} 6) := by unfold Goes; decide +kernel
theorem witness_EdgerSlots_numbers : OpNumbers (headed 1 (word 0 0 0) live) := opNumbers_onStand _ (by decide +kernel)
theorem witness_EdgerSlots_resident : residentLine (Desc.ofWords [2 ^ 63 + 2 ^ 48, 512, 128 * 2 ^ 40, 2 ^ 40, 2 ^ 40, 2 ^ 40, 2 ^ 40, 0]) 0 false true = some 1 ∧
    residentLine (Desc.ofWords [2 ^ 63 + 2 ^ 48, 512, 129 * 2 ^ 40, 2 ^ 40, 2 ^ 40, 2 ^ 40, 2 ^ 40, 0]) 0 false true = none := by decide +kernel

/-- Opcodes of the compute operations (R210), in the order of `edgerOps`. -/
def edCodes : List Nat := [8, 9, 10, 11, 12, 13, 14, 15, 16, 17, 18, 19, 20, 21, 24, 25, 26, 27, 28, 29, 30]
def edAny : EdOp := { d := 3, a := 0, b := 1, c := 2, n := 32, imm := 32 }
theorem witness_EdgerComputes : ∀ p ∈ edCodes.zip edgerOps,
    let o := if p.2.1 = .topkf then { edAny with b := 0, c := 0, k := 35 } else edAny
    Goes (headed 1 (word 0 p.1 (3 * 2 ^ 72 + 2 ^ 62 + 2 * 2 ^ 57 + 31 * 2 ^ 32 + 32)) live) 0 1 (p.2.2 0 o) := by
  unfold Goes; decide +kernel
theorem witness_EdgerComputes_numbers : OpNumbers (headed 1 (word 0 8 0) live) := opNumbers_onStand _ (by decide +kernel)
theorem witness_EdgerComputes_lines : let t : Stand := { desc := [(1, [2 ^ 63 + 2 ^ 48, 512, 129 * 2 ^ 40, 2 ^ 40, 2 ^ 40, 2 ^ 40, 2 ^ 40, 0])], slots := [(0, { isOpen := true, handle := 1 })] }
    1 < (t.edLines .cvt { n := 129 }).1.length := by decide +kernel
theorem witness_EdgerComputes_stage : let j : Job := { id := 0, stream := 1, kind := .compute .cvt {} {} {} {} {} 101, acts := [] }
    let s := onStand fun t => { t with jobs := [j], nextOp := 1 }
    (s.getStand 0).getJob j.id = some j ∧ ({} : EdOp).bad = none ∧ (s.getStand 0).edInject.arm = false := by decide +kernel

theorem witness_SkidderMoves : ∀ x ∈ ([(0, 2 ^ 65 + 2 * 2 ^ 53 + 31 * 2 ^ 38 + 3 * 2 ^ 36, .skMove 0 {} 1 2 false 0 false 0 31 3),
      (1, 3 * 2 ^ 75 + 2 ^ 63 + 2 * 2 ^ 51 + 3 * 2 ^ 39 + (2 ^ 32 - 1), .skAtom 0 {} 3 1 2 3 false 0 (2 ^ 32 - 1)), (4, 12287 * 2 ^ 32 + 1, .skScrub 0 {} 12287 1),
      (5, 2 ^ 65 + 2 * 2 ^ 53 + 3 * 2 ^ 41 + 5, .skBin 0 {} 1 2 3 5)] : List (Nat × Nat × Instr)),
    Goes (headed 2 (word 0 x.1 x.2.1) live) 0 2 x.2.2 := by unfold Goes; decide +kernel
/-- Stand 0 with a job of the Skidder. -/
def skJob (k : JobKind) : State := onStand fun t =>
  { t with own := [(31, 3)], pwr := [(31, 2)], nextOp := 1, jobs := [{ id := 0, stream := 2, kind := k, acts := [] }] }
theorem witness_SkidderMoves_jobs : ∀ k ∈ [JobKind.move ⟨1, 2, 0, 0, 0, 0⟩ true [(1, 0, [(512, some 3), (513, none)]), (2, 1, [(1024, some 4)])] 1, .scrub 12287 1 [], .bin 1 2 3 5],
    ((skJob k).getStand 0).getJob 0 = some { id := 0, stream := 2, kind := k, acts := [] } := by decide +kernel
theorem witness_SkidderMoves_readable : Readable (skJob (.scrub 12287 1 [])) 0 portSK [12287] := ⟨⟨rfl, rfl, rfl⟩, by decide⟩
theorem witness_SkidderMoves_bytes : ∀ x ∈ ([(1, 0, [(512, some 3), (513, none)]), (2, 1, [(1024, some 4)])] : List (Int × Nat × List MByte)),
    (x.2.2.map (·.1)).Nodup ∧ ∀ b ∈ x.2.2, b.1 / 512 = x.1 := by decide

theorem witness_SkidderBanks : let w := fun op => word 0 op (2 ^ 32 + 0x80000001)
    let s := fun op p => headed 2 (w op) (onStand fun t => { t with quiet := [(0, 100)], pwr := [(0, p)] })
    Goes (s 2 2) 0 2 (.skOwn 0 {} 1 0x80000001) ∧ Goes (s 3 2) 0 2 (.skPwr 0 {} 1 0x80000001) ∧ ¬Goes (s 3 3) 0 2 (.skPwr 0 {} 1 0x80000001) := by
  unfold Goes; decide +kernel
theorem witness_SkidderBanks_done : let s := fun n => onStand fun t => { t with pwr := [(31, 3)], pwrTo := [(31, (0, n))] }
    ((s 100).getStand 0).power 31 = 3 ∧ tfind? ((s 100).getStand 0).pwrTo 31 = some (0, 100) ∧ 100 ≤ live.standNow 0 ∧
    tfind? ((s 101).getStand 0).pwrTo 31 = some (0, 101) ∧ live.standNow 0 < 101 ∧ (live.getStand 0).power 0 ≠ 3 := by decide

theorem witness_GateIssues : Goes (headed 2 (word 100 0x30 0) live) 0 2 (.nop 0 2 { stamp := 100 }) ∧
    Goes (headed 3 (word 0 0 (2 ^ 76 + 15 * 2 ^ 71 + 4095 * 2 ^ 59 + 9 * 2 ^ 47)) live) 0 3 (.fgPost 0 {} true 15 4096 9) ∧
    (∀ op < 4, Goes (headed 3 (word 0 1 (op * 2 ^ 75 + 7 * 2 ^ 59 + 9 * 2 ^ 47 + 65)) (onStand fun t => { t with waits := 15 })) 0 3 (.fgNotch 0 {} op 7 9 0 65)) ∧
    bit (live.routeOf 0 9) 127 = false ∧ live.nextDone 0 1 = none ∧
    (onStand fun t => { t with ops := [{ id := 4, stream := 1, due := 100, pt := 0, pc := 0, suspect := false, kind := .plain }] }).nextDone 0 1 ≠ none := by
  unfold Goes; decide +kernel

/-- The address operations' words by R213. -/
theorem witness_AddressOps : ∀ x ∈ ([(0x34, 4 * 2 ^ 73 + 5, .arSet 0 3 100 4 5), (0x35, 4 * 2 ^ 73 + 2 * 2 ^ 69 + (2 ^ 48 - 1), .arAddi 0 3 100 4 2 (2 ^ 48 - 1)),
      (0x36, 4 * 2 ^ 73 + 2 * 2 ^ 69 + 3 * 2 ^ 65, .arAdd 0 3 100 4 2 3), (0x37, 4 * 2 ^ 73 + 2 * 2 ^ 69 + 63, .arShl 0 3 100 4 2 63), (0x38, 4 * 2 ^ 73 + 2 * 2 ^ 69 + 63, .arShr 0 3 100 4 2 63),
      (0x39, 4 * 2 ^ 73 + 2 * 2 ^ 69 + 9, .arMuli 0 3 100 4 2 9), (0x3A, 4 * 2 ^ 73 + 2 * 2 ^ 69 + 2 ^ 64 + 9, .arBnd 0 3 100 4 2 true 9), (0x3B, 4 * 2 ^ 73 + 7, .arConst 0 3 100 4 7)] : List (Nat × Nat × Instr)),
    Goes (headed 3 (word 100 x.1 x.2.1) live) 0 3 x.2.2 := by unfold Goes; decide +kernel
theorem witness_PlanConstants : ∀ n < 8, Goes (headed 3 (word 0 0x3B (4 * 2 ^ 73 + n)) live) 0 3 (.arConst 0 3 0 4 n) := by unfold Goes; decide +kernel

theorem witness_SectionsAndLoops : let s := fun w ls => (headed 2 w live).updStand 0 fun t => t.updStream 2 fun q => { q with loops := ls }
    let q := fun w ls => ((s w ls).getStand 0).getStream 2
    (∀ r ∈ [1, 4095], (headed 2 (word 0 0x31 r) live).streamLive 0 2 = true ∧ (headed 2 (word 0 0x31 r) live).isHead 0 2 (.clRing 0 2 r) = true) ∧
    (∀ x ∈ [(0, 0, 0), (1, 3, 5), (1, 15, 1)], (headed 2 (word 0 0x32 (x.1 * 2 ^ 76 + x.2.1 * 2 ^ 72 + x.2.2 * 2 ^ 52 + 64 * 2 ^ 32)) live).isHead 0 2 (.loop 0 2 (x.1 == 1) x.2.1 x.2.2 64) = true) ∧
    (live.getCtx 0).stands * 1 / 2 ^ 15 = 0 ∧ 0 < (live.getCtx 0).stands * 5 / 2 ^ 3 ∧
    (∀ n ∈ [1, 2], (q (word 0 0x33 0) [⟨4, 2, n, 64⟩]).loops = [⟨4, 2, n, 64⟩] ∧ (s (word 0 0x33 0) [⟨4, 2, n, 64⟩]).isHead 0 2 (.loopEnd 0 2) = true) := by decide +kernel
/-- A LOOP of no trips with a body of one NOP. -/
theorem witness_SectionsAndLoops_skip : let s := live.updStand 0 (withCut 2 [word 0 0x32 0, word 0 0x30 0, word 0 0x33 0])
    s.isHead 0 2 (.loop 0 2 false 0 0 0) = true ∧ (s.getStand 0).opcodeAt 129 = 0x30 ∧ (s.getStand 0).opcodeAt 130 = 0x33 := by decide +kernel

theorem witness_IssueConditions : issueNeeds (.nop 0 2 { stamp := 100 }) = some ({ stamp := 100 }, none, false) ∧
    (headed 2 (word 100 0x30 0) live).holdOf 0 2 (.nop 0 2 { stamp := 100 }) = .go ∧ (headed 2 (word 101 0x30 0) live).holdOf 0 2 (.nop 0 2 { stamp := 101 }) = .stamp := by
  decide +kernel
theorem witness_HeldChangesNothing : let s := fun w => headed 2 w live
    cutOf (.nop 0 2 {}) = some (0, 2) ∧ (s (word 1 0x30 0)).isHead 0 2 (.nop 0 2 {}) = false ∧
    (s (word 101 0x30 0)).holdOf 0 2 (.nop 0 2 { stamp := 101 }) ≠ .go ∧ State.reset.streamLive 0 2 = false ∧ (s 0).streamLive 0 2 = true ∧
    ((s 0).getStand 0 |>.getStream 2).filled = true ∧ issueNeeds (.nop 0 2 {}) ≠ none := by decide +kernel

theorem witness_InjectionRegisters : live.debugOn 0 = false ∧ (live.updCtx 0 fun c => { c with debug := true }).debugOn 0 = true ∧
    fld (639 * 2 ^ 32) 41 32 < 640 ∧ 640 ≤ fld (640 * 2 ^ 32) 41 32 ∧ fld (383 * 2 ^ 32) 40 32 < 384 ∧ 384 ≤ fld (384 * 2 ^ 32) 40 32 := by decide

/-- A flit with the check value of its content. -/
def sealF (f : Flit) : Flit := { f with crc := f.check }
theorem sealF_intact (f : Flit) (h : f.bad = false) : (sealF f).intact = true := by
  have : (sealF f).check = f.check := rfl
  unfold Flit.intact
  rw [this]
  simp [sealF, h]
def sealP (p : Packet) : Packet := { p with crc := p.check }
/-- A flit that waits at stand node 0 on its east input, and the slot entry of cycle 100 that sends it south on circuit 3. -/
def aFlit : Flit := { loc := .node 0, inPort := 1, ready := 0, due := 100, ckt := 3, be := 1, payload := 7 :: List.replicate 511 0, srcEnd := .node 5 }
def flitWaits (kind : Nat) (f : Flit) : State :=
  { live with net := { flits := [f], node := [(0, { slots := [(100, (kind * 2 ^ 22 + 1 * 2 ^ 19 + 3) * 2 ^ 48)] })] } }

theorem witness_FlitForwarded : live.entryNow (.node 0) 2 = (live.conns (.node 0) 100, 100) ∧
    ((live.conns (.node 0) 100).find? fun c => c.out == 2 && (c.kind == 1 || (c.kind == 3 && !freshAt (.node 0) c.inp))) = none := by decide +kernel
theorem witness_FlitForwarded_taken : let s := flitWaits 1 aFlit
    let c : Conn := ⟨1, 1, 2, false, 3⟩
    s.entryNow (.node 0) 2 = (s.conns (.node 0) 100, 100) ∧
    ((s.conns (.node 0) 100).find? fun c => c.out == 2 && (c.kind == 1 || (c.kind == 3 && !freshAt (.node 0) c.inp))) = some c ∧
    (s.net.flits.find? fun f => f.fits s (.node 0) c && f.resent == (c.kind == 3)) = some aFlit ∧ aFlit.inPort < 4 ∧
    ((s.conns (.node 0) 100).filter fun y => y.kind == c.kind && y.inp == c.inp && y.ckt == c.ckt) = [c] ∧
    nextHop (.node 0) 2 100 = some (.node 32, 0, 1, false) ∧ (∃ y, nextHop (.node 31) 1 100 = y) ∧ s.fifoCount (.node 32) 0 < 4 := by
  refine ⟨by decide +kernel, by decide +kernel, by decide +kernel, by decide +kernel, by decide +kernel, by decide +kernel, ⟨_, rfl⟩, by decide +kernel⟩
theorem witness_FlitForwarded_noFlit : let s := flitWaits 1 { aFlit with ckt := 4 }
    (s.net.flits.find? fun f => f.fits s (.node 0) ⟨1, 1, 2, false, 3⟩ && f.resent == false) = none := by decide +kernel

/-- A flit at output L of stand 0, from domain `d`. -/
def arriving (d : Nat) : State := { live with net := { flits := [sealF { aFlit with loc := .stand 0, dom := d }] } }
theorem witness_FlitArrives : (live.net.flits.find? fun f => f.loc == .stand 0) = none ∧ (arriving 0).flInjects (.stand 0) false 3 = false ∧
    ((arriving 0).net.flits.find? fun f => f.loc == .stand 0) = some (sealF { aFlit with loc := .stand 0 }) ∧ aFlit.resent = false ∧ aFlit.op = none ∧ ((arriving 0).getNode (.stand 0)).tracks = [] ∧
    (((arriving 0).updStand 0 fun t => { t with own := [(0, 3)], pwr := [(0, 2)] }).getStand 0).refusal portSK ((aFlit.doff * 512 : Nat) : Int) 100 true false = none ∧
    ((arriving 0).getStand 0).refusal portSK ((aFlit.doff * 512 : Nat) : Int) 100 true false ≠ none := by
  refine ⟨by decide +kernel, by decide +kernel, rfl, rfl, rfl, by decide +kernel, by decide +kernel, by decide +kernel⟩
theorem witness_FlitArrives_intact : (sealF { aFlit with loc := .stand 0 }).intact = true := sealF_intact _ rfl

/-- A packet with a payload at an end point. -/
def packetAt (l : Loc) (d : Nat) (p : Payload) : Packet := sealP { loc := l, inPort := 4, ready := 0, srcEnd := .node 1, dom := d, payload := p, ret := [[3], [4]] }
def withPacket (p : Packet) : State := { live with net := { pkts := [p] } }
def aToken : Packet := packetAt (.stand 0) 0 (.token false 31 4096 true)
def aCredit : Packet := packetAt (.stand 0) 0 (.token true 15 1 false)
def anAtomic : Packet := packetAt (.stand 0) 0 (.atomic 0 8 5 { st := 1, op := 2, ret := none })
def aReply : Packet := packetAt (.stand 0) 0 (.atomReply 5 true { st := 0, op := 2, ret := some (24, 4), width := 4 })
def aNotchReply : Packet := packetAt (.stand 0) 0 (.notchReply 5 0 2 0 7 { st := 0, op := 2, ret := some (24, 4) })
def isToken : Payload → Bool := fun | .token .. => true | _ => false
def isAtomic : Payload → Bool := fun | .atomic .. => true | _ => false
def isReply : Payload → Bool := fun | .atomReply .. => true | _ => false
def isNotchReply : Payload → Bool := fun | .notchReply .. => true | _ => false

theorem witness_FenceDrops : ((arriving 1).getStand 0).ctx = some 0 ∧ ((arriving 1).net.flits.map fun f => (f.loc, f.dom)) = [(.stand 0, 1)] := by decide +kernel
theorem witness_FenceDrops_packets : ∀ x ∈ [(aToken, isToken), (anAtomic, isAtomic), (aReply, isReply), (aNotchReply, isNotchReply)],
    FirstAt (withPacket { x.1 with dom := 15 }) (.stand 0) x.2 { x.1 with dom := 15 } ∧ ((withPacket { x.1 with dom := 15 }).getStand 0).ctx = some 0 := by
  unfold FirstAt; decide +kernel
theorem witness_PacketForwarded : let p := { aToken with loc := .node 0, route := [] }
    ((withPacket p).net.pkts.filter fun p => p.loc == .node 0 && decide (p.ready ≤ (withPacket p).time) && p.next.isNone) = [p] ∧
    (((withPacket p).conns (.node 0) ((withPacket p).locNow (.node 0))).find? fun c => c.out == 0 && c.kind == 2) = none := by decide +kernel
theorem witness_PacketForwarded_goes : let p := { aToken with loc := .node 0, inPort := 0, route := [1, 2, 4] }
    let s := { withPacket p with net := { pkts := [p], node := [(0, { slots := [(100, (2 * 2 ^ 22) * 2 ^ 24)] })] } }
    (s.net.pkts.filter fun p => p.loc == .node 0 && decide (p.ready ≤ s.time) && p.next.isNone) = [] ∧
    ((s.conns (.node 0) (s.locNow (.node 0))).find? fun c => c.out == 1 && c.kind == 2).bind (s.pickPacket (.node 0)) = some p ∧
    nextHop (.node 0) 1 100 = some (.node 1, 3, 1, false) ∧ p.next.map (·.1) = some 1 ∧ s.pktRoom (.node 1) 3 p.reply = true ∧
    (s.getCmp (standCmp 0)).keptNow = true ∧ ((s.conns (.node 0) (s.locNow (.node 0))).find? fun c => c.out == 0 && c.kind == 2) = none := by decide +kernel

theorem givenOut_witness (l : Loc) (w : Payload → Bool) (p : Packet)
    (h : FirstAt (withPacket p) l w p ∧ p.intact = true ∧ (withPacket p).flInjects l true 0 = false ∧ ((withPacket p).getNode l).holds p = false ∧ ((withPacket p).getNode l).behind p = false)
    (hs : l = .stand 0 → p.dom = 0) (hl : ∀ st, l = .stand st → st = 0) : GivenOut (withPacket p) l w p :=
  ⟨h.1, h.2.1, h.2.2.1, h.2.2.2.1, h.2.2.2.2, fun st e => by
    have := hl st e
    subst this
    rw [hs e]
    rfl⟩
theorem witness_TokenPosts : GivenOut (withPacket aToken) (.stand 0) (fun | .token .. => true | _ => false) aToken ∧
    GivenOut (withPacket aCredit) (.stand 0) (fun | .token .. => true | _ => false) aCredit :=
  ⟨givenOut_witness _ _ _ (by unfold FirstAt; decide +kernel) (fun _ => by decide) (fun st e => by injection e with e; exact e.symm),
   givenOut_witness _ _ _ (by unfold FirstAt; decide +kernel) (fun _ => by decide) (fun st e => by injection e with e; exact e.symm)⟩
def grToken : Packet := packetAt (.unit 46) 0 (.token false 16 1 false)
theorem witness_TokenPosts_grader : GivenOut (withPacket grToken) (.unit 46) (fun | .token .. => true | _ => false) grToken :=
  givenOut_witness _ _ _ (by unfold FirstAt; decide +kernel) (fun e => nomatch e) (fun _ e => nomatch e)
theorem witness_PostSaturates : let s := onStand fun t => { t with tok := [(1, { n := 0xFFFF, posts := [⟨81920, 1, false⟩] })], cred := [(15, { n := 0xFFFF, posts := [⟨81920, 1, false⟩] })] }
    (s.getStand 0).ctx = some 0 ∧ 81920 ≤ s.time ∧ 0xFFFF < 0xFFFF + 1 := by decide

theorem witness_RepliesAndAtomics : GivenOut (withPacket anAtomic) (.stand 0) (fun | .atomic .. => true | _ => false) anAtomic ∧
    GivenOut (withPacket aReply) (.stand 0) (fun | .atomReply .. => true | _ => false) aReply ∧
    GivenOut (withPacket aNotchReply) (.stand 0) (fun | .notchReply .. => true | _ => false) aNotchReply :=
  ⟨givenOut_witness _ _ _ (by unfold FirstAt; decide +kernel) (fun _ => by decide) (fun st e => by injection e with e; exact e.symm),
   givenOut_witness _ _ _ (by unfold FirstAt; decide +kernel) (fun _ => by decide) (fun st e => by injection e with e; exact e.symm),
   givenOut_witness _ _ _ (by unfold FirstAt; decide +kernel) (fun _ => by decide) (fun st e => by injection e with e; exact e.symm)⟩
theorem witness_RepliesAndAtomics_lands : let t := (onStand fun t => { t with own := [(0, 3)], pwr := [(0, 2)] }).getStand 0
    t.refusal portSK 8 100 true true = none ∧ t.refusal portSK 24 100 true false = none ∧ t.flip = [] ∧ t.bad = [] ∧ t.dkInject.arm = false ∧ (8 : Int) % 8 = 0 ∧
    replyCause 2 1 0 ≠ 0 ∧ live.running 0 = some 0 := by decide +kernel

/-- A NACK at stand 0 for a flit of circuit 3, with resend entries in cycles 16,383 and 100. -/
def aNack : Packet := packetAt (.stand 0) 0 (.nack false 3 [] 0 0)
def nacked (log : List LogEnt) (resends : List (LogEnt × Bool)) : State :=
  let s := withPacket aNack
  { s with net := { s.net with node := [(0, { log := log, resends := resends, slots := [(4095, (3 * 2 ^ 22 + 4 * 2 ^ 19 + 3) * 2 ^ 24), (100, (3 * 2 ^ 22 + 4 * 2 ^ 19 + 3) * 2 ^ 24)] })] } }

theorem witness_NackAndResend : GivenOut (withPacket aNack) (.stand 0) (fun | .nack .. => true | _ => false) aNack :=
  givenOut_witness _ _ _ (by unfold FirstAt; decide +kernel) (fun _ => by decide) (fun st e => by injection e with e; exact e.symm)
/-- An item of the log: a flit of circuit 3 of transfer 1 that an index tensor made, so that nothing is read again. -/
def anItem : LogEnt := ⟨81910, .flit aFlit, 1⟩
theorem witness_NackAndResend_log : let s := { nacked [anItem] [(anItem, true), (anItem, true), (anItem, true)] with
      ring := { lenLog2 := 14, cycle := 16382 }, ctx := [(0, { state := .running, resendW := 0 })], cmp := [(0, { on := true, loc := 16382 })] }
    ((nacked [] []).getNode (.stand 0)).log.reverse.find? (·.named false 3 [] 0 0) = none ∧
    (s.getNode (.stand 0)).log.reverse.find? (·.named false 3 [] 0 0) = some anItem ∧ s.time ≤ anItem.time + (s.getCtx 0).resendW ∧
    s.resendEntryLeft (.stand 0) anItem.item = true ∧ ((s.getNode (.stand 0)).resends.filter fun r => r.1.xfer == anItem.xfer && !r.1.item.isPkt).length < 4 ∧
    anItem.item.rereads = false ∧ (nacked [] []).time = 82020 ∧ 81910 + ((nacked [] []).getCtx 0).resendW < 82020 := by decide +kernel
theorem witness_NackAndResend_flit : let s := nacked [] [(anItem, true)]
    let c : Conn := ⟨3, 4, 1, false, 3⟩
    ((s.conns (.node 0) (s.locNow (.node 0))).find? fun c => c.out == 1 && c.kind == 3 && c.inp == 4) = some c ∧
    (s.getNode (.node 0)).resends.find? (fun r => r.2 && resendFor (.node 0) 4 r.1.item c) = some (anItem, true) ∧ (s.getCmp (standCmp 0)).keptNow = true ∧
    ((s.conns (.node 0) (s.locNow (.node 0))).filter fun x => x.kind == 3 && x.inp == c.inp && x.ckt == c.ckt) = [c] ∧
    nextHop (.node 0) 1 100 = some (.node 1, 3, 1, false) := by decide +kernel
theorem witness_NackAndResend_pkt : let p := { aToken with loc := .node 0, route := [1, 4] }
    let e : LogEnt := ⟨90, .pkt p, 0⟩
    let s := { live with net := { node := [(0, { resends := [(e, true)], slots := [(100, (3 * 2 ^ 22 + 4 * 2 ^ 19) * 2 ^ 24)] })] } }
    let c : Conn := ⟨3, 4, 1, false, 0⟩
    ((s.conns (.node 0) (s.locNow (.node 0))).find? fun c => c.out == 1 && c.kind == 3 && c.inp == 4) = some c ∧
    (s.getNode (.node 0)).resends.find? (fun r => r.2 && resendFor (.node 0) 4 r.1.item c) = some (e, true) ∧
    (({ p with loc := .node 0, inPort := 4 } : Packet).next.map (·.1)) = some 1 ∧ s.pktRoom (.node 1) 3 p.reply = true := by decide +kernel

/-- The live device with port 0 up, and with fields of its ports' state as given. -/
def linked : State := { live with ael := { known := true, ports := [(0, { state := 2, mode := 1 })] } }
def onPort (f : AelPort → AelPort) : State := linked.updAel 0 f
/-- A frame with its check value. -/
def sealFr (f : Frame) : Frame := { f with fchk := f.check }

theorem witness_FramesReceived : (linked.getAel 0).state = 2 ∧ (linked.getAel 0).later { lseq := 5 } = true ∧
    ((onPort fun a => { a with lseqRx := some 5 }).getAel 0).later { lseq := 5 } = false ∧
    ((onPort fun a => { a with lseqRx := some 5 }).getAel 0).later { lseq := 32772 } = true ∧
    ((onPort fun a => { a with lseqRx := some 5 }).getAel 0).later { lseq := 32773 } = false ∧
    linked.frameDom 0 { tag := 9, ftype := 2, pkts := [aToken] } = some 0 ∧ (linked.frameDom 0 { tag := 9, ftype := 1, half := 0 }).isSome = true ∧
    linked.frameDom 0 { tag := 8, ftype := 3 } = none ∧ (linked.getAel 0).badWords + 16 ≤ 16 ∧
    ((onPort fun a => { a with half := some { ftype := 1, ckt := 3 } }).getAel 0).half = some { ftype := 1, ckt := 3 } := by decide +kernel
theorem sealFr_check (f : Frame) : (sealFr f).fchk = (sealFr f).check := by
  obtain ⟨⟩ := f
  simp only [sealFr, Frame.check, Frame.header]
theorem witness_FramesReceived_check : (sealFr { tag := 9, ftype := 2 }).fchk = (sealFr { tag := 9, ftype := 2 }).check ∧
    (sealFr { tag := 9, ftype := 1, half := 1, ckt := 3 }).fchk = (sealFr { tag := 9, ftype := 1, half := 1, ckt := 3 }).check :=
  ⟨sealFr_check _, sealFr_check _⟩
theorem witness_FramesReceived_failed (f : Frame) : let g : Frame := { f with fchk := f.check + 1 }
    g.fchk ≠ g.check := by
  obtain ⟨⟩ := f
  simp only [Frame.check, Frame.header]
  exact Nat.succ_ne_self _
theorem witness_LinkResends : let s := { onPort (fun a => { a with replay := [{ lseq := 65535 }, { lseq := 0 }], pend := [{ ftype := 2 }] }) with
        ring := { lenLog2 := 14, cycle := 16383 }, cmp := (List.range 20).map fun k => (k, { loc := 16383 })
        net := { bridge := [(4095, (3 * 2 ^ 30 + 32 * 2 ^ 18))] } }
    (s.getAel 0).state = 2 ∧ (((List.range 2).map fun i => (65535 + i) % 65536).all fun n => (s.getAel 0).replay.any fun f => f.lseq == n) = true ∧
    s.linkSlotLeft 0 = true ∧ (s.getAel 0).pend = [{ ftype := 2 }] ∧
    ((s.conns .bridge (s.locNow .bridge)).any fun c => c.kind == 3 && c.out == 32 + 0 && c.ckt == 0) = true := by decide +kernel
theorem witness_LinkResends_gone : linked.aelDom 0 = some 0 ∧ (((List.range 1).map fun i => (7 + i) % 65536).all fun n => (linked.getAel 0).replay.any fun f => f.lseq == n) = false := by
  decide
theorem witness_LinkResends_pair : let f : Frame := { ftype := 1, ckt := 3, seq := 4 }
    ((onPort fun a => { a with pend := [f, { f with half := 1 }] }).getAel 0).pend = [f, { f with half := 1 }] ∧ f.ftype ≠ 2 := by decide

/-- The live device that has not yet ring time, or holds it, its parent on port 0. -/
def marked (seeded : Bool) : State := { linked with ael := { linked.ael with seeded := seeded } }
theorem witness_RingMarks : ((marked false).getAel 0).state = 2 ∧ (marked false).ael.isGm = false ∧ (Marked (marked false) 0 5 0 0 true 6912).bestParent = some 0 ∧
    (marked false).ael.acqN < 128 ∧ (Marked (marked true) 0 5 0 0 true 7393).bestParent = some 0 ∧ (marked true).ring.locked = true ∧
    (marked true).ael.seeded = true ∧ 480 < (markError (marked true) 0 5 7393).natAbs ∧ ({ marked true with ael := { (marked true).ael with isGm := true } }).ael.isGm = true := by decide
theorem witness_RingMarks_contexts : ({ marked true with ctx := [(0, { state := .armed })] }.getCtx 0).state = .armed ∧
    ((marked true).getCtx 0).state ∈ [PState.running, .stopping] ∧ (((marked true).getCtx 0).halt.any fun h => decide (h.ring ≤ (marked true).ring.count + 1)) = false ∧
    ((marked true).getCtx 15).state ∈ [PState.none, .loaded, .halted] := by decide
theorem witness_ControlBlocks : let s := { linked with ael := { linked.ael with known := false } }
    (s.getAel 0).state = 2 ∧ (7680 - 0 - 0) / 2 ≤ 3840 ∧ s.ael.known = false ∧ (s.getAel 0).mode = 1 ∧ s.ael.nx = 0 ∧ s.ael.gm = 0 ∧ s.ring.lenLog2 = 14 ∧
    inRange (s.getDom 0).lids 7 = true ∧ inRange (s.getDom 0).lids 8 = false ∧ (live.updCtx 0 fun c => { c with state := .loaded }).seen 0 = true ∧
    ((live.updCtx 0 fun c => { c with state := .loaded }).getCtx 0).engaged = false ∧ (live.getCtx 0).engaged = true ∧ (live.getTally 0).epoch < 0xFFFFFFFF := by decide
theorem witness_PortsAndReference : linked.sec.stage ≠ 8 ∧ (linked.getAel 0).state ≠ 0 ∧ ((onPort fun a => { a with state := 1 }).getAel 0).state = 1 ∧
    linked.ael.recov ≠ some 0 ∧ linked.aelDom 11 = some 0 ∧ (linked.getCtx 0).engaged = true ∧ (linked.getAel 0).mode ≠ 0 ∧ linked.ready = true ∧
    ({ linked with ctx := [] }.getCtx 0).engaged = false ∧ ({ linked.ael with refDrives := true }).refDrives = true ∧ linked.ael.recovery = [] ∧
    linked.ael.parent = none ∧ linked.ael.refDrives = false ∧ (linked.getCtx 0).state = .running ∧ (linked.getCtx 1).state ∉ [PState.running, .stopping] := by decide

def aNotch (op n v : Nat) : Packet := packetAt (.unit 44) 0 (.notch op n v { st := 1, op := 2, ret := none })
theorem witness_NotchPackets : ∀ op ∈ [0, 1, 2, 3], GivenOut (withPacket (aNotch op 7 65)) (.unit 44) (fun | .notch o _ _ _ => o == op | _ => false) (aNotch op 7 65) := by
  intro op h
  refine givenOut_witness _ _ _ ?_ (fun e => nomatch e) (fun _ e => nomatch e)
  revert op
  unfold FirstAt
  decide +kernel
/-- The live device with one operation at the bank. -/
def atBank (op n v : Nat) (f : NotchSt → NotchSt) : State :=
  { live with notch := f { inbox := [{ src := { input := 0 }, op := op, notch := n, value := v, pkt := some (aNotch op n v, { st := 1, op := 2, ret := none }) }] } }
theorem witness_NotchPackets_bank : live.notchDomain 7 = some (aNotch 0 7 0).dom ∧ live.notchDomain 8 ≠ some (aNotch 0 8 0).dom ∧
    (let s := atBank 3 0 5 fun x => { x with n := [(0, { value := 5 }), (1, { wmode := 2 })] }
     (s.getNotch 0).wmode ≤ 1 ∧ (notchAfter 3 5 (s.getNotch 0)).meets 5 = true ∧ (notchAfter 3 6 (s.getNotch 0)).meets 6 = false ∧ s.notch.waiters.length < 16384 ∧ 1 < (s.getNotch 1).wmode) := by
  decide +kernel
theorem witness_NotchPackets_full : 16384 ≤ (atBank 3 0 6 fun x => { x with waiters := List.replicate 16384 ⟨0, 1, aToken⟩ }).notch.waiters.length :=
  Nat.le_of_eq (List.length_replicate ..).symm
theorem witness_NotchPackets_two : let a : NOp := { src := { input := 0 }, op := 0, notch := 7, value := 3 }
    let b : NOp := { src := { input := 2 }, op := 1, notch := 7, value := 9 }
    a.src.input < b.src.input ∧ b.src.input ≤ 2 ∧ ({ live with notch := { inbox := [b, a] } } : State).notch.inbox = [b, a] := by decide
theorem witness_HostNotches : live.seen 0 = true ∧ live.notchDomain 0 = some 0 ∧ live.notchDomain 65535 ≠ some 0 ∧ (live.getTally 0).epoch < 0xFFFFFFFF := by decide

/-- The live device with queue 0, in host memory at 0x1000 with 4 entries, as given, and its entry at CONS read. -/
def queued (x : Queue) (bs : Option (List Byte)) : State :=
  { live with queue := { ctx := [(0, x)] }, host := { live.host with reads := match bs with | some b => [(.entry 0, some b)] | none => [(.entry 0, none)] } }
def active : Queue := { state := 1, ringBase := 0x1000, defWait := 10, size := 4, prod := 1 }
/-- An entry of 64 bytes with bytes at given places. -/
def entryOf (l : List (Nat × Nat)) : List Byte := l.foldl (fun bs p => bs.set p.1 (BitVec.ofNat 8 p.2)) (zeros 64)

theorem witness_NotchPackets_queue : let s := { queued { active with state := 2, waitNotch := 7, waitValue := 5, waitExpiry := 6 } none with notch := { inbox := [{ src := { input := 1, end_ := 0 }, op := 4, notch := 7, value := 5 }] } }
    (s.getQueue 0).state = 2 ∧ (s.getQueue 0).waitNotch = 7 ∧ (s.getQueue 0).waitValue = 5 := by decide
theorem witness_QueueCommands : live.queueDom 7 = some 0 ∧ live.queueDom 8 ≠ some 0 ∧ live.seen 0 = true ∧
    (((queued { active with state := 0 } none).getQueue 0).state = 0 ∧ ((queued { active with state := 0 } none).getQueue 0).defWait ≠ 0) ∧
    ((live.getQueue 0).state = 0 ∧ (live.getQueue 0).defWait = 0) ∧ ((queued { active with state := 3 } none).getQueue 0).state = 3 ∧
    ((queued active none).getQueue 0).state ≠ 0 ∧ ((queued active none).getQueue 0).state ≠ 3 := by decide
theorem witness_QueueRegisters : let s := queued active none
    s.seen 0 = true ∧ s.queueDom (fld (3 * 2 ^ 32) 15 0) = some 0 ∧ fld (3 * 2 ^ 32) 63 32 < (s.getQueue 0).size ∧
    (s.getQueue 0).size ≤ fld (4 * 2 ^ 32) 63 32 ∧ s.queueDom (fld 9 15 0) ≠ some 0 ∧ (s.getQld 0).selQueue = 0 ∧ (s.getQueue 0).state ≠ 0 := by decide
theorem witness_QueueRegisters_word : let s := queued { active with state := 0 } none
    (s.getQueue 0).state = 0 ∧ (s.getQld 0).selWord = 0 ∧ ((s.getQueue 0).setWord 0 0).isSome = true ∧ ((s.getQueue 0).setWord 2 (16 + 7 * 2 ^ 32)).isSome = true ∧
    s.placed 0 0x1000 64 16 = true ∧ (s.getTally 0).epoch < 0xFFFFFFFF := by decide
theorem witness_QueueEntries : ∀ x ∈ [(2, [(0, 2), (8, 7), (12, 1)]), (2, [(0, 2), (8, 8), (12, 1)]), (3, [(0, 3), (8, 7), (12, 1)]), (3, [(0, 3), (8, 8), (12, 1)]), (4, [(0, 4), (1, 1), (16, 3)]),
      (4, [(0, 4), (8, 2)]), (5, [(0, 5), (4, 9)])],
    Entry (queued active (some (entryOf x.2))) 0 0 x.1 (entryOf x.2) := by unfold Entry; decide +kernel
/-- A request of queue 0. -/
def aRequest (id : Nat) : Serve :=
  { arrival := 1, ring := 0, replica := 0, queue := 0, reqId := id, flags := 0, topK := 0, promptLen := 0, maxNew := 0, deadline := 0, promptAddr := 0, seed := 0, adapter := 0, grammar := 4095, temp := 0
    topP := 0, draft := 0, prompt := .bad, model := 0, pin := 0 }
theorem witness_QueueEntries_cases : let s := queued active (some (entryOf [(0, 4)]))
    (s.getNotch 7).wmode % 2 = 0 ∧ s.notchDomain 8 ≠ some 0 ∧ s.currentSet 0 2 = none ∧
    { s with weight := { sets := [(3, { state := 3, domain := 0, model := 2, gen := 5 })] } }.currentSet 0 2 = some 3 ∧
    (((s.getLnd 0).live ++ (s.getLnd 0).pending).any fun r => r.queue == 0 && r.reqId == 9) = false ∧
    (({ s with hub := { lnd := [(0, { live := [aRequest 9] })] } }.getLnd 0).live.any fun r => r.queue == 0 && r.reqId == 9 && !r.cancel) = true ∧
    ((queued active none).queueEntry 0 0).2 = some none ∧ ((queued active (some (entryOf [(0, 9)]))).queueEntry 0 0).2 = some (some (entryOf [(0, 9)])) ∧
    entryOk (entryOf [(0, 9)]) = false ∧ (queued active none).queueTurn 0 = true := by decide +kernel
theorem witness_WaitsEnd : let s := fun m => queued { active with state := 2, met := m, waitExpiry := 5 } none
    (s true).queueDom 0 = some 0 ∧ ((s true).getQueue 0).state = 2 ∧ ((s true).getQueue 0).met = true ∧ ((s false).getQueue 0).met = false ∧
    ((s false).getQueue 0).waitExpiry ≤ (s false).ring.count ∧ ((s false).getCtx 0).debugging = false := by decide

/-- An entry of the REPLICAS section: home 0, one decode and one prefill slot, one series, 16 tokens of context, one request pending at most. -/
def aReplica : List Byte := [(0, 128), (8, 1), (10, 1), (12, 1), (18, 16), (20, 1), (24, 16), (28, 1), (32, 1), (48, 1), (52, 4), (56, 1)].foldl (fun bs p => bs.set p.1 (BitVec.ofNat 8 p.2)) (zeros 128)
/-- The live device with a window of 4 pages at page 16 of stack 0, its plan with one replica, and no plan entered but by `st`. -/
def served (st : PState) : State :=
  { live with
    ctx := [(0, { state := st, stands := 16, ringsPerStep := 1, jobTag := 9, replicas := 1, sects := [⟨0x14, 0xFFFF, aReplica⟩] })]
    prot := [(0, { live.getDom 0 with win := [(0, (2 ^ 63 + 16, 4)), (1, (2 ^ 63 + 2 ^ 62 + 2 ^ 61 + 32, 4))] })]
    ael := { map := [(0, (true, 0))] }
    mem := { unit := [(0, { present := true, slots := [(100, 1), (101, 2)] }), (1, {})] } }

theorem witness_RequestsArrive : let bs := entryOf [(0, 1), (4, 5)]
    let s := { served .running with queue := { ctx := [(0, active)] }, host := { link := 2, reads := [(.entry 0, some bs)] } }
    Entry s 0 0 1 bs ∧ (s.getCtx 0).state ≠ .none ∧ (s.getTally 0).jrnReplay = false ∧ s.requestCount < 65536 ∧
    (s.homed 0 (s.getQueue 0).partition).map (·.pending) = some 1 ∧ ((s.getLnd 0).pending.filter fun p => p.replica == 0).length < 1 ∧
    s.stagedPrompt 0 0 bs = some (.ok []) := by unfold Entry; decide +kernel
theorem witness_RequestsArrive_staged : let bs := entryOf [(0, 1), (8, 4), (26, 16), (31, 128)]
    let s := { served .running with queue := { ctx := [(0, active)] }, host := { link := 2, reads := [(.entry 0, some bs)] } }
    Entry s 0 0 1 bs ∧ bit (num bs 24 8) 63 = true ∧ s.promptIn 0 (num bs 24 8) (num bs 8 4) = true ∧ (s.homed 0 0).map (·.stagePages) = some 1 ∧
    (s.getLnd 0).stagedBytes 0 + 4 * num bs 8 4 ≤ 65536 * 1 := by unfold Entry; decide +kernel

def aReq (write : Bool) (cls a : Nat) : Req := { write := write, kv := false, last := true, dtok := 1, doff := 0, stand := 0, handle := 3, dom := 0, cls := cls, be := 2 ^ 64 - 1, addr := a, v := 0, line := 0, suspect := false, op := none, grain := none }
theorem witness_MemoryEntries : let s := { served .running with cmp := [(18, { loc := 100 })] }
    let s := { s with mem := { s.mem with port := [(0, { reads := [aReq false 0 1048576] })] } }
    (s.net.flits.find? fun f => f.loc == .ctrl 0 && s.come f) = none ∧ s.ctrlEntry 0 0 (s.getCmp 18).loc = (1, 0) ∧ (s.getPort (ctrlPortOf 0 0)).reads = [aReq false 0 1048576] ∧
    s.waitsBank 0 (aReq false 0 1048576) = false ∧ (s.getCmp 18).keptNow = true ∧ s.memRefusal 0 1048576 0 false false 0 = none ∧ s.mem.flip = [] ∧ s.memRefusal 0 0 0 false false 0 = some 1 := by decide +kernel
theorem witness_MemoryEntries_writes : let s := { served .running with cmp := [(18, { loc := 101 })] }
    let s := { s with mem := { s.mem with port := [(0, { writes := [aReq true 0 1048576], data := [{ aFlit with loc := .ctrl 0 }] })] } }
    s.ctrlEntry 0 0 (s.getCmp 18).loc = (2, 0) ∧ (s.getPort (ctrlPortOf 0 0)).writes = [aReq true 0 1048576] ∧
    (s.getPort (ctrlPortOf 0 0)).data = [{ aFlit with loc := .ctrl 0 }] ∧ s.waitsBank 0 (aReq true 0 1048576) = false ∧
    s.memRefusal 0 1048576 0 true false (2 ^ 64 - 1) = none ∧ s.memRefusal 0 2097152 1 true false (2 ^ 64 - 1) = some 3 := by decide +kernel
theorem witness_MemoryEntries_rest : let s := { served .loaded with ring := { lenLog2 := 14, cycle := 4096 } }
    isUnit 1 = true ∧ s.unitBusy 1 = false ∧ (s.getUnit 1).lastAcc + 4096 ≤ s.time := by decide +kernel
theorem witness_MemoryEntries_arrives : let s : State := { live with net := { flits := [sealF { aFlit with loc := .ctrl 27 }] } }
    (s.net.flits.map fun f => (f.loc, s.come f)) = [(.ctrl 27, true)] ∧ s.net.flits.find? (fun f => f.loc == .ctrl 26 && s.come f) = none := by decide +kernel
theorem witness_MemoryEntries_landing : ({ live with mem := { landing := [(1, 1048576, zeros 512, 1)] } } : State).mem.landing = [(1, 1048576, zeros 512, 1)] ∧ (zeros 512).length = 512 :=
  ⟨rfl, List.length_replicate ..⟩
theorem witness_MemoryEntries_system : (live.mem.flip = []) ∧ ((served .running).getDom 0).covers 1048576 512 = true ∧ ((served .running).getDom 0).covers 0 1 = false := by decide +kernel

/-- The live device with entry 255 of the set table in a state. -/
def withSet (st : Nat) : State := { live with weight := { sets := [(255, { state := st, domain := 0, model := 2, gen := 5 })] } }
theorem witness_SetCommands : live.seen 0 = true ∧ (∀ st, st < 6 → ((withSet st).getSet 255).state = st ∧ ((withSet st).getSet 255).domain = 0) ∧
    (((withSet 1).jobSets 0).2 ++ []).contains 255 = false ∧ (((withSet 1).jobSets 0).2 ++ [255]).contains 255 = true ∧
    ((withSet 2).weight.switches.any (·.set == 255)) = false ∧ ((withSet 2).drainingSet 0 2).isSome = false ∧ (withSet 2).ctxRuns 0 = true ∧
    (withSet 3).currentSet 0 2 = some 255 ∧ (withSet 2).currentSet 0 2 = none := by decide +kernel
theorem witness_SetCommands_more : ({ withSet 2 with ctx := [] }).ctxRuns 0 = false ∧
    (({ live with weight := { sets := [(0, { state := 2, model := 2 }), (1, { state := 4, model := 2 })] } }.drainingSet 0 2).isSome) = true ∧
    ((({ withSet 1 with weight := { sets := [(255, { state := 1, domain := 3 })] } }).getSet 255).domain ≠ 0) := by decide +kernel
/-- A template in device memory: model 2, generation `gen`, one extent of one page at page 32. -/
def aTemplate (gen : Nat) : List Byte := [(0, gen), (4, 2), (8, 1), (64, 32), (68, 1)].foldl (fun bs p => bs.set p.1 (BitVec.ofNat 8 p.2)) (zeros 128)
def creating (gen : Nat) : State :=
  let s := served .running
  { s with mem := { s.mem with mem := memWrite [] 1048576 (aTemplate gen) }, weight := { marks := [(2, 4)], ld := [(0, { arg := 2 ^ 63 + 1048576 })] } }
theorem witness_SetCommands_create : ∀ x ∈ [(4, false), (5, true)], let s := creating x.1
    bit (s.getBuck 0).arg 63 = true ∧ firstBelow (fun j => (s.getSet j).state == 0) 256 = some 0 ∧ tget 0 s.weight.marks (65536 * 0 + 2) = 4 ∧
    (((s.template 0).2.getD none).isSome = true) ∧ (((s.template 0).2.getD none).map fun b => (templateOf 0 b).gen) = some x.1 ∧
    (((s.template 0).2.getD none).map fun b => (templateOf 0 b).model) = some 2 ∧ (((s.template 0).2.getD none).map fun b => s.templateOk 0 b) = some true := by decide +kernel

/-- The live device with the job ring of LD 0 in device memory, and one job there. -/
def jobbed (b : BuckLd) (bs : List Byte) : State :=
  let s := served .running
  { s with weight := { s.weight with ld := [(0, { b with jobDev := true, jobBase := 1048576, jobSize := 4 })] }, mem := { s.mem with mem := memWrite [] 1048576 bs } }
theorem witness_BuckerJobs : let s := jobbed { jobProd := 1 } (entryOf [(0, 1), (4, 9)])
    s.seen 0 = true ∧ (s.getBuck 0).jobSize = fld (3 * 2 ^ 32 + 4) 16 0 ∧ (s.getBuck 0).stopped = false ∧ (s.getBuck 0).done = none ∧
    (s.getBuck 0).jobCons ≠ (s.getBuck 0).jobProd ∧ s.ctxRuns 0 = true ∧ (s.jobEntry 0).2 = some (some (entryOf [(0, 1), (4, 9)])) ∧
    (s.getSet 9).adBase % 512 = 0 ∧ (s.getSet 9).adBase + 512 * (s.getSet 9).adLines * (s.getSet 9).adCount ≤ (s.getSet 9).length := by decide +kernel
theorem witness_BuckerJobs_bad : let s := jobbed {} []
    ({ s with weight := { ld := [(0, { jobDev := true, jobBase := 0, jobSize := 4, jobProd := 1 })] } }.jobEntry 0).2 = some none ∧
    (s.getBuck 0).jobDev = true ∧ (s.getBuck 0).jobCons = (s.getBuck 0).jobProd ∧ 2 ≤ fld (1 * 2 ^ 32 + 65536) 16 0 ∧ fld (1 * 2 ^ 32 + 65536) 16 0 ≤ 65536 ∧
    fld (1 * 2 ^ 32 + 65536) 63 32 < fld (1 * 2 ^ 32 + 65536) 16 0 := by decide +kernel
theorem witness_BuckerJobs_done : ∀ st, st < 9 → ((jobbed { done := some { type := 1, status := st, set := 3, notch := 0xFFFF, add := 0 } } []).getBuck 0).done =
    some { type := 1, status := st, set := 3, notch := 0xFFFF, add := 0 } := by decide +kernel


theorem witness_BuckerJobs_sources : let host := BuckJob.ofBytes (entryOf [(0, 1), (4, 9), (12, 0)])
    let s := { live with host := { live.host with reads := [(.source 0, some [1])] } }
    s.sourceRead 0 { host with srcKind := 0, srcScaled := false, imp := false } = true ∧
    live.linkChecked 3 = live ∧ live.linkReady 3 0 = true ∧ (∀ d ∈ [(1, 1), (2, 2), (3, 3)], d.1 = d.2) := by decide +kernel

/-- The live device with time at the end of a ring or not, and nothing waiting. -/
theorem witness_StepRunsFront : ({ live with pending := [.snoop, .stop 0] } : State).pending = .snoop :: [.stop 0] := rfl
theorem witness_TimePasses : ({ live with ael := { seeded := true } } : State).ael.seeded = true ∧ live.pending = [] ∧ live.resetDue = none ∧ live.ring.cycle + 1 < live.L ∧
    ({ live with ring := { live.ring with cycle := 16383 } } : State).L ≤ 16383 + 1 ∧ resets .snoop = false ∧ Instr.snoop ≠ .ringBoundary := by decide +kernel
theorem witness_CommandsAnswer : (∃ t, exec .snoop live = .next t) ∧ ∃ t, exec (.arConst 0 3 0 1 8) live = .refused t := ⟨⟨_, rfl⟩, ⟨_, rfl⟩⟩
theorem witness_FlashAndProtectionKept : (∃ t, exec .snoop live = .next t) ∧ writesFlash .snoop = false ∧ resets .snoop = false := ⟨⟨_, rfl⟩, rfl, rfl⟩

/-- A locked device whose copy has a PROT section in which domain 3 is valid. -/
def locked : State :=
  let b := (zeros 256).set (64 * 3 + 7) 0x80
  { State.reset with sec := { stage := 10, locked := true, sects := [(2, b)] }, prot := protTable b, pins := { cold := false, perst := false }, pending := [.snoop] }
theorem witness_LockInvStep : LockInv locked ∧ Steps locked { locked with pending := [] } := ⟨⟨fun _ => rfl, fun h => nomatch h⟩, rfl⟩

/-- The live device whose boot events have been given to the rings of LD 0. -/
def given : State := { live with ledger := { bootGiven := [0] } }
theorem witness_HostRings : given.seen 0 = true ∧ (given.getTally 0).backlog = [] ∧ (given.getTally 0).jrnReplay = false ∧ (given.getTally 0).signAsked = false ∧
    given.ledger.bootGiven.contains 0 = true ∧ given.cfgOpen 0 = false ∧ ({ given with ctx := [] } : State).cfgOpen 0 = true ∧ (given.getTally 0).epoch < 0xFFFFFFFF ∧
    ∀ r ∈ hostRings 0, given.placed 0 (0x10000 / r.2.2.2.2.1 % (2 ^ 64 / r.2.2.2.2.1) * r.2.2.2.2.1) r.2.2.2.2.1 (r.2.2.2.1 given).size = true ∧
      given.placed 0 (2 ^ 62 / r.2.2.2.2.1 % (2 ^ 64 / r.2.2.2.2.1) * r.2.2.2.2.1) r.2.2.2.2.1 (r.2.2.2.1 given).size = false ∧
      fld r.2.2.2.2.2 24 0 = r.2.2.2.2.2 ∧ given.placed 0 (r.2.2.2.1 given).base r.2.2.2.2.1 r.2.2.2.2.2 = true ∧
      ¬(fld 1 24 0 = 0 ∨ (r.2.2.2.2.2 ≤ fld 1 24 0 ∧ fld 1 24 0 ≤ 2 ^ 24)) := by decide +kernel

/-- The live device with the tally state of context 0 as given. -/
def withTally (f : TallyCtx → TallyCtx) : State := live.updTally 0 f
theorem witness_Signatures : (live.getTally 0).signAsked = false ∧ (live.getTally 0).owed = [] ∧
    ((withTally fun t => { t with owed := [(4, zeros 64)] }).getTally 0).owed = [(4, zeros 64)] ∧ live.seen 0 = true ∧ bit 0 0 = false ∧ bit 1 0 = true ∧
    ((withTally fun t => { t with backlog := List.replicate 59 [] }).getTally 0).room < 6 ∧
    (6 ≤ ((withTally fun t => { t with seq := 5 }).getTally 0).room ∧ ((withTally fun t => { t with seq := 5 }).getTally 0).seq ≠ 0 ∧
      ((withTally fun t => { t with seq := 5 }).getTally 0).signedHead ≠ some 4) ∧
    fld 0 20 0 = 0 ∧ 2 ^ 20 < fld (2 ^ 20 + 1) 20 0 ∧ 11 < fld 12 3 0 ∧ ({ live with ctx := [] } : State).cfgOpen 0 = true ∧ (live.getTally 0).epoch < 0xFFFFFFFF ∧
    1 ≤ fld (2 ^ 20) 20 0 ∧ fld (2 ^ 20) 20 0 ≤ 2 ^ 20 ∧ fld 11 3 0 ≤ 11 ∧ fld 7 63 3 = 0 ∧ (live.getDom 0).hosts (fld 0x1000 63 3 * 8) 4 = true := by decide +kernel

/-- The device that serves a replica, the step of it at its last ring, with rings of `n` entries for records and tickets. -/
def building (n : Nat) : State :=
  { served .running with
    hub := { lnd := [(0, { out := { size := n } })] }
    tally := [(0, { jrn := { size := n } })] }
theorem witness_LandingBuilds : live.buildReady 0 = false ∧ (building 65536).buildReady 0 = true ∧ ((building 65536).getLnd 0).redo = [] ∧
    ((building 65536).getTally 0).jrnReplay = false ∧ (building 0).holdCause 0 ((building 0).homes 0) 0 1 = some 0 ∧ (building 65536).host.up = true ∧
    0 < ((building 65536).getTally 0).jrn.free ∧ (live.getLnd 0).build = none ∧ live.ctxRuns 0 = true ∧ (live.getLnd 0).recs = [] := by decide +kernel
theorem witness_LandingBuilds_free : let s := building 65536
    let reps := s.homes 0
    let a := s.ring.count + 1
    let r := s.decideBuild 0 a reps (s.work0 0 reps)
    let own := 1 + ((tokenEntries (s.getLnd 0).live a r.2 ++ r.1.notices).map fun e => e.units.length).foldl (· + ·) 0
    let n := (s.buildTickets 0 ((s.getCtx 0).step + 1) a reps r.2 r.1).length + 1
    s.holdCause 0 reps own n = none := by decide +kernel
theorem witness_LandingBuilds_readback : ∀ h ∈ [none, some 0, some 2], let s := { building 65536 with hub := { lnd := [(0, { build := some { step := 1, ring := 6, decs := [], held := h, tseq := 1, last := 0 } })] } }
    (s.getLnd 0).build = some { step := 1, ring := 6, decs := [], held := h, tseq := 1, last := 0 } ∧ s.ctxRuns 0 = true := by decide +kernel
theorem witness_LandingBuilds_records : ∀ n ∈ [0, 64], let r : StepRec := { step := 1, ring := 4, aborted := false, again := false, entries := [], closed := some (7, false, 0) }
    let s := { building 65536 with hub := { lnd := [(0, { out := { size := n }, recs := [r] })] } }
    (s.getLnd 0).recs = [r] ∧ r.closed = some (7, false, 0) ∧ (s.getTally 0).twinEn = false ∧
    ((s.getTally 0).backlog.any fun u => unitKind u == 0 && decide (unitSeq u ≤ 7)) = false ∧ s.host.up = true ∧
    ((s.getLnd 0).out.free < r.units ↔ n = 0) := by decide +kernel

/-- A device with an object header in a weight window at page 48 of stack 0: its kind, and the offset of its transitions. -/
def objects (kind trans : Nat) : State :=
  let s := served .running
  { s with
    prot := [(0, { s.getDom 0 with win := [(2, (2 ^ 63 + 2 ^ 62 + 48, 4))] })]
    hub := { gr := [(0, { arg := 3145728 })] }
    mem := { s.mem with mem := memWrite [] 3145728 ([(0, kind), (4, 1), (8, 1), (16, 64), (24, trans), (33, 2)].foldl (fun bs p => bs.set p.1 (BitVec.ofNat 8 p.2)) (zeros 64)) } }

theorem witness_GraderObjects_header : ∀ k ∈ [(1, 128), (2, 0)], let s := objects k.1 k.2
    let a := (s.getGr 0).arg
    s.seen 0 = true ∧ (s.getTally 0).epoch < 0xFFFFFFFF ∧ firstBelow (fun h => (tfind? s.hub.obj h).isNone) 4096 = some 0 ∧ a % 64 = 0 ∧
    (s.getDom 0).weightOnly a 64 = true := by decide +kernel
theorem witness_GraderObjects_automaton : ∃ hd bs, let s := objects 1 128
    let a := (s.getGr 0).arg
    let o := objOf 0 a hd
    s.grRead 0 1 a 64 = (s, hd, false) ∧ o.headerOk hd = true ∧ o.inside (s.getDom 0) = true ∧ o.kind = 1 ∧
    s.grRead 0 1 (a + o.stateOff + 16 * o.start) 16 = (s, bs, false) ∧ (o.stateOf bs).ok = true :=
  ⟨((objects 1 128).grRead 0 1 3145728 64).2.1, ((objects 1 128).grRead 0 1 3145792 16).2.1, by decide +kernel, by decide +kernel, by decide +kernel, by decide +kernel, by decide +kernel, by decide +kernel⟩
theorem witness_GraderObjects_list : ∃ hd bs, let s := objects 2 0
    let a := (s.getGr 0).arg
    let o := objOf 0 a hd
    s.grRead 0 1 a 64 = (s, hd, false) ∧ o.headerOk hd = true ∧ o.inside (s.getDom 0) = true ∧ o.kind = 2 ∧
    s.grRead 0 1 (a + o.stateOff) (4 * o.count) = (s, bs, false) ∧ (o.ids bs).all (fun x => decide (x < s.vocab 0)) = true :=
  ⟨((objects 2 0).grRead 0 1 3145728 64).2.1, ((objects 2 0).grRead 0 1 3145792 4).2.1, by decide +kernel, by decide +kernel, by decide +kernel, by decide +kernel, by decide +kernel, by decide +kernel⟩
theorem witness_GraderObjects_bad : ∃ hd, let s := objects 1 129
    s.grRead 0 1 3145728 64 = (s, hd, false) ∧ ((objOf 0 3145728 hd).headerOk hd && (objOf 0 3145728 hd).inside (s.getDom 0)) = false :=
  ⟨((objects 1 129).grRead 0 1 3145728 64).2.1, by decide +kernel, by decide +kernel⟩
theorem witness_GraderObjects_unload : let o := objOf 0 3145728 []
    let s := { live with hub := { obj := [(4095, o)] } }
    let l : LndLd := { pending := [{ arrival := 1, ring := 0, replica := 0, queue := 0, reqId := 0, flags := 0, topK := 0, promptLen := 0, maxNew := 0, deadline := 0, promptAddr := 0, seed := 0, adapter := 0, grammar := 4095, temp := 0, topP := 0, draft := 0, prompt := .bad, model := 0, pin := 0 }] }
    tfind? s.hub.obj 0 = none ∧ tfind? s.hub.obj 4095 = some o ∧ o.dom = 0 ∧ (objOf 1 0 []).dom ≠ 0 ∧ s.handleBound 0 4095 = false ∧
    ({ s with hub := { s.hub with lnd := [(0, l)] } } : State).handleBound 0 4095 = true ∧ (1 % 64 ≠ 0 ∨ (s.getDom 0).weightOnly 1 64 = false) := by decide +kernel

/-- The device that serves a replica, with one entry of the Grader's schedule, of the kind `k` and the stamp `st`. -/
def phased (k st : Nat) : State :=
  { served .running with
    ctx := [(0, { state := .running, stands := 16, ringsPerStep := 1, jobTag := 9, replicas := 1
                  sects := [⟨0x14, 0xFFFF, aReplica⟩, ⟨0x15, 0xFFFF, leBytes 32 (k * 2 ^ 222 + st * 2 ^ 236)⟩] })] }
theorem witness_GraderPhases : (∀ k ∈ [1, 2], ((phased k 100).grReady 0 k).isSome = true ∧ (phased k 101).grReady 0 k = none ∧
      (((phased k 100).grReady 0 k).bind fun e => ((phased k 100).getCtx 0).replicaList[e.replica]?).isSome = true) ∧
    (live.getGr 0).due = none ∧ ({ live with hub := { gr := [(0, { due := some (100, 2) })] } }.getGr 0).due = some (100, 2) ∧ 100 ≤ (live.getCmp 19).loc ∧
    (live.getCmp 19).loc < 101 := by decide +kernel


/-- The live device with its plan in a state. -/
def inState (st : PState) : State := live.updCtx 0 fun c => { c with state := st }
theorem witness_PlanCommands : ∀ st ∈ [PState.none, .loaded, .armed, .running, .stopping, .halted],
    (inState st).seen 0 = true ∧ (inState st).ring.locked = true ∧ (inState st).repair.refuses = false ∧ (inState st).therm.tripPin = false ∧
    (inState st).shifting 0 = false ∧ ((inState st).getCtx 0).state = st := by decide +kernel
theorem witness_PlanCommands_start : ∀ n ∈ [6, 7], let s := (inState .armed).updCtx 0 fun c => { c with armStart := n, start := n }
    ((s.getCtx 0).armStart ≤ s.ring.count + 1 ↔ n = 6) ∧ (s.getCtx 0).armStart = (s.getCtx 0).start ∧ (s.getCtx 0).armResume = false := by decide +kernel

/-- A plan image of no stand: its header and a section table of one section, OWNERSHIP, of no entry. -/
def anImage : List (Nat × Nat) :=
  [(0, 0x50), (1, 0x4C), (2, 0x41), (3, 0x4E), (4, 1), (9, 0x20), (16, 1), (20, 14), (23, 2), (24, 0x48), (25, 1), (28, 1), (32, 64), (4096, 0x17), (4098, 0xFF), (4099, 0xFF),
   (4104, 64), (4105, 16)]
def imaged : State :=
  let s := served .none
  { s with
    ctx := [(0, { image := 1048576 })]
    prot := [(0, { s.getDom 0 with stands := 1 })]
    repair := { rows := [(0, { known := true }), (1, { known := true })] }
    mem := { s.mem with mem := anImage.map fun p => (1048576 + p.1, BitVec.ofNat 8 p.2) } }
theorem witness_PlanAccepted_load : imaged.seen 0 = true ∧ imaged.statusLoad 0 9 2 = 0 := by decide +kernel
theorem witness_PlanAccepted : (∀ st ∈ [PState.loaded, .halted], let s := (inState st).updCtx 0 fun c => { c with start := 7 }
      s.seen 0 = true ∧ s.statusArm 0 (s.getCtx 0).start false = 0 ∧ (s.getCtx 0).state ≠ .armed ∧ (s.getCtx 0).state ∈ [PState.loaded, .halted] ∧ 2 ≤ (s.getTally 0).room) ∧
    (live.getStand 1).ctx ≠ some 0 := by decide +kernel

theorem witness_AbortAndTwins : linked.aelDom 0 = some 0 ∧ (linked.getAel 0).state = 2 ∧ (linked.getCtx 0).jobTag = 9 ∧ linked.ctxRuns 0 = true ∧
    (linked.getCtx 0).abortSeen.contains 3 = false ∧ (linked.getCtx 0).halt = none ∧ ((linked.updCtx 0 fun c => { c with abortSeen := [3] }).getCtx 0).abortSeen.contains 3 = true := by decide
theorem witness_AbortAndTwins_twins : ∀ p ∈ [some (4, 77), some (4, 78), none], let s := { linked.updTally 0 (fun t => { t with twinEn := true, twinDue := some 4, twinDig := 77, twinPeer := p }) with ring := { linked.ring with cycle := 256 } }
    (s.getTally 0).twinEn = true ∧ (s.getTally 0).twinPort = 0 ∧ (s.getTally 0).twinDue = some 4 ∧ 256 ≤ s.ring.cycle ∧
    ((s.getTally 0).twinPeer = some (4, (s.getTally 0).twinDig) ↔ p = some (4, 77)) ∧ (s.getTally 0).waiting = none ∧ (s.getCtx 0).halt = none := by decide +kernel

theorem witness_PowerEvents : (∀ k ∈ [0, 19], k < 20 ∧ (live.getCmp k).keptNow = true ∧ (live.getCmp k).stop = false ∧ ((live.getCmp k).on = true ∨ 16 ≤ k)) ∧
    ((live.updCmp 0 fun c => { c with stop := true }).getCmp 0).stop = true ∧ live.therm.trip = false ∧ live.therm.crit = false ∧ live.ctxRuns 0 = true ∧
    (live.getCtx 0).halt = none ∧ live.repair.warn = false ∧ live.ready = true ∧ (∀ d, d < 16 → ({ live with ctx := [] } : State).ctxRuns d = false) ∧
    ({ live with repair := { warn := true } } : State).repair.warn = true := by decide +kernel
theorem witness_PowerEvents_temps : ∀ x ∈ [(94, true, false), (95, true, false), (105, false, true)], ∃ t, exec (.tempSample [x.1] [85] []) live = .next t ∧
    t.therm.trip = true ∧ t.therm.crit = x.2.2 := by
  intro x hx
  refine ⟨_, rfl, ?_⟩
  revert x
  decide +kernel
theorem witness_PowerEvents_halt : ∀ n ∈ [0, 1], let s := { live.updCtx 0 (fun c => { c with halt := some { cause := 0x0803, ring := 6, unit := noUnit } }) with
        ring := { live.ring with count := 1, cycle := 1115 + n }, repair := { warn := true } }
    (s.repair.warnTime + 17500 ≤ s.time ↔ n = 1) ∧ s.repair.refuses = true ∧ ((s.getCtx 0).halt.any fun h => h.cause == 0x0803) = true ∧
    ((live.getCtx 0).halt.any fun h => h.cause == 0x0803) = false := by decide +kernel

theorem witness_RowShift : live.seen 0 = true ∧ bit (live.getDom 0).stands (31 / 2) = true ∧ 15 ≤ 15 ∧ live.repair.shState ∉ [1, 2] ∧
    (∀ n ∈ [1, 2], ({ live with repair := { shState := n } } : State).repair.shState ∈ [1, 2]) ∧ (live.getRow 31).shift ≠ 15 ∧
    (({ live with repair := { rows := [(31, { shift := 15 })] } } : State).getRow 31).shift = 15 ∧
    ((live.rowCtxs 0).any fun e => (live.getCtx e).engaged) = true ∧ (live.getTally 0).epoch < 0xFFFFFFFF ∧ (live.getRow 31).failed = 0 ∧
    (({ live with repair := { rows := [(31, { failed := 1 })] } } : State).getRow 31).failed ≠ 0 := by decide +kernel
theorem witness_RowShift_idle : (((inState .loaded).rowCtxs 31).any fun e => ((inState .loaded).getCtx e).engaged) = false := by decide +kernel
theorem witness_RowShift_done : ∀ n ∈ [0, 1], let s := { live with ring := { live.ring with count := 6, cycle := 16383 * (1 - n) }, repair := { shState := 2, shRing := 5 - (1 - n) } }
    (s.repair.shState = 2 ∧ s.repair.shRing * s.L + 32768 ≤ s.time ↔ n = 0) := by decide +kernel

/-- The live device as logical device 0 of a grid, with its plan loaded or armed for ring 9, a map of its neighbours, and `p` at the hub. -/
def treed (st : PState) (b : Bcast) (p : List Packet) : State :=
  let s := (inState st).updCtx 0 fun c => { c with start := 9, armStart := 9 }
  { s with
    ael := { known := true, nx := 7, ny := 7, map := [(0, (true, 0)), (1, (true, 1))], ports := [(0, { state := 2, mode := 1, peer := 1 })] }
    bcast := [(0, b)], net := { pkts := p } }
def aCtl (cmd : Nat) : Ctl := { cmd := cmd, tag := 9, start := 9, plan := 0, first := 0, lw := 2, lh := 1, rootX := 1, rootY := 0, order := false, rail := 0, resume := false }
def ctlPkt (c : Ctl) : Packet := sealP { packetAt (.unit 45) 0 (.control c) with srcDev := 1 }

theorem witness_BroadcastTree_root : let s := treed .loaded { lw := 1, lh := 0 } []
    s.seen 0 = true ∧ s.rootOk 0 (s.rootCtl 0 false) = true ∧ s.statusArm 0 (s.getCtx 0).start false = 0 ∧ (s.getCtx 0).state ≠ .armed ∧
    (s.rootCtl 0 false).kids (s.logicalId 0) ≠ [] ∧ (treed .loaded { lw := 1, lh := 0, rootX := 1 } []).rootOk 0 ((treed .loaded { lw := 1, lh := 0, rootX := 1 } []).rootCtl 0 false) = false ∧
    (treed .running { lw := 1 } []).statusArm 0 9 false ≠ 0 := by decide +kernel
theorem witness_BroadcastTree_packets : ∀ k ∈ [1, 2, 3], ∀ tag ∈ [8, 9], let p := ctlPkt { aCtl k with tag := tag }
    let s := treed .loaded {} [p]
    FirstAt s (.unit 45) (fun pl => match pl with | .control c => c.cmd == k | _ => false) p ∧ p.intact = true ∧ s.flInjects (.unit 45) true 0 = false ∧
    (s.getNode (.unit 45)).holds p = false ∧ (s.getNode (.unit 45)).behind p = false ∧
    s.ctlCtx { aCtl k with tag := tag } = (if tag = 9 then some 0 else none) ∧ s.armedWith 0 { aCtl k with tag := tag } = false := by unfold FirstAt; decide +kernel
theorem witness_BroadcastTree_givenOut : GivenOut (treed .loaded {} [ctlPkt (aCtl 1)]) (.unit 45) (fun pl => match pl with | .control c => c.cmd == 1 | _ => false) (ctlPkt (aCtl 1)) := by
  have h := witness_BroadcastTree_packets 1 (by decide) 9 (by decide)
  exact ⟨h.1, h.2.1, h.2.2.1, h.2.2.2.1, h.2.2.2.2.1, fun _ e => nomatch e⟩
theorem witness_BroadcastTree_arm : let s := treed .loaded {} [ctlPkt (aCtl 1)]
    num (s.getCtx 0).planId 0 8 = (aCtl 1).plan ∧ (s.getCtx 0).state = .loaded ∧ s.statusArm 0 9 false = 0 ∧ (aCtl 1).kids (s.logicalId 0) = [] ∧
    s.compose [] [7, 0] 1 = .inl (s.hopsTo 1 ++ [7, 0]) ∧ s.ready = true := by decide +kernel
theorem witness_BroadcastTree_armed : ∀ k ∈ [2, 3], let s := treed .armed { state := 1, waitFor := [1, 2] } [ctlPkt (aCtl k)]
    s.ctlCtx (aCtl k) = some 0 ∧ FirstAt s (.unit 45) (fun pl => match pl with | .control x => x.cmd == k | _ => false) (ctlPkt (aCtl k)) ∧
    s.armedWith 0 (aCtl k) = true ∧ s.statusGo 0 = 0 ∧ (aCtl 3).ok = false ∧ (s.getBc 0).parent = none ∧ (s.getBc 0).state = 1 ∧
    (s.getBc 0).waitFor.contains (ctlPkt (aCtl k)).srcDev = true ∧ (s.getBc 0).waitFor.filter (· != (ctlPkt (aCtl k)).srcDev) ≠ [] := by unfold FirstAt; decide +kernel

/-- The live device with its pins as given. -/
def pinned (p : Pins) : State := { live with pins := p }
def free : Pins := { cold := false, perst := false }
theorem witness_Resets : (pinned {}).pins.cold = true ∧ (pinned free).pins.cold = false ∧ (pinned {}).pins.perst = true ∧ (pinned free).pins.perst = false ∧
    (pinned free).pins.tap ≠ 3 ∧ (pinned free).pins.railHeld = false ∧ (pinned {}).pins.perstHeld = false ∧ (pinned free).pins.held = false ∧ (pinned {}).pins.held = true ∧
    ((pinned { free with perst := true }).pins.perst = true ∧ (pinned { free with perst := true }).pins.held = false) ∧
    (pinned { free with perst := true, perstHeld := true }).pins.perstHeld = true ∧ 4 ≤ (pinned free).sec.stage ∧ (pinned free).ready = true ∧
    State.reset.sec.stage < 4 ∧ (∀ d, d < 16 → ({ pinned free with ctx := [] } : State).ctxRuns d = false) ∧ (pinned free).ctxRuns 0 = true ∧
    ((pinned free).getCtx 0).halt = none ∧ ({ ref := false } : BootEnv).ref = false ∧ ({} : BootEnv).ref = true ∧ ({} : BootEnv).hub = true := by decide +kernel

/-- The live device in a stage of SEC_BOOT, with an update open or not. -/
def staged (n : Nat) (op : Bool) : State := { live with sec := { stage := n, locked := true }, mgmt := { updOpen := op } }
theorem witness_ManagementCommands : (staged 3 false).sec.stage < 4 ∧ (staged 15 false).sec.stage = 15 ∧ 4 ≤ (staged 10 false).sec.stage ∧ (staged 10 false).sec.stage ≠ 15 ∧
    ((List.range 64).all fun i => regArgOk 0 (2 ^ 25 - 512 + 8 * i)) = true ∧ 2 ^ 25 - 512 + 8 * 64 ≤ 2 ^ 25 ∧ regArgOk 16 0 = false ∧ 0x300000 % 8 = 0 ∧
    (tget [] ({ live with mgmt := { units := [(15, [zeros 64])] } } : State).mgmt.units 15)[0]? = some (zeros 64) := by decide +kernel
theorem witness_ManagementCommands_updates : (staged 9 false).updatable = false ∧ (staged 10 true).ready = true ∧ (staged 10 true).sec.copy ≤ 1 ∧ (staged 10 true).updatable = true ∧
    (staged 10 true).mgmt.updOpen = true ∧ (staged 10 false).mgmt.updOpen = false ∧ 1 ≤ [0#8].length ∧ 4096 + [0#8].length ≤ 2 ^ 25 ∧
    (∀ d, d < 16 → ((staged 10 true).getTally d).epoch < 0xFFFFFFFF) := by decide +kernel
theorem witness_ManagementCommands_header : (zeros 4096).length = 4096 := List.length_replicate ..
theorem witness_SpdmResponses : (staged 0 false).sec.stage < 4 ∧ (staged 15 false).sec.stage = 15 ∧ 4 ≤ (staged 10 false).sec.stage ∧ (staged 10 false).sec.stage ≠ 15 ∧
    (∀ m ∈ [({} : Mgmt), { transcript := [0#8], settled := true, keyed := true }, { transcript := [0#8], settled := true, session := true }],
      let s := { staged 10 false with mgmt := m, sec := { (staged 10 false).sec with sects := [(8, [0x30#8])] } }
      (spdmRequests s 0 0 1 7 true [] none).any (fun p => p.2.1) = true ∧ (spdmRequests s 1 1 1 8 true [] none).any (fun p => !p.2.1) = true ∧ 0 < s.cert.length) := by decide +kernel

/-- The device with a window of DRAM, its plan loaded or running. -/
def hosted (st : PState) : State := { served st with pins := free }
theorem witness_HostPort : (pinned {}).pins.held = true ∧ (hosted .loaded).pins.held = false ∧ (hosted .loaded).pins.perst = false ∧
    hdmAddr ((hosted .loaded).getDom 0).windows 0 = some 1048576 ∧ hdmAddr (live.getDom 0).windows 0 = none ∧ (hosted .loaded).seen 0 = true ∧
    ((hosted .loaded).getCtx 0).engaged = false ∧ ((hosted .running).getCtx 0).engaged = true ∧
    (hosted .loaded).memRefusal 0 1048576 0 false false 0 = none ∧ (hosted .loaded).mem.flip = [] ∧ (hosted .loaded).memRefusal 0 1048576 0 true false (segEnables 1048576 (2 ^ 64 - 1)) = none := by
  decide +kernel
theorem witness_HostPort_reads : (HostRead.job 15 ∈ [HostRead.template 15, .job 15, .source 15, .scales 15, .tickets 15]) ∧
    (queued active none).queueDom 0 = some 0 ∧ ((queued active none).getQueue 0).state = 1 ∧ (live.getMsix 0 3).masked = true ∧ (live.getMsix 0 3).pend = false ∧
    (let s : State := { live with host := { live.host with msix := [(0, [(3, { addr := 0x1000, pend := true })])] } }
     (s.getMsix 0 3).masked = true ∧ (s.getMsix 0 3).pend = true ∧ (s.getDom 0).hosts (s.getMsix 0 3).addr 4 = true) ∧
    live.queueDom 8 ≠ some 0 ∧ live.ready = true ∧ (live.getCtx 0).state ∈ [.running, .stopping] ∧ ((inState .halted).getCtx 0).state ∈ [.loaded, .armed, .halted] ∧
    2 ≤ (live.getTally 0).room := by decide +kernel
theorem witness_RegisterWrites : 2 ^ 64 - 1 < 2 ^ 64 ∧ (7 % 8 ≠ 0 ∨ 2 ^ 25 ≤ 7) ∧ live.visible 1 0x600000 = false ∧ ldReadOnly 0x1200000 = true ∧ 0x600000 ≠ 0x101008 + 0x40 * 1 ∧
    live.seen 0 = true ∧ 0x300000 ≤ 0x300FF8 ∧ 0x300FF8 < 0x301000 ∧ bit (live.getDom 0).stands 15 = true ∧ bit (live.getDom 0).stands (standCmp 511) = true := by decide +kernel

theorem witness_OpNumbersStep : OpNumbers (headed 2 (word 0 0x30 0) live) ∧ ∃ t, Steps ({ headed 2 (word 0 0x30 0) live with pending := [.nop 0 2 {}] }) t :=
  ⟨opNumbers_onStand _ (by decide +kernel), _, rfl⟩
theorem witness_HostPort_link : (pinned free).pins.held = false ∧ (pinned free).pins.perst = false ∧ live.host.link = 2 ∧ State.reset.host.link ≠ 2 := by decide
theorem witness_Resets_verify : ((pinned {}).verify {} (pinned {}).candidates 0).2.1 = none ∧ (pinned {}).pins.cold = true ∧ (pinned {}).pins.perstHeld = false ∧ ({} : BootEnv).hub = true := by decide +kernel
theorem witness_RegisterWrites_rows : registerRows 0 7 ≠ [] ∧ live.seen 0 = true ∧ live.visible 0 0x600018 = true := by decide +kernel

/-! Single steps. What they expect comes from the rules of the spec and hand arithmetic on them. -/

/-- A field of the state that a command answers, if it answers one. -/
def got {α : Type} (c : Instr) (s : State) (f : State → α) : Option α :=
  match exec c s with
  | .next t => some (f t)
  | _ => none

/-- The words of a valid LINEAR Deck descriptor of `n` elements of one dimension (R161 to R167). -/
def vec (fmt base n : Nat) (scaled : Bool) : List Nat :=
  [2 ^ 63 + fmt * 2 ^ 55 + (if scaled then 2 ^ 54 else 0) + 2 ^ 48, base, n * 2 ^ 40, 2 ^ 40, 2 ^ 40, 2 ^ 40, 2 ^ 40, if scaled then 512 else 0]

/-- FP32 numbers of a list of words, at lines 0, 1 and 2 of the Deck of stand 0, as slots 0, 1 and 2, and slot 3 as a destination at line 3. -/
def edging (fmt : Nat) (a b c : List Nat) : State := onStand fun t =>
  { t with
    own := [(0, 2)], pwr := [(0, 2)]
    desc := [(1, vec 0 0 a.length false), (2, vec 0 512 b.length false), (3, vec 0 1024 c.length false), (4, vec fmt 1536 32 (decide (3 ≤ fmt ∧ fmt ≠ 9)))]
    slots := [(0, { isOpen := true, handle := 1 }), (1, { isOpen := true, handle := 2 }), (2, { isOpen := true, handle := 3 }), (3, { isOpen := true, handle := 4, out := true })]
    mem := memWrite (memWrite (memWrite [] 1024 (c.map (leBytes 4)).flatten) 512 (b.map (leBytes 4)).flatten) 0 (a.map (leBytes 4)).flatten }
/-- A compute operation of stand 0 with its source lines read, its results formed. -/
def edRan (k : EdKind) (o : EdOp) (s : State) : State :=
  let t := s.getStand 0
  let j : Job := { id := 0, stream := 1, kind := .compute k o (t.getSlot o.a) (t.getSlot o.b) (t.getSlot o.c) (t.getSlot o.d) 101, acts := [], got := deckTab t.mem [0, 1, 2] }
  standStage 0 j (.stage 0) (s.updStand 0 fun t => { t with jobs := [j], nextOp := 1 })
/-- The bytes that it writes from the destination's byte `k` on, as a number. -/
def edOut (k n : Nat) (t : State) : Nat :=
  let ws := writesOf (((t.getStand 0).jobs.map (·.acts)).flatten)
  ofLe ((List.range n).map fun i => ((lastWrite ws ((1536 + k + i : Nat) : Int)).getD 0))
/-- What an operation makes. -/
def edOutOf {α : Type} (k : EdKind) (o : EdOp) (s : State) (f : State → α) : α := f (edRan k o s)
/-- 1.0, 2.0, 3.0 and so on, as FP32. -/
def f1 : Nat := 0x3F800000
def f2 : Nat := 0x40000000
def f3 : Nat := 0x40400000

theorem test_edFma : edOutOf .fma { d := 3, a := 0, b := 1, c := 2 } (edging 0 [f2] [f3] [f1]) (edOut 0 4) = 0x40E00000 := by decide +kernel
theorem test_edAdd : edOutOf .add { d := 3, a := 0, b := 1 } (edging 0 [f2] [f1] []) (edOut 0 4) = f3 := by decide +kernel
/-- R104: the immediate stands in the place of a source. -/
theorem test_edMul_imm : edOutOf .mul { d := 3, a := 0, bi := true, imm := f3 } (edging 0 [f2] [] []) (edOut 0 4) = 0x40C00000 := by decide +kernel
/-- R108: −0 lies below +0. -/
theorem test_edMin : edOutOf .min { d := 3, a := 0, b := 1 } (edging 0 [0] [0x80000000] []) (edOut 0 4) = 0x80000000 := by decide +kernel
theorem test_edMax : edOutOf .max { d := 3, a := 0, b := 1 } (edging 0 [f3] [0xFF800000] []) (edOut 0 4) = f3 := by decide +kernel
/-- R108: EQ holds of −0 and +0; NE holds with a NaN. -/
theorem test_edCmp : edOutOf .cmp { d := 3, a := 0, b := 1, fn := 0 } (edging 0 [0] [0x80000000] []) (edOut 0 4) = f1 ∧
    edOutOf .cmp { d := 3, a := 0, b := 1, fn := 1 } (edging 0 [0x7FC00000] [f1] []) (edOut 0 4) = f1 := by decide +kernel
/-- R108: a NaN A takes B. -/
theorem test_edCsel : edOutOf .csel { d := 3, a := 0, b := 1, c := 2 } (edging 0 [0x7FC00000] [f2] [f3]) (edOut 0 4) = f2 := by decide +kernel
/-- 2.5 to INT32, to nearest even. -/
theorem test_edCvt : edOutOf .cvt { d := 3, a := 0 } (edging 9 [0x40200000] [] []) (edOut 0 4) = 2 := by decide +kernel
theorem test_edExp2 : edOutOf .exp2 { d := 3, a := 0 } (edging 0 [f3] [] []) (edOut 0 4) = 0x41000000 ∧
    edOutOf .exp2 { d := 3, a := 0 } (edging 0 [0xFF800000] [] []) (edOut 0 4) = 0 := by decide +kernel
/-- R109: log2 of −0 is −Inf. -/
theorem test_edLog2 : edOutOf .log2 { d := 3, a := 0 } (edging 0 [0x41000000] [] []) (edOut 0 4) = f3 ∧
    edOutOf .log2 { d := 3, a := 0 } (edging 0 [0x80000000] [] []) (edOut 0 4) = 0xFF800000 := by decide +kernel
/-- 1 / 3, correctly rounded. -/
theorem test_edRcp : edOutOf .rcp { d := 3, a := 0 } (edging 0 [f3] [] []) (edOut 0 4) = 0x3EAAAAAB := by decide +kernel
theorem test_edRsq : edOutOf .rsq { d := 3, a := 0 } (edging 0 [0x40800000] [] []) (edOut 0 4) = 0x3F000000 := by decide +kernel
theorem test_edTanh : edOutOf .tanh { d := 3, a := 0 } (edging 0 [0xFF800000] [] []) (edOut 0 4) = 0xBF800000 := by decide +kernel
/-- 2 ^ ((3 − 1) × 3) = 64. -/
theorem test_edExpd : edOutOf .expd { d := 3, a := 0, b := 1, imm := f3 } (edging 0 [f3] [f1] []) (edOut 0 4) = 0x42800000 := by decide +kernel
/-- The example of R113: in a block with 500, the scale is 127, 500 saturates to 448 and 300 goes to 288. -/
theorem test_edQmx_e4m3 : edOutOf .qmx { d := 3, a := 0, n := 32 } (edging 3 ([0x43FA0000, 0x43960000] ++ List.replicate 30 0) [] [])
    (fun t => (edOut 0 2 t, edOut 512 1 t, (t.getStand 0).edSat.n)) = (0x797E, 127, 1) := by decide +kernel
/-- Its second part: of 5.3 and 0.7, with scale 127, E2M1 makes 6 and 0.5. -/
theorem test_edQmx_e2m1 : edOutOf .qmx { d := 3, a := 0, n := 32 } (edging 8 ([0x40A9999A, 0x3F333333] ++ List.replicate 30 0) [] [])
    (fun t => (edOut 0 1 t, edOut 512 1 t)) = (0x17, 127) := by decide +kernel
theorem test_edRsum : edOutOf .rsum { d := 3, a := 0, n := 4, imm := 2 } (edging 0 [f1, f2, f3, f3] [] []) (edOut 0 8) = 0x40C0000040400000 := by decide +kernel
theorem test_edRssq : edOutOf .rssq { d := 3, a := 0, n := 2, imm := 2 } (edging 0 [f2, f3] [] []) (edOut 0 4) = 0x41500000 := by decide +kernel
/-- R111: a group of negative values yields its largest negative value. -/
theorem test_edRmax : edOutOf .rmax { d := 3, a := 0, n := 2, imm := 2 } (edging 0 [0xC0400000, 0xBF800000] [] []) (edOut 0 4) = 0xBF800000 := by decide +kernel
theorem test_edRmin : edOutOf .rmin { d := 3, a := 0, n := 2, imm := 2 } (edging 0 [f2, f1] [] []) (edOut 0 4) = f1 := by decide +kernel
/-- R112: of 2^24, 1, 1 and 1, SEQ loses every 1, and TREE adds 2. -/
theorem test_edRcomb_seq : edOutOf .rcomb { d := 3, a := 0, fn := 1, imm := 4 } (edging 0 [0x4B800000, f1, f1, f1] [] []) (edOut 0 4) = 0x4B800000 := by decide +kernel
theorem test_edRcomb_tree : edOutOf .rcomb { d := 3, a := 0, fn := 0, imm := 4 } (edging 0 [0x4B800000, f1, f1, f1] [] []) (edOut 0 4) = 0x4B800001 := by decide +kernel
/-- R114: the two largest of four, equal values by lower index first, with the immediate added to each index. -/
theorem test_edTopkf : edOutOf .topkf { d := 3, a := 0, n := 4, k := 2, imm := 100 } (edging 0 [f1, f3, f2, f3] [] []) (edOut 0 16) =
    (0x40400000 + 101 * 2 ^ 32 + 0x40400000 * 2 ^ 64 + 103 * 2 ^ 96) := by decide +kernel

theorem test_edOpen : got (.edOpen 0 {} 31 4 true false false 0) (headed 1 (word 0 0 (31 * 2 ^ 72 + 4 * 2 ^ 60 + 2 ^ 59)) live)
    (fun t => (((t.getStand 0).getSlot 31).isOpen, ((t.getStand 0).getSlot 31).out)) = some (true, true) := by decide +kernel
theorem test_edClose : got (.edClose 0 {} 3) (headed 1 (word 0 1 (3 * 2 ^ 72)) (edging 0 [] [] [])) (fun t => ((t.getStand 0).getSlot 3).isOpen) = some false := by decide +kernel
/-- R106: the entry's tile, and its SUSPECT mark. -/
theorem test_edTake : got (.edTake 0 {} 6) (headed 1 (word 0 2 (6 * 2 ^ 72)) (onStand fun t => { t with ftq := [{ tag := 1, handle := 3, aoff := 64, r0 := 4, rows := 2, fmt := 0, suspect := true, cycle := 100 }] }))
    (fun t => ((t.getStand 0).ftq.length, ((t.getStand 0).getSlot 6).handle, ((t.getStand 0).getSlot 6).aoff, ((t.getStand 0).getSlot 6).suspect)) = some (0, 3, 64, true) := by decide +kernel

/-- The live device with address registers 2 and 3 of stand 0, and stand 17, of die A's mirror, held by the plan. -/
def regs (a b : Nat) : State := (onStand fun t => { t with ar := [(2, a), (3, b)] }).updStand 17 fun t => { t with ctx := some 0 }
/-- What an address operation makes of register 4, its word at the head of stream 3. -/
def ar (i : Instr) (op fields : Nat) (s : State) : Option Nat := got i (headed 3 (word 0 op (4 * 2 ^ 73 + fields)) s) fun t => (t.getStand 0).getAr 4
/-- R205, R213: immediates are signed, sums wrap at 64 bits, and AR_SHR keeps the sign. -/
theorem test_arSet : ar (.arSet 0 3 0 4 (2 ^ 48 - 1)) 0x34 (2 ^ 48 - 1) (regs 0 0) = some (2 ^ 64 - 1) := by decide +kernel
theorem test_arAddi : ar (.arAddi 0 3 0 4 2 (2 ^ 48 - 8)) 0x35 (2 * 2 ^ 69 + 2 ^ 48 - 8) (regs 7 0) = some (2 ^ 64 - 1) := by decide +kernel
theorem test_arAdd : ar (.arAdd 0 3 0 4 2 3) 0x36 (2 * 2 ^ 69 + 3 * 2 ^ 65) (regs (2 ^ 63) (2 ^ 63 + 5)) = some 5 := by decide +kernel
theorem test_arShl : ar (.arShl 0 3 0 4 2 63) 0x37 (2 * 2 ^ 69 + 63) (regs 3 0) = some (2 ^ 63) := by decide +kernel
theorem test_arShr : ar (.arShr 0 3 0 4 2 62) 0x38 (2 * 2 ^ 69 + 62) (regs (2 ^ 63) 0) = some (2 ^ 64 - 2) := by decide +kernel
theorem test_arMuli : ar (.arMuli 0 3 0 4 2 (2 ^ 32 - 1)) 0x39 (2 * 2 ^ 69 + 2 ^ 32 - 1) (regs 7 0) = some (2 ^ 64 - 7) := by decide +kernel
theorem test_arBnd_clamp : ar (.arBnd 0 3 0 4 2 true 10) 0x3A (2 * 2 ^ 69 + 2 ^ 64 + 10) (regs 12 0) = some 10 := by decide +kernel
theorem test_arBnd_wrap : ar (.arBnd 0 3 0 4 2 false 10) 0x3A (2 * 2 ^ 69 + 10) (regs 12 0) = some 2 := by decide +kernel
/-- R206: column 17 of a row of 16 stands is active column 17 − 16 + 8. -/
theorem test_arConst : live.planConst 17 4 = 9 ∨ (regs 0 0).planConst 17 4 = 9 := by decide +kernel
theorem test_arConst_reserved : exec (.arConst 0 3 0 4 8) live = .refused (.reserved "AR_CONST SEL") := rfl

def stream2 (t : State) : Stream := (t.getStand 0).getStream 2
/-- R208: ⌊16 × 5 / 2^3⌋ = 10 trips. -/
theorem test_loop : got (.loop 0 2 true 3 5 64) (headed 2 (word 0 0x32 (2 ^ 76 + 3 * 2 ^ 72 + 5 * 2 ^ 52 + 64 * 2 ^ 32)) live) (fun t => (stream2 t).loops) = some [⟨129, 10, 0, 64⟩] := by decide +kernel
theorem test_loopEnd : got (.loopEnd 0 2) ((headed 2 (word 0 0x33 0) live).updStand 0 fun t => t.updStream 2 fun q => { q with loops := [⟨4, 2, 0, 64⟩] }) (fun t => ((stream2 t).pc, (stream2 t).loops)) =
    some (4, [⟨4, 2, 1, 64⟩]) := by decide +kernel
theorem test_clRing : got (.clRing 0 2 2) (headed 2 (word 0 0x31 2) live) (fun t => ((stream2 t).ended, (stream2 t).nextSect)) = some (true, 128) := by decide +kernel
/-- R43, R195: the stamp is reached and the tokens are there; the tokens are taken. -/
theorem test_nop : got (.nop 0 2 { stamp := 100, wt := 5, wtn := 1 }) (headed 2 (word 100 0x30 0 5 1) (onStand fun t => { t with tok := [(5, { n := 3 })] })) (fun t => ((t.getStand 0).getTok 5).n) = some 1 := by decide +kernel
/-- R43, R218: its stamp is not reached, and the stream's WAIT says so. -/
theorem test_nop_early : got (.nop 0 2 { stamp := 101 }) (headed 2 (word 101 0x30 0) live) (fun t => ((stream2 t).pc, (t.waitOf 0 2).code)) = some (128, 1) := by decide +kernel
theorem test_instructionComplete : got (.instructionComplete 0 1) (onStand fun t => { t with ops := [{ id := 4, stream := 1, due := 100, pt := 7, pc := 0, suspect := false, kind := .plain }] })
    (fun t => ((t.getStand 0).ops, Cnt.total ((t.getStand 0).getTok 7))) = some ([], 1) := by decide +kernel
theorem test_fgPost : got (.fgPost 0 {} false 31 4096 0) (headed 3 (word 0 0 (31 * 2 ^ 71 + 4095 * 2 ^ 59)) live) (fun t => t.net.pkts.map (·.payload)) = some [.token false 31 4096 false] := by decide +kernel
theorem test_fgNotch : (got (.fgNotch 0 {} 1 7 0 0 65) (headed 3 (word 0 1 (2 ^ 75 + 7 * 2 ^ 59 + 65)) live) (fun t => t.net.pkts.map (fun p => match p.payload with | .notch o n v _ => (o, n, v) | _ => (9, 0, 0)))) =
    some [(1, 7, 65)] := by decide +kernel

/-! The Headrig: a tile of INT8 weights at lines 0 on, activations at line 100, results at line 200. -/

/-- A Deck descriptor with two dimensions: TILED of 2 tiles. -/
def tiled : List Nat := [2 ^ 63 + 5 * 2 ^ 55 + 2 ^ 51 + 2 * 2 ^ 48 + 2 ^ 47 + 2 ^ 45, 0, 2 ^ 40, 2 * 2 ^ 40 + 16384, 2 ^ 40, 2 ^ 40, 2 ^ 40, 0]
def headrig : State := onStand fun t =>
  { t with
    own := [(0, 0)], pwr := [(0, 2)], cls := [(0, 1)]
    desc := [(1, tiled), (2, vec 5 51200 128 false), (3, vec 0 102400 64 false)]
    mem := memWrite (memWrite (memWrite [] 102400 [0, 0, 0x80, 0x3F]) 51200 [2, 0xFF]) 0 [3]
    buf := [(0, { full := true, bytes := [3], fmt := 5 })] }
/-- A job of the Headrig with its lines read. -/
def hrJob (k : JobKind) (ls : List Int) : Job := { id := 0, stream := 0, kind := k, acts := [], got := deckTab (headrig.getStand 0).mem ls }
def rowCol (r c : Nat) (t : State) : Int := (((t.getStand 0).row r).cols).getD c 0
theorem test_hrLoad : let t := standStage 0 (hrJob (.load 1 1 0) [0]) (.stage 0) headrig
    (((t.getStand 0).getBuf 1).full, ((t.getStand 0).getBuf 1).bytes.take 2, ((t.getStand 0).getBuf 1).fmt) = (true, [3, 0], 5) := by decide +kernel
/-- R91: HW is busy for a cycle for each line of the tile, and the last line lands 4 cycles after its read. -/
theorem test_hrLoad_issue : got (.hrLoad 0 {} 1 0 1 false 0) (headed 0 (word 0 0 (2 ^ 65 + 2 ^ 64)) headrig)
    (fun t => ((t.getStand 0).hwFree, ((t.getStand 0).getBuf 1).lastRead, ((t.getStand 0).getBuf 1).landed)) = some (120, 119, 123) := by decide +kernel
/-- Activation 2 on weight 3 in column 0: 6 in units of 2^-300. -/
theorem test_hrMul : rowCol 5 0 (standStage 0 (hrJob (.mul 2 0 0 5 true) [100]) (.stage 0) headrig) = 6 * 2 ^ 300 := by decide +kernel
/-- HR_ADDX of the FP32 row whose column 0 is 1.0, with INIT. -/
theorem test_hrAddx : let t := standStage 0 (hrJob (.addx 3 0 true 31 true) [200]) (.stage 0) headrig
    (rowCol 31 0 t, rowCol 31 1 t) = (2 ^ 300, 0) := by decide +kernel
theorem test_hrDrain : got (.hrDrain 0 {} 3 2 5 0 false 0 true 7 false 0) (headed 0 (word 0 3 (3 * 2 ^ 65 + 2 ^ 54 + 5 * 2 ^ 49 + 2 ^ 33 + 7)) headrig)
    (fun t => (t.getStand 0).drains.map fun d => (d.rows, d.r0, d.tag, d.push, d.next)) = some [(2, 5, 7, true, 0)] := by decide +kernel
/-- R86: a row whose check accumulator is the sum of its columns passes, and the drain goes on to its next row. -/
theorem test_drainRowCheck : got (.drainRowCheck 0) (draining 448 0) (fun t => (t.getStand 0).drains.map fun d => (d.next, d.mask)) = some [(1, 0)] ∧
    got (.drainRowCheck 0) (draining 449 0) (fun t => ((t.getStand 0).mismatch.n, (t.getStand 0).hrRec.valid)) = some (1, true) := by decide +kernel

/-! The Skidder and the Deck. -/

/-- Four INT32 at line 0, a copy's place at line 1. -/
def deck : State := onStand fun t =>
  { t with
    own := [(0, 3)], pwr := [(0, 2)]
    desc := [(1, vec 9 0 4 false), (2, vec 9 512 4 false)]
    mem := memWrite [] 0 ([10, 20, 30, 40].map (leBytes 4)).flatten }
/-- A line that lands with byte enables (R124, R134). -/
theorem test_land : (memRead (((deck.getStand 0).land 0 (ofLe [7, 8, 9]) 5 []).mem) 0 4).map (·.toNat) = [7, 0, 9, 0] := by decide +kernel
/-- R228: its one source line is read in the issue cycle, and the line that it makes is written. -/
theorem test_skMove : got (.skMove 0 {} 1 2 false 0 false 0 0 0) (headed 2 (word 0 0 (2 ^ 65 + 2 * 2 ^ 53)) deck)
    (fun t => (((t.getStand 0).jobs.map (·.acts)).flatten).map fun a => match a.2 with | .write p l img be => (p, l, img, be) | _ => (9, 0, 0, 0)) =
    some [(portSK, 1, 10 + 20 * 2 ^ 32 + 30 * 2 ^ 64 + 40 * 2 ^ 96, 0xFFFF)] := by decide +kernel
theorem test_skOwn : got (.skOwn 0 {} 1 1) (headed 2 (word 0 2 (2 ^ 32 + 1)) deck) (fun t => ((t.getStand 0).owner 0, (t.getStand 0).later)) = some (3, [(101, .own 1 1)]) := by decide +kernel
theorem test_skPwr : got (.skPwr 0 {} 0 1) (headed 2 (word 0 3 1) deck) (fun t => ((t.getStand 0).power 0, (t.getStand 0).later)) = some (2, [(101, .power 0 1)]) := by decide +kernel
/-- R151: a bank that goes OFF loses its contents. -/
theorem test_bankTransitionDone : got (.bankTransitionDone 0 0) (deck.updStand 0 fun t => { t with pwr := [(0, 3)], pwrTo := [(0, (0, 100))] }) (fun t => ((t.getStand 0).power 0, (t.getStand 0).mem)) =
    some (0, []) := by decide +kernel
/-- R148: a single flipped bit of a line is corrected, counted, and rewritten later. -/
theorem test_skScrub : got (.skScrub 0 {} 0 1) (headed 2 (word 0 4 1) (deck.updStand 0 fun t => { t with flip := [(3, 1)] })) (fun t => ((t.getStand 0).corr.n, (t.getStand 0).jobs.length)) = some (1, 1) := by decide +kernel
theorem test_injects : got (.standHrInject 0 (2 ^ 63)) live (fun t => (t.getStand 0).hrInject.arm) = some false ∧
    got (.standEdInject 0 (2 ^ 63 + 5)) (live.updCtx 0 fun c => { c with debug := true }) (fun t => ((t.getStand 0).edInject.arm, (t.getStand 0).edInject.w)) = some (true, 5) ∧
    got (.standDkInject 0 (2 ^ 63 + 1)) (live.updCtx 0 fun c => { c with debug := true }) (fun t => (t.getStand 0).dkInject.arm) = some true ∧
    got (.standFlInject 0 (2 ^ 63)) live (fun t => t.net) = some live.net := by decide +kernel

set_option maxRecDepth 100000

/-! Rings, plans and time. -/
theorem test_ringBoundary : got .ringBoundary ({ live with ael := { seeded := true } }) (fun t => (t.ring.count, t.ring.cycle)) = some (6, 0) := by decide +kernel
theorem test_load : got (.load 0 9 2) (inState .loaded) (fun t => (t.getCtx 0).lastStatus) = some 1 := by decide +kernel
theorem test_load_tag : got (.load 0 0 2) imaged (fun t => (t.getCtx 0).lastStatus) = some 7 := by decide +kernel
/-- R62: a start ring less than the current ring plus 2 is late. -/
theorem test_arm : ∀ x ∈ [(6, 2, PState.loaded), (7, 0, .armed)], got (.arm 0 false) ((inState .loaded).updCtx 0 fun c => { c with start := x.1 }) (fun t => ((t.getCtx 0).lastStatus, (t.getCtx 0).state)) =
    some x.2 := by decide +kernel
theorem test_go : got (.go 0) ((inState .armed).updCtx 0 fun c => { c with armStart := 7 }) (fun t => ((t.getCtx 0).goHeld, (t.getCtx 0).lastStatus)) = some (true, 0) := by decide +kernel
theorem test_stop : got (.stop 0) live (fun t => (t.getCtx 0).state) = some .stopping := by decide +kernel
theorem test_disarm : got (.disarm 0) (inState .halted) (fun t => (t.getCtx 0).state) = some .loaded := by decide +kernel
theorem test_unload : got (.unload 0) live (fun t => (t.getCtx 0).lastStatus) = some 1 := by decide +kernel
/-- R53: the flag waits for the other ports, and the plan halts at the next boundary. -/
theorem test_abort : got (.abort 0 9 3) linked (fun t => ((t.getCtx 0).halt.map fun h => (h.cause, h.ring), (t.getCtx 0).abortSeen)) = some (some (0x0105, 6), [3]) := by decide +kernel
theorem test_stretch : got (.stretch 0) live (fun t => (t.getCmp 0).droop) = some true := by decide +kernel

/-! The Flume. -/
theorem test_flitForward : got (.flitForward (.node 0) 2 false) (flitWaits 1 aFlit) (fun t => t.net.flits.map fun f => (f.loc, f.inPort)) = some [(.node 32, 0)] := by decide +kernel
/-- R144: an arrival from domain 1 is dropped at a stand of domain 0. -/
theorem test_flitArrival_fence : got (.flitArrival 0 false) (arriving 1) (fun t => (t.net.flits.length, (t.getStand 0).fence.n)) = some (0, 1) := by decide +kernel
/-- R124, R142: the line is on its way into the Deck. -/
theorem test_flitArrival : got (.flitArrival 0 false) ((arriving 0).updStand 0 fun t => { t with own := [(0, 3)], pwr := [(0, 2)] }) (fun t => (t.getStand 0).later.map (·.1)) = some [104] := by decide +kernel
theorem test_packetForward : got (.packetForward (.node 0) 1) ({ withPacket aToken with net := { pkts := [{ aToken with loc := .node 0, inPort := 0, route := [1, 2, 4] }], node := [(0, { slots := [(100, (2 * 2 ^ 22) * 2 ^ 24)] })] } })
    (fun t => t.net.pkts.map fun p => (p.loc, p.ptr)) = some [(.node 1, 1)] := by decide +kernel
theorem test_token : got (.token (.stand 0) false) (withPacket aToken) (fun t => (t.net.pkts.length, Cnt.total ((t.getStand 0).getTok 31))) = some (0, 4096) := by decide +kernel
/-- R138, R140: 5 added to the 32-bit element at offset 8, and the old value sent back. -/
theorem test_atomic : got (.atomic 0 false) ((withPacket anAtomic).updStand 0 fun t => { t with own := [(0, 3)], pwr := [(0, 2)], mem := [(8, 250)] })
    (fun t => t.net.pkts.map fun p => match p.payload with | .atomReply old _ _ => old | _ => 0) = some [250] := by decide +kernel
theorem test_nack : got (.nack (.stand 0) false) (nacked [] []) (fun t => (t.net.pkts.length, (t.getNode (.stand 0)).resends.length)) = some (0, 0) := by decide +kernel
theorem test_flumeResend : got (.flumeResend (.node 0) 1) (nacked [] [(anItem, true)]) (fun t => ((t.getNode (.node 0)).resends.length, t.net.flits.map fun f => (f.loc, f.resent))) =
    some (0, [(.node 1, true)]) := by decide +kernel

/-! Links. -/
/-- R258: a request for the first frame of two moves both to the frames that wait for a slot. -/
theorem test_resendReq : got (.resendReq 0 65535 2) ({ onPort (fun a => { a with replay := [{ lseq := 65535 }, { lseq := 0 }] }) with
      ring := { lenLog2 := 14, cycle := 16382 }, cmp := (List.range 20).map fun k => (k, { loc := 16382 }), net := { bridge := [(4095, (3 * 2 ^ 30 + 32 * 2 ^ 18))] } })
    (fun t => (t.getAel 0).pend.map (·.lseq)) = some [65535, 0] := by decide +kernel
/-- R269: a frame of a tag that no context of the port's domain holds is dropped and counted. -/
theorem test_frameReceive : got (.frameReceive 0 0 (sealFr { tag := 8, ftype := 2, lseq := 4 }) 0 0 0) linked (fun t => (t.getAel 0).tagDrop.n) = some 1 := by decide +kernel
theorem test_probe : got (.probe 0 77 0) linked (fun t => (t.getAel 0).ctl.length) = some 1 := by decide +kernel
theorem test_down : got (.down 0 (some 0)) linked (fun t => (t.getAel 0).downAsked) = some true := by decide +kernel
theorem test_laneLockLoss : got (.laneLockLoss 0) linked (fun t => (t.getAel 0).state) = some 0 := by decide +kernel
theorem test_aelMapData : got (.aelMapData 0 (2 ^ 16 + 5)) ({ live with ctx := [] } : State) (fun t => t.ael.map) = some [(0, (true, 5))] := by decide +kernel

/-! Notches and queues. -/
/-- R291: the reply to a READ carries the value. -/
theorem test_notchRead : ((atBank 2 7 0 fun x => { x with n := [(7, { value := 9 })] }).notchCycle.net.pkts.map fun p => match p.payload with | .notchReply v _ _ _ _ _ => v | _ => 0) = [9] := by
  decide +kernel
/-- A notch outside the LD's range is fenced. -/
theorem test_hostNotchAdd : got (.hostNotchAdd 0 8 1) live (fun t => (t.getNotch 8).value) = some 0 := by decide +kernel
theorem test_hostNotchMode : got (.hostNotchMode 0 7 (2 ^ 58)) live (fun t => (t.getNotch 7).wmode) = some 1 := by decide +kernel
/-- R291: an ADD past 2^32 − 1 saturates, and a SET only stores. -/
theorem test_notchAdd : notchAfter 0 2 { value := 0xFFFFFFFE } = { value := 0xFFFFFFFF, sat := true } := by decide
theorem test_notchSet : notchAfter 1 65 { value := 7 } = { value := 65 } := by decide
/-- R310: a ring of fewer than 2 entries is no value of QCTX word 2. -/
theorem test_qctxData : (({} : Queue).setWord 2 (10 * 2 ^ 32 + 4)).map (fun x => (x.defWait, x.size)) = some (10, 4) ∧ ({} : Queue).setWord 2 (10 * 2 ^ 32 + 1) = none := by decide
/-- R303: CONS wraps at SIZE. -/
theorem test_passEntry : (((queued { active with cons := 3 } none).passEntry 0 0 0).getQueue 0).cons = 0 := by decide
/-- R305: an expired WAIT faults the queue with status 1 and is counted as expired. -/
theorem test_faultQueue : let t := (queued active none).faultQueue 0 0 1 2
    ((t.getQueue 0).state, (t.getQueue 0).status, (t.getQueue 0).faultIdx, (t.getQld 0).expired.n) = (3, 1, 2, 1) := by decide +kernel

set_option maxRecDepth 100000

/-! Device memory and weight sets. -/
theorem test_memReadEntry : got (.memReadEntry 0 0) ({ served .running with cmp := [(18, { loc := 100 })], mem := { (served .running).mem with mem := [(1048576, 9)], port := [(0, { reads := [aReq false 0 1048576] })] } })
    (fun t => ((t.getPort 0).reads.length, t.net.flits.map fun f => (f.payload.headD 0, f.last))) = some (0, [(9, true)]) := by decide +kernel
theorem test_memWriteEntry : got (.memWriteEntry 0 0) ({ served .running with cmp := [(18, { loc := 101 })], mem := { (served .running).mem with port := [(0, { writes := [aReq true 0 1048576], data := [{ aFlit with loc := .ctrl 0, be := 2 ^ 64 - 1 }] })] } })
    (fun t => (memGet ((List.range 7).foldl (fun t _ => t.landDram) t).mem.mem 1048576, memGet ((List.range 8).foldl (fun t _ => t.landDram) t).mem.mem 1048576, (t.getPort 0).writes.length)) = some (0, 7, 0) := by decide +kernel
theorem test_selfRefreshEntry : got (.selfRefreshEntry 1) ({ served .loaded with ring := { lenLog2 := 14, cycle := 4096 } }) (fun t => (t.getUnit 1).selfRefresh) = some true ∧
    got (.selfRefreshEntry 1) ({ served .loaded with ring := { lenLog2 := 14, cycle := 4095 } }) (fun t => (t.getUnit 1).selfRefresh) = some false := by decide +kernel
/-- R343, R348: SEAL closes a set that is BUILDING; SWITCH needs one that is READY. -/
theorem test_seal : got (.sealSet 0 255 []) (withSet 1) (fun t => ((t.getSet 255).state, (t.getBuck 0).resStatus)) = some (2, 0) := by decide +kernel
theorem test_seal_wrong : got (.sealSet 0 255 []) (withSet 3) (fun t => (t.getSet 255).state) = some 3 := by decide +kernel
theorem test_switch : got (.switch 0 255) (withSet 2) (fun t => t.weight.switches.map fun w => (w.set, w.ring)) = some [(255, 5)] := by decide +kernel
theorem test_release : got (.release 0 255 []) (withSet 5) (fun t => (t.getSet 255).state) = some 0 := by decide +kernel
theorem test_drain : got (.drain 0 2) (withSet 3) (fun t => t.weight.drains.map fun x => (x.dom, x.model, x.on)) = some [(0, 2, false)] := by decide +kernel
theorem test_jobResume : got (.jobResume 0) (jobbed { stopped := true, jobProd := 1 } []) (fun t => (t.getBuck 0).stopped) = some false := by decide +kernel
theorem test_buckJobDoorbell : got (.buckJobDoorbell 0 (3 * 2 ^ 32 + 4)) (jobbed {} []) (fun t => ((t.getBuck 0).jobProd, (t.getBuck 0).jobSize)) = some (3, 4) := by decide +kernel
theorem test_buckerJobComplete : got (.buckerJobComplete 0) (jobbed { done := some { type := 1, status := 3, set := 3, notch := 0xFFFF, add := 0 } } []) (fun t => ((t.getBuck 0).done, (t.getBuck 0).jobFail.n)) =
    some (none, 1) := by decide +kernel

/-! Registers of rings, tallies and signatures. -/
theorem test_ringRegisters : (hostRings 0).map (fun r => got (r.1 0 0x10000) ({ given with ctx := [] } : State) (fun t => (r.2.2.2.1 t).base)) = List.replicate 4 (some 0x10000) := by decide +kernel
theorem test_ringSizes : (hostRings 0).map (fun r => got (r.2.1 0 64) ({ given with ctx := [] } : State) (fun t => (r.2.2.2.1 t).size)) = List.replicate 4 (some 64) := by decide +kernel
/-- R389: CONS does not pass PROD. -/
theorem test_lndOutIdx : got (.lndOutIdx 0 (3 * 2 ^ 32)) ({ given with hub := { lnd := [(0, { out := { size := 64, prod := 4 } })] } }) (fun t => (t.getLnd 0).out.cons) = some 3 ∧
    got (.lndOutIdx 0 (5 * 2 ^ 32)) ({ given with hub := { lnd := [(0, { out := { size := 64, prod := 4 } })] } }) (fun t => (t.getLnd 0).out.cons) = some 0 := by decide +kernel
theorem test_lndOutWb : got (.lndOutWb 0 0x1008) ({ given with ctx := [] } : State) (fun t => (t.getLnd 0).wb) = some 0x1008 := by decide +kernel
theorem test_tallySignCmd : got (.tallySignCmd 0 1) (withTally fun t => { t with seq := 5, head := zeros 64 }) (fun t => (t.getTally 0).owed.map (·.1)) = some [4] := by decide +kernel
theorem test_tallySignCfg : got (.tallySignCfg 0 7) ({ live with ctx := [] } : State) (fun t => (t.getTally 0).signInterval) = some 7 := by decide +kernel
theorem test_tallyTwinCfg : got (.tallyTwinCfg 0 (2 ^ 63 + 11)) ({ live with ctx := [] } : State) (fun t => ((t.getTally 0).twinEn, (t.getTally 0).twinPort)) = some (true, 11) := by decide +kernel
theorem test_twin : got (.twin 0 4 77) (linked.updTally 0 fun t => { t with twinEn := true }) (fun t => (t.getTally 0).twinPeer) = some (some (4, 77)) := by decide +kernel
theorem test_registerWrite : got (.registerWrite 0 0 0x600018 7 []) ({ live with ctx := [] } : State) (fun t => (t.getTally 0).signInterval) = some 7 := by decide +kernel
theorem test_registerWrite_locked : got (.registerWrite 0 0 0x300000 1 []) live (fun t => (t.prot == live.prot, (tget {} t.host.drops 0).n)) = some (true, 1) := by decide +kernel

/-! Landing and Grader. -/
theorem test_graderUnload : got (.graderUnload 0 3) live (fun t => (t.getGr 0).resStatus) = some 5 := by decide +kernel
theorem test_graderLoad : got (.graderLoad 0) (objects 1 128) (fun t => ((t.getGr 0).resStatus, (t.getGr 0).resHandle, t.hub.obj.length)) = some (0, 0, 1) := by decide +kernel
theorem test_graderPhaseComplete : got (.graderPhaseComplete 0) ({ live with hub := { gr := [(0, { due := some (100, 2) })] } }) (fun t => ((t.getGr 0).due, (t.getGr 0).done)) = some (none, true) := by decide +kernel

/-! Power, repair and the tree. -/
theorem test_pwrWarn : got .pwrWarn live (fun t => (t.repair.warn, (t.getCtx 0).halt.map fun h => (h.cause, h.ring))) = some (true, some (0x0803, 6)) := by decide +kernel
theorem test_pwrWarnRelease : got .pwrWarnRelease { live with repair := { warn := true } } (fun t => t.repair.warn) = some false := by decide +kernel
theorem test_tempSample : got (.tempSample [95] [] []) live (fun t => (t.therm.trip, (t.getCtx 0).halt.map (·.cause))) = some (true, some 0x0802) := by decide +kernel
theorem test_shift : got (.shift 0 31 3) { live with ctx := [] } (fun t => (t.repair.shState, t.repair.shRing)) = some (1, 6) := by decide +kernel
theorem test_rowShifted : got .rowShifted { live with ring := { live.ring with count := 7 }, repair := { shState := 2, shRing := 5, shRow := 31, shPos := 3 } } (fun t => ((t.getRow 31).shift, t.repair.shState)) =
    some (3, 3) := by decide +kernel
theorem test_start : got (.start 0 false) (treed .loaded { lw := 1, lh := 0 } []) (fun t => ((t.getBc 0).state, (t.getBc 0).waitFor, (t.getCtx 0).state)) = some (1, [1], .armed) := by decide +kernel
theorem test_abandon : got (.abandon 0) (treed .armed { state := 1 } []) (fun t => (t.getBc 0).state) = some 4 := by decide +kernel
theorem test_controlArm : got (.controlArm false) (treed .loaded {} [ctlPkt (aCtl 1)]) (fun t => ((t.getCtx 0).state, t.net.pkts.map fun p => match p.payload with | .control c => (c.cmd, c.count, c.ok) | _ => (0, 0, false))) =
    some (.armed, [(3, 1, true)]) := by decide +kernel
theorem test_controlGo : got (.controlGo false) (treed .armed { state := 1 } [ctlPkt (aCtl 2)]) (fun t => (t.getCtx 0).goHeld) = some true := by decide +kernel
theorem test_confirm : got (.confirm false) (treed .armed { state := 1, waitFor := [1, 2] } [ctlPkt { aCtl 3 with ok := true, count := 4 }]) (fun t => ((t.getBc 0).waitFor, (t.getBc 0).below)) = some ([2], 4) := by
  decide +kernel

/-! Resets, management and the host. -/
theorem test_coldReset : got .coldReset live (fun t => (t.sec.stage, t.pins.cold, t.ctx.length)) = some (0, true, 0) := by decide +kernel
theorem test_perstN : got .perstN (pinned free) (fun t => (t.sec.cause, t.pins.perst)) = some (1, true) := by decide +kernel
/-- R479: without reference edges boot stops in FAILED with code 3. -/
theorem test_resetRelease : got (.resetRelease { ref := false }) State.reset (fun t => (t.sec.stage, t.sec.failCode)) = some (15, 3) := by decide +kernel
theorem test_idcode : got (.idcode {}) live (fun t => t.out) = some [.tdo 0x1F4040F3] := by decide +kernel
theorem test_getStatus : got (.getStatus 5) (staged 15 false) (fun t => t.out.map fun e => match e with | .fjotal c g s bs => (c, g, s, bs.length) | _ => (0, 0, 9, 0)) = some [(1, 5, 0, 40)] := by decide +kernel
theorem test_readReg : got (.readReg 5 0 0x600018 1) (staged 10 false) (fun t => t.out) = some [.fjotal 2 5 0 (leBytes 8 1024)] := by decide +kernel
theorem test_writeReg : got (.writeReg 5 0 0x300000 1) (staged 10 false) (fun t => t.out) = some [.fjotal 3 5 1 []] := by decide +kernel
theorem test_updateBegin : got (.updateBegin 5) (staged 10 false) (fun t => (t.mgmt.updOpen, t.mgmt.updCopy, t.sec.bState)) = some (true, 1, 1) := by decide +kernel
theorem test_updateWrite : got (.updateWrite 5 4095 [1]) (staged 10 true) (fun t => t.out) = some [.fjotal 0x11 5 2 []] := by decide +kernel
theorem test_updateAbort : got (.updateAbort 5) (staged 10 true) (fun t => t.mgmt.updOpen) = some false := by decide +kernel
theorem test_setdasa : got (.setdasa 0x3A 9) (staged 10 false) (fun t => t.mgmt.dyn) = some 9 := by decide +kernel
theorem test_getVersion : got .getVersion (staged 10 false) (fun t => t.out.length) = some 1 := by decide +kernel
theorem test_snoop : got .snoop live (fun t => t.out) = some [.rspIHitI] := by decide +kernel
theorem test_hostLinkDown : got .hostLinkDown live (fun t => t.host.link) = some 0 := by decide +kernel
/-- R500: a read while the plan is engaged is poisoned. -/
theorem test_cxlMemAccess : got (.cxlMemAccess 0 0 false 0 []) (hosted .running) (fun t => (t.out.map fun e => match e with | .cxlData _ _ _ p => p | _ => false, (tget {} t.host.memDrop 0).n)) = some ([true], 1) := by
  decide +kernel
theorem test_cxlMemAccess_write : got (.cxlMemAccess 0 0 true 2 [1, 2]) (hosted .loaded) (fun t => memRead t.mem.mem 1048576 3) = some [0, 2, 0] := by decide +kernel
theorem test_msixUnmask : got (.msixUnmask 0 3) ({ live with host := { live.host with msix := [(0, [(3, { addr := 0x1000, pend := true })])] } }) (fun t => t.out) = some [.msix 0 3] := by decide +kernel
theorem test_hostReadCompletion : got (.hostReadCompletion (.job 0) (some [1])) live (fun t => t.host.reads) = some [(.job 0, some [1])] := by decide +kernel
theorem test_flr : got (.flr 0) live (fun t => ((t.getCtx 0).state, (t.getCtx 0).disarmAtHalt)) = some (.stopping, true) := by decide +kernel

end Sys2Proof.Tests
end

section
/-! SUPPORT. What an event changes (R450): its count, and the event ring of its LD or the count of lost events. -/

namespace Sys2Proof.Machine

variable (s : State)

@[simp] theorem State.sendMsi_tally (ld v : Nat) : (s.sendMsi ld v).tally = s.tally := by
  unfold State.sendMsi; dsimp only; (repeat' split) <;> rfl

/-- A message of a vector only adds to what the device has sent. -/
theorem State.sendMsi_out (ld v : Nat) : ∃ more, (s.sendMsi ld v).out = s.out ++ more := by
  unfold State.sendMsi; dsimp only; split
  · exact ⟨[], (List.append_nil _).symm⟩
  · split
    · exact ⟨[], (List.append_nil _).symm⟩
    · exact ⟨_, rfl⟩

theorem State.putEvent_full {ld : Nat} (r : List Byte) (h : (s.getTally ld).evt.free = 0) :
    s.putEvent ld r = s.updTally ld fun t => { t with evtLost := t.evtLost.add 1 } := by
  simp [State.putEvent, h]

theorem State.putEvent_room {ld : Nat} (r : List Byte) (h : (s.getTally ld).evt.free ≠ 0) :
    s.putEvent ld r =
      let t := s.getTally ld
      let u := (s.hostWrite ld (t.evt.addr 32 t.evt.prod) r).updTally ld fun t => { t with evt := t.evt.push }
      if t.evtMsi then u.sendMsi ld t.evtVector else u := by
  simp [State.putEvent, h]

/-- An event with place in the ring of its LD is the first thing sent, before the message of its vector. -/
theorem State.putEvent_out {ld : Nat} (r : List Byte) (h : (s.getTally ld).evt.free ≠ 0) :
    ∃ more, (s.putEvent ld r).out =
      s.out ++ .hostWrite ld ((s.getTally ld).evt.addr 32 (s.getTally ld).evt.prod) r :: more := by
  rw [s.putEvent_room r h]; dsimp only; split
  · obtain ⟨more, hmore⟩ := State.sendMsi_out _ _ _
    exact ⟨more, by rw [hmore, State.updTally_out]; simp [State.hostWrite]⟩
  · exact ⟨[], rfl⟩

/-- Where an event goes says nothing of the running step. -/
@[simp] theorem State.putEvent_acc (ld : Nat) (r : List Byte) : ((s.putEvent ld r).getTally ld).acc = (s.getTally ld).acc := by
  by_cases h : (s.getTally ld).evt.free = 0
  · simp [s.putEvent_full r h]
  · have hw : ∀ a, (s.hostWrite ld a r).getTally ld = s.getTally ld := fun _ => rfl
    have hm : ∀ (u : State) v, (u.sendMsi ld v).getTally ld = u.getTally ld := fun u v => by simp [State.getTally]
    rw [s.putEvent_room r h]; dsimp only; split <;> simp [hm, hw]

@[simp] theorem State.putLog_getTally (r : List Byte) (d : Nat) : (s.putLog r).getTally d = s.getTally d := rfl
@[simp] theorem State.putLog_out (r : List Byte) : (s.putLog r).out = s.out := rfl

/-- The state in which the record of an event is put: the event is counted. -/
def State.noted (d : Nat) : State := s.updTally d fun t => { t with acc := { t.acc with events := satAt 32 (t.acc.events + 1) } }

theorem State.raiseAt_eq (code d unit cyc i1 i2 : Nat) :
    s.raiseAt code d unit cyc i1 i2 =
      let r := evtRecord code d unit s.ring.count cyc i1 i2
      let u := (s.noted d).putEvent d r
      if u.ready then u else u.putLog r := rfl

theorem State.raiseAt_getTally (code d unit cyc i1 i2 : Nat) : (s.raiseAt code d unit cyc i1 i2).getTally d =
    ((s.noted d).putEvent d (evtRecord code d unit s.ring.count cyc i1 i2)).getTally d := by
  rw [State.raiseAt_eq]; dsimp only; split <;> simp

theorem State.raiseAt_out (code d unit cyc i1 i2 : Nat) : (s.raiseAt code d unit cyc i1 i2).out =
    ((s.noted d).putEvent d (evtRecord code d unit s.ring.count cyc i1 i2)).out := by
  rw [State.raiseAt_eq]; dsimp only; split <;> simp

/-- An event alone does not mark the step. -/
theorem State.raiseAt_acc (code d unit cyc i1 i2 : Nat) : ((s.raiseAt code d unit cyc i1 i2).getTally d).acc =
    { (s.getTally d).acc with events := satAt 32 ((s.getTally d).acc.events + 1) } := by
  rw [State.raiseAt_getTally, State.putEvent_acc]; simp [State.noted]

theorem State.raiseAt_raised (code d unit cyc i1 i2 : Nat) : Raised s (s.raiseAt code d unit cyc i1 i2) d code unit cyc i1 i2 := by
  have hevt : ((s.noted d).getTally d).evt = (s.getTally d).evt := by simp [State.noted]
  refine ⟨by rw [State.raiseAt_acc], fun hfull => ?_, fun hroom => ?_⟩
  · rw [State.raiseAt_getTally, State.putEvent_full _ _ (hevt ▸ hfull)]; simp [State.noted]
  · rw [State.raiseAt_out, ← hevt]
    exact State.putEvent_out _ _ (hevt ▸ hroom)

/-- An event reported on another state with the step, the event ring, the ring time and the log of `s` is reported on `s`. -/
theorem raised_of_same_step {s u t : State} {code d unit cyc i1 i2 : Nat} (htally : u.getTally d = s.getTally d) (hout : u.out = s.out)
    (hring : u.ring = s.ring) (h : Raised u t d code unit cyc i1 i2) : Raised s t d code unit cyc i1 i2 := by
  rw [Raised, htally, hout, hring] at h; exact h

theorem State.stand_eq_of_quiet {s t : State} (h : t.quiet = s.quiet) : t.stand = s.stand := congrArg (·.2.1) h
theorem State.net_eq_of_quiet {s t : State} (h : t.quiet = s.quiet) : t.net = s.net := congrArg (·.2.2.1) h

@[simp] theorem State.raiseAt_getStand (code d unit cyc i1 i2 st : Nat) : (s.raiseAt code d unit cyc i1 i2).getStand st = s.getStand st := by
  simp only [State.getStand, State.stand_eq_of_quiet (s.raiseAt_quiet ..)]
@[simp] theorem State.raiseAt_net (code d unit cyc i1 i2 : Nat) : (s.raiseAt code d unit cyc i1 i2).net = s.net :=
  State.net_eq_of_quiet (s.raiseAt_quiet ..)

/-- The parts that `far` collects are those that `DeviceKept` speaks of. -/
theorem deviceKept_of_far {s t : State} (h : t.far = s.far) : DeviceKept s t := by
  simp only [State.far, Prod.mk.injEq] at h
  obtain ⟨ring, cmp, therm, repair, bcast, mem, ael, weight, notch, queue, hub, prot, sec, flash, pins, pending⟩ := h
  exact { ring, cmp, therm, repair, bcast, mem, ael, weight, notch, queue, hub, prot, sec, flash, pins, pending }

end Sys2Proof.Machine
end

section
/-! SUPPORT. The fence of a tenancy domain (R144): what it does to an arrival, and which arrivals it meets; then the statement about it. -/

namespace Sys2Proof.Machine

variable {s : State} {st d : Nat}

/-- The state with another network. -/
def State.withNet (s : State) (net : NetSt) : State := { s with net := net }

@[simp] theorem State.withNet_getStand (s : State) (net : NetSt) (j : Nat) : (s.withNet net).getStand j = s.getStand j := rfl
@[simp] theorem State.withNet_getTally (s : State) (net : NetSt) (j : Nat) : (s.withNet net).getTally j = s.getTally j := rfl
@[simp] theorem State.withNet_standNow (s : State) (net : NetSt) (j : Nat) : (s.withNet net).standNow j = s.standNow j := rfl
@[simp] theorem State.withNet_net (s : State) (net : NetSt) : (s.withNet net).net = net := rfl
@[simp] theorem State.withNet_far (s : State) (net : NetSt) : (s.withNet net).far = s.far := rfl

/-- The arrival that a stand's fence drops is counted. -/
def State.countFenced (s : State) (st : Nat) : State := s.updStand st fun x => { x with fence := x.fence.add 1 }

@[simp] theorem State.countFenced_getStand (s : State) (st : Nat) :
    (s.countFenced st).getStand st = { s.getStand st with fence := (s.getStand st).fence.add 1 } := State.getStand_updStand ..
theorem State.countFenced_getStand_ne (s : State) {j : Nat} (h : j ≠ st) : (s.countFenced st).getStand j = s.getStand j :=
  State.getStand_updStand_ne _ _ _ h.symm
@[simp] theorem State.countFenced_getTally (s : State) (st j : Nat) : (s.countFenced st).getTally j = s.getTally j := rfl
@[simp] theorem State.countFenced_net (s : State) (st : Nat) : (s.countFenced st).net = s.net := rfl
@[simp] theorem State.countFenced_far (s : State) (st : Nat) : (s.countFenced st).far = s.far := rfl

/-- The fence counts the arrival, then reports it. -/
theorem State.fenced_eq (src : Nat) (hctx : (s.getStand st).ctx = some d) :
    s.fenced st src = (s.countFenced st).raiseAt 0x0207 d (standUnit st 3) (s.standNow st) src 0 := by
  unfold State.fenced; simp only [State.getStand_updStand, hctx]; rfl

theorem State.withNet_fenced_net (net : NetSt) (src : Nat) (hctx : (s.getStand st).ctx = some d) : ((s.withNet net).fenced st src).net = net := by
  rw [State.fenced_eq (s := s.withNet net) src hctx]; simp

/-- An arrival taken off the network and dropped by the fence has no other effect than to be counted and reported. -/
theorem fenced_withNet (net : NetSt) (src : Nat) (hctx : (s.getStand st).ctx = some d) :
    Fenced s ((s.withNet net).fenced st src) st d src := by
  rw [State.fenced_eq (s := s.withNet net) src hctx, State.withNet_standNow]
  have htally : ((s.withNet net).countFenced st).getTally d = s.getTally d := by simp
  have hraised := raised_of_same_step htally rfl rfl
    (State.raiseAt_raised ((s.withNet net).countFenced st) 0x0207 d (standUnit st 3) (s.standNow st) src 0)
  generalize ht : ((s.withNet net).countFenced st).raiseAt 0x0207 d (standUnit st 3) (s.standNow st) src 0 = t at hraised ⊢
  have hstand : t.getStand st = { s.getStand st with fence := (s.getStand st).fence.add 1 } := by simp [← ht]
  have hothers : OthersKept s t st := fun j hj => by simp [← ht, State.countFenced_getStand_ne _ hj]
  have hacc : (t.getTally d).acc = { (s.getTally d).acc with events := satAt 32 ((s.getTally d).acc.events + 1) } := by
    rw [← ht, State.raiseAt_acc, htally]
  have hdevice : DeviceKept s t := deviceKept_of_far (by simp [← ht])
  simp [Fenced, DeckKept, RegsKept, PlanKept, hstand, hacc, hraised, hothers, hdevice]

/-- A circuit flit from another domain meets the fence before anything else of it is looked at. -/
theorem flitArrival_fenced {f : Flit} (corrupt : Bool) (hf : (s.net.flits.find? fun f => f.loc == .stand st) = some f)
    (hdom : (s.getStand st).ctx ≠ some f.dom) : flitArrival st corrupt s =
      (s.withNet { s.net with flits := dropFirst (· == f) s.net.flits }).fenced st f.srcEnd.srcCode := by
  unfold flitArrival; rw [hf]; exact if_pos hdom

/-- The network once a packet has been taken out of its buffer. -/
def State.netWithout (s : State) (p : Packet) : NetSt := (s.dropPacket p).net

@[simp] theorem State.netWithout_pkts (s : State) (p : Packet) : (s.netWithout p).pkts = dropFirst (· == p) s.net.pkts := rfl
@[simp] theorem State.netWithout_flits (s : State) (p : Packet) : (s.netWithout p).flits = s.net.flits := rfl

/-- A packet from another domain meets the fence before its check and the order of its channel. -/
theorem State.takePacket_fenced {want : Payload → Bool} {p : Packet} (corrupt : Bool) (hp : FirstAt s (.stand st) want p)
    (hdom : (s.getStand st).ctx ≠ some p.dom) :
    s.takePacket (.stand st) corrupt want = ((s.withNet (s.netWithout p)).fenced st p.srcEnd.srcCode, none) := by
  obtain ⟨hkept, hfind, horder⟩ := hp
  unfold State.takePacket
  simp only [hkept, hfind, horder]
  simp [hdom]; rfl

/-! Where the fence gives nothing out, an arrival of any kind ends with it. -/

theorem tokenArrives_none {u : State} {corrupt : Bool}
    (h : s.takePacket (.stand st) corrupt (fun | .token .. => true | _ => false) = (u, none)) : tokenArrives (.stand st) corrupt s = u := by
  unfold tokenArrives; split; next heq => cases heq.symm.trans h; rfl

theorem atomicArrives_none {u : State} {corrupt : Bool}
    (h : s.takePacket (.stand st) corrupt (fun | .atomic .. => true | _ => false) = (u, none)) : atomicArrives st corrupt s = u := by
  unfold atomicArrives; split; next heq => cases heq.symm.trans h; rfl

theorem atomReplyArrives_none {u : State} {corrupt : Bool}
    (h : s.takePacket (.stand st) corrupt (fun | .atomReply .. => true | _ => false) = (u, none)) : atomReplyArrives st corrupt s = u := by
  unfold atomReplyArrives; split; next heq => cases heq.symm.trans h; rfl

theorem notchReplyArrives_none {u : State} {corrupt : Bool}
    (h : s.takePacket (.stand st) corrupt (fun | .notchReply .. => true | _ => false) = (u, none)) : notchReplyArrives st corrupt s = u := by
  unfold notchReplyArrives; split; next heq => cases heq.symm.trans h; rfl

/-- Settles O25: the fence is the first thing that an arrival of each kind meets (R144), and all that it does is to count and report. -/
theorem fenceDrops : Obligations.FenceDrops := by
  intro s st d corrupt hctx
  have outside : ∀ {dom}, dom ≠ d → (s.getStand st).ctx ≠ some dom := fun hd h => hd (Option.some.inj (h.symm.trans hctx))
  refine ⟨fun f hf hdom => ?_, fun c want hc p hp hdom => ?_⟩
  · refine ⟨_, congrArg Host.Outcome.next (flitArrival_fenced corrupt hf (outside hdom)), ?_, ?_, fenced_withNet _ _ hctx⟩ <;>
      simp [State.withNet_fenced_net _ _ hctx]
  · have htake := State.takePacket_fenced corrupt hp (outside hdom)
    have hexec : exec c s = .next ((s.withNet (s.netWithout p)).fenced st p.srcEnd.srcCode) := by
      obtain ⟨rfl, rfl⟩ | ⟨rfl, rfl⟩ | ⟨rfl, rfl⟩ | ⟨rfl, rfl⟩ := hc
      · exact congrArg _ (tokenArrives_none htake)
      · exact congrArg _ (atomicArrives_none htake)
      · exact congrArg _ (atomReplyArrives_none htake)
      · exact congrArg _ (notchReplyArrives_none htake)
    refine ⟨_, hexec, ?_, ?_, fenced_withNet _ _ hctx⟩ <;> simp [State.withNet_fenced_net _ _ hctx]

end Sys2Proof.Machine
end

section
/-! SUPPORT. What the issue of an instruction changes (R43, R47, R195): of its stand the counters it consumes, its stream and the count of issues, and beside the
stand the slip of the plan that runs it. -/

namespace Sys2Proof.Machine

variable (s : State)

/-! Events and slip (R48, R450) concern one plan context. -/

@[simp] theorem State.raiseAt_getCtx (code d unit cyc i1 i2 j : Nat) : (s.raiseAt code d unit cyc i1 i2).getCtx j = s.getCtx j := by
  have hctx : (s.raiseAt code d unit cyc i1 i2).ctx = s.ctx := congrArg (·.1) (s.raiseAt_quiet ..)
  simp only [State.getCtx, hctx]

theorem State.putEvent_getTally_ne {ld j : Nat} (r : List Byte) (h : ld ≠ j) : (s.putEvent ld r).getTally j = s.getTally j := by
  by_cases hfull : (s.getTally ld).evt.free = 0
  · rw [s.putEvent_full r hfull, State.getTally_updTally_ne _ _ _ h]
  · have hmsi : ∀ (u : State) v, (u.sendMsi ld v).getTally j = u.getTally j := fun u v => by simp [State.getTally]
    rw [s.putEvent_room r hfull]; dsimp only; split <;> simp only [hmsi, State.getTally_updTally_ne _ _ _ h] <;> rfl

theorem State.raiseAt_getTally_ne {d j : Nat} (code unit cyc i1 i2 : Nat) (h : d ≠ j) :
    (s.raiseAt code d unit cyc i1 i2).getTally j = s.getTally j := by
  rw [State.raiseAt_eq]; dsimp only
  split <;> simp only [State.putLog_getTally, State.putEvent_getTally_ne _ _ h] <;> exact State.getTally_updTally_ne _ _ _ h

@[simp] theorem State.updCtx_getStand (d j : Nat) (f : PlanCtx → PlanCtx) : (s.updCtx d f).getStand j = s.getStand j := rfl
@[simp] theorem State.updCtx_getTally (d j : Nat) (f : PlanCtx → PlanCtx) : (s.updCtx d f).getTally j = s.getTally j := rfl
@[simp] theorem State.updAcc_getStand (d j : Nat) (f : StepAcc → StepAcc) : (s.updAcc d f).getStand j = s.getStand j := rfl
@[simp] theorem State.updAcc_getCtx (d j : Nat) (f : StepAcc → StepAcc) : (s.updAcc d f).getCtx j = s.getCtx j := rfl
theorem State.updAcc_getTally_ne {d j : Nat} (f : StepAcc → StepAcc) (h : d ≠ j) : (s.updAcc d f).getTally j = s.getTally j :=
  State.getTally_updTally_ne _ _ _ h

/-- A slip is noted in the plan context alone, and no stand is written. -/
@[simp] theorem State.noteSlip_getStand (d unit late cyc j : Nat) : (s.noteSlip d unit late cyc).getStand j = s.getStand j := by
  unfold State.noteSlip; dsimp only; (repeat' split) <;> simp

theorem State.noteSlip_getCtx_ne {d j : Nat} (unit late cyc : Nat) (h : d ≠ j) : (s.noteSlip d unit late cyc).getCtx j = s.getCtx j := by
  unfold State.noteSlip; dsimp only; (repeat' split) <;> simp [State.getCtx_updCtx_ne _ _ _ h]

theorem State.noteSlip_getTally_ne {d j : Nat} (unit late cyc : Nat) (h : d ≠ j) :
    (s.noteSlip d unit late cyc).getTally j = s.getTally j := by
  unfold State.noteSlip; dsimp only
  (repeat' split) <;> simp [State.raiseAt_getTally_ne _ _ _ _ _ _ h, State.updAcc_getTally_ne _ _ h]

/-! The issue itself. -/

/-- A stand whose stream `k` has issued an instruction with header `h`, `late` cycles after its stamp. -/
def Stand.begun (t : Stand) (k : Nat) (h : Hdr) (rcomb : Option Nat) (late next free : Nat) : Stand :=
  { t.updStream k (·.issued late next free) with
    tok := if h.wt = 0 then t.tok else tput t.tok h.wt ((t.getTok h.wt).take (tokNeed h rcomb))
    cred := if h.wc = 0 then t.cred else tput t.cred h.wc ((t.getCred h.wc).take (credNeed h))
    issued := t.issued.add 1 }

variable {st k : Nat} {h : Hdr}

theorem State.running_ctx {d : Nat} (hrun : s.running st = some d) : (s.getStand st).ctx = some d := by
  unfold State.running at hrun
  split at hrun
  next c hctx =>
    split at hrun
    · exact hctx.trans hrun
    · cases hrun
  next => cases hrun

/-- The stand in the issue cycle of an instruction that no parity error of its stores meets. -/
theorem State.beginIssue_getStand (rcomb : Option Nat) (occ : Nat) (hpar : h.parity = none) :
    (s.beginIssue st k h rcomb occ).getStand st =
      (s.getStand st).begun k h rcomb (s.standNow st - effStamp h ((s.getStand st).getStream k).loops)
        (s.after st (s.standNow st) 1) (if occ = 0 then 0 else s.after st (s.standNow st) occ) := by
  unfold State.beginIssue State.consume; simp only [hpar]
  split <;> simp only [State.noteSlip_getStand, State.getStand_updStand] <;> rfl

/-- No plan context but the one that the stand belongs to notes the issue. -/
theorem State.beginIssue_contexts {j : Nat} (rcomb : Option Nat) (occ : Nat) (hpar : h.parity = none)
    (hctx : (s.getStand st).ctx ≠ some j) :
    (s.beginIssue st k h rcomb occ).getCtx j = s.getCtx j ∧ (s.beginIssue st k h rcomb occ).getTally j = s.getTally j := by
  unfold State.beginIssue State.consume; simp only [hpar]
  split
  next d hrun =>
    have hd : d ≠ j := by
      rintro rfl
      have hctx' := State.running_ctx _ hrun
      simp only [State.getStand_updStand] at hctx'
      exact hctx hctx'
    rw [State.noteSlip_getCtx_ne _ _ _ _ hd, State.noteSlip_getTally_ne _ _ _ _ hd]
    exact ⟨rfl, rfl⟩
  next => exact ⟨rfl, rfl⟩

/-- The issue of an instruction that no parity error of its stores meets keeps what `IssueFrame` says. -/
theorem issueFrame_beginIssue (rcomb : Option Nat) (occ : Nat) (hpar : h.parity = none) :
    IssueFrame s (s.beginIssue st k h rcomb occ) st where
  device := deviceKept_of_far (by simp)
  others _ hj := State.getStand_of_others (by simp) hj
  plan := by rw [PlanKept, s.beginIssue_getStand rcomb occ hpar]; exact ⟨rfl, rfl, rfl, rfl⟩
  deck := by rw [DeckKept, s.beginIssue_getStand rcomb occ hpar]; exact ⟨rfl, rfl, rfl, rfl, rfl⟩
  contexts _ hctx := s.beginIssue_contexts rcomb occ hpar hctx

end Sys2Proof.Machine
end

section
/-! SUPPORT. The address operations (R205) and the plan constants (R206): what an address operation writes and leaves; then the statement about AR_CONST. -/

namespace Sys2Proof.Machine

variable {s : State} {st k stamp rd : Nat} {v : Stand → Nat}

/-- The stand after an address operation: that after its issue, with the one register written. -/
theorem arEffect_getStand : (arEffect st k stamp rd v s).getStand st =
    let t := (s.beginIssue st k { stamp := stamp } none 0).getStand st
    { t with ar := tput t.ar rd (v t % 2 ^ 64) } := State.getStand_updStand ..

theorem arEffect_getAr_same (n : Nat) : ((arEffect st k stamp rd (fun _ => n) s).getStand st).getAr rd = n % 2 ^ 64 := by
  rw [arEffect_getStand]; exact tget_tput_self ..

theorem arEffect_getAr_ne {r : Nat} (h : r ≠ rd) : ((arEffect st k stamp rd v s).getStand st).getAr r = (s.getStand st).getAr r := by
  rw [arEffect_getStand, State.beginIssue_getStand _ _ _ rfl]; exact tget_tput_ne _ _ _ h.symm

/-- Beyond the issue, an address operation writes nothing that `IssueFrame` speaks of. -/
theorem issueFrame_arEffect : IssueFrame s (arEffect st k stamp rd v s) st := by
  obtain ⟨_, _, plan, deck, contexts⟩ := issueFrame_beginIssue s (st := st) (k := k) (h := { stamp := stamp }) none 0 rfl
  refine ⟨deviceKept_of_far (by simp), fun _ hj => State.getStand_of_others (by simp) hj, ?_, ?_, contexts⟩
  · rw [PlanKept, arEffect_getStand]; exact plan
  · rw [DeckKept, arEffect_getStand]; exact deck

/-- The plan constants of a stand of context `d`, by SEL (R206). -/
def constantsBySel (s : State) (st d : Nat) : List (Nat × Nat) :=
  [(0, (s.getCtx d).stands), (1, 32 * (st / 32) + st % 32), (2, st / 32), (3, st % 32),
   (4, if st % 32 < 16 then st % 32 else st % 32 - 16 + (s.getCtx d).stands / 2), (5, (s.getCtx d).ringInStep), (6, (s.getCtx d).step),
   (7, s.logicalId d)]

theorem planConst_of_mem {d : Nat} {p : Nat × Nat} (hctx : (s.getStand st).ctx = some d) (hp : p ∈ constantsBySel s st d) :
    p.1 < 8 ∧ s.planConst st p.1 = p.2 := by
  simp only [constantsBySel, List.mem_cons, List.not_mem_nil, or_false] at hp
  obtain rfl | rfl | rfl | rfl | rfl | rfl | rfl | rfl := hp <;> simp [State.planConst, hctx, Nat.div_add_mod]

theorem exec_arConst (sel : Nat) : exec (.arConst st k stamp rd sel) s = execArConst st k stamp rd sel s := rfl

theorem exec_arConst_goes {sel : Nat} (hsel : sel < 8) (hgoes : Goes s st k (.arConst st k stamp rd sel)) :
    exec (.arConst st k stamp rd sel) s = .next (arEffect st k stamp rd (fun _ => s.planConst st sel) s) := by
  obtain ⟨hhead, hgo⟩ := hgoes
  rw [exec_arConst, execArConst, if_neg (Nat.not_le.mpr hsel), s.issue_go hhead hgo]

theorem exec_arConst_reserved {sel : Nat} (hsel : 8 ≤ sel) :
    exec (.arConst st k stamp rd sel) s = .refused (.reserved "AR_CONST SEL") := by
  rw [exec_arConst, execArConst, if_pos hsel]

/-- Settles O12: AR_CONST is an address operation on the plan constant of its SEL. -/
theorem planConstants : Obligations.PlanConstants := by
  intro s st k stamp rd d _ hctx
  refine ⟨fun p hp hgoes => ?_, fun sel hsel _ => exec_arConst_reserved hsel⟩
  obtain ⟨hsel, hconst⟩ := planConst_of_mem hctx hp
  refine ⟨_, exec_arConst_goes hsel hgoes, ?_, fun r hr => arEffect_getAr_ne hr, issueFrame_arEffect⟩
  rw [arEffect_getAr_same, hconst]

end Sys2Proof.Machine
end

section
/-! SUPPORT. The owner's queue commands (R307): that an access of a context changes no queue, how a queue goes to FAULTED, and what each command does to the
one queue it names; then the statement about them. -/

namespace Sys2Proof.Machine

/-! The access of a context (R309) and the fault of a queue (R306). -/

theorem State.getQueue_eq_of_queue {s t : State} (h : t.queue = s.queue) (j : Nat) : t.getQueue j = s.getQueue j := by
  simp only [State.getQueue, h]

@[simp] theorem State.updQld_getQueue (s : State) (d j : Nat) (f : QueueLd → QueueLd) : (s.updQld d f).getQueue j = s.getQueue j := rfl

@[simp] theorem State.raiseFail_queue (s : State) (code d unit cyc i1 i2 : Nat) : (s.raiseFail code d unit cyc i1 i2).queue = s.queue :=
  (deviceKept_of_far (s.raiseFail_far ..)).queue

@[simp] theorem State.noteMem_queue (s : State) (dom kind cls a cause count stand item : Nat) :
    (s.noteMem dom kind cls a cause count stand item).queue = s.queue := rfl

/-- A read of the system window may report an error of the memory, which says nothing of the queues. -/
@[simp] theorem State.readSystem_queue (s : State) (d a n : Nat) : (s.readSystem d a n).1.queue = s.queue := by
  unfold State.readSystem; dsimp only
  split
  · rfl
  · split
    · rfl
    · dsimp only; split <;> simp

@[simp] theorem State.readContext_queue (s : State) (d q : Nat) : (s.readContext d q).queue = s.queue := s.readSystem_queue ..

/-- What the cache of contexts holds changes no context (R309). -/
@[simp] theorem State.touchQueue_getQueue (s : State) (d q j : Nat) : (s.touchQueue d q).getQueue j = s.getQueue j := by
  unfold State.touchQueue; dsimp only
  split
  · exact State.getQueue_eq_of_queue (State.readContext_queue ..) j
  · rfl

/-- A fault other than the expiry of a WAIT is what R306 says of it. -/
theorem queueFaulted_faultQueue (s : State) (d q idx : Nat) {status : Nat} (hstatus : status ≠ 1) :
    QueueFaulted s (s.faultQueue d q status idx) d q status idx := by
  unfold State.faultQueue; simp only [if_neg hstatus]
  generalize hu : State.updQld _ d _ = u
  have hkept := deviceKept_of_far (u.raiseAt_far 0x0405 d noUnit (u.getCmp 19).loc q status)
  have hquiet := u.raiseAt_quiet 0x0405 d noUnit (u.getCmp 19).loc q status
  have hraised := u.raiseAt_raised 0x0405 d noUnit (u.getCmp 19).loc q status
  have hqueue := State.getQueue_eq_of_queue hkept.queue
  subst hu
  refine ⟨(hqueue q).trans (by simp), fun j hj => (hqueue j).trans (by simp [State.getQueue_updQueue_ne _ _ _ hj.symm]),
    fun _ => raised_of_same_step rfl rfl rfl hraised, State.stand_eq_of_quiet hquiet, congrArg (·.1) hquiet, hkept.notch, hkept.hub,
    hkept.prot, hkept.pending⟩

/-! What the commands do to a queue of the LD, and to its context: the table of R307. -/

/-- ENABLE of a queue whose context is at hand. -/
def enableOwn (d q : Nat) (s : State) : State :=
  if (s.getQueue q).state ≠ 0 then s
  else if (s.getQueue q).defWait = 0 then s.faultQueue d q 2 (s.getQueue q).cons
  else s.updQueue q fun x => { x with state := 1 }

/-- RESUME of a queue whose context is at hand. -/
def resumeOwn (q : Nat) (s : State) : State := if (s.getQueue q).state = 3 then s.updQueue q fun x => { x with state := 1 } else s

def Queue.enabled (x : Queue) : Queue :=
  if x.state ≠ 0 then x else if x.defWait = 0 then { x with state := 3, status := 2, faultIdx := x.cons } else { x with state := 1 }
def Queue.disabled (x : Queue) : Queue := { x with state := 0, met := false }
def Queue.resumed (x : Queue) : Queue := if x.state = 3 then { x with state := 1 } else x
def Queue.restarted (x : Queue) : Queue := { x with state := 0, cons := x.prod, status := 0, met := false }

/-- Instruction `c` is a command of LD `d` on queue `q`: where the queue is of the LD's range, it does `f` once the context is at hand, and `f` does `g` to
the context and nothing to another queue's; `g` is idempotent. -/
structure QueueCommand (d q : Nat) (c : Instr) (f : State → State) (g : Queue → Queue) : Prop where
  exec_eq : ∀ s, exec c s = .next (s.asLd d 0x480010 fun s => s.onQueue d q f)
  same : ∀ s, (f s).getQueue q = g (s.getQueue q)
  others : ∀ s j, j ≠ q → (f s).getQueue j = s.getQueue j
  idem : ∀ x, g (g x) = g x

theorem Queue.enabled_idem (x : Queue) : x.enabled.enabled = x.enabled := by
  by_cases hstate : x.state = 0 <;> by_cases hwait : x.defWait = 0 <;> simp [Queue.enabled, hstate, hwait]

theorem Queue.resumed_idem (x : Queue) : x.resumed.resumed = x.resumed := by
  by_cases hstate : x.state = 3 <;> simp [Queue.resumed, hstate]

variable (d q : Nat)

section Own
variable {d q} {s : State}

theorem enableOwn_on (h : (s.getQueue q).state ≠ 0) : enableOwn d q s = s := if_pos h
theorem enableOwn_fault (h : (s.getQueue q).state = 0) (hwait : (s.getQueue q).defWait = 0) :
    enableOwn d q s = s.faultQueue d q 2 (s.getQueue q).cons := by simp [enableOwn, h, hwait]
theorem enableOwn_off (h : (s.getQueue q).state = 0) (hwait : (s.getQueue q).defWait ≠ 0) :
    enableOwn d q s = s.updQueue q fun x => { x with state := 1 } := by simp [enableOwn, h, hwait]
theorem resumeOwn_faulted (h : (s.getQueue q).state = 3) : resumeOwn q s = s.updQueue q fun x => { x with state := 1 } := if_pos h
theorem resumeOwn_other (h : (s.getQueue q).state ≠ 3) : resumeOwn q s = s := if_neg h

/-- ENABLE by the state of the queue: no effect, a fault, or ACTIVE. -/
theorem enableOwn_getQueue : (enableOwn d q s).getQueue q = (s.getQueue q).enabled ∧ ∀ j, j ≠ q → (enableOwn d q s).getQueue j = s.getQueue j := by
  by_cases hstate : (s.getQueue q).state = 0
  · by_cases hwait : (s.getQueue q).defWait = 0
    · obtain ⟨hsame, hothers, -⟩ := queueFaulted_faultQueue s d q (s.getQueue q).cons (status := 2) (by decide)
      rw [enableOwn_fault hstate hwait]
      exact ⟨by simp [hsame, Queue.enabled, hstate, hwait], hothers⟩
    · rw [enableOwn_off hstate hwait]
      exact ⟨by simp [Queue.enabled, hstate, hwait], fun j hj => State.getQueue_updQueue_ne _ _ _ hj.symm⟩
  · rw [enableOwn_on hstate]; exact ⟨by simp [Queue.enabled, hstate], fun _ _ => rfl⟩

theorem resumeOwn_getQueue : (resumeOwn q s).getQueue q = (s.getQueue q).resumed ∧ ∀ j, j ≠ q → (resumeOwn q s).getQueue j = s.getQueue j := by
  by_cases hstate : (s.getQueue q).state = 3
  · rw [resumeOwn_faulted hstate]
    exact ⟨by simp [Queue.resumed, hstate], fun j hj => State.getQueue_updQueue_ne _ _ _ hj.symm⟩
  · rw [resumeOwn_other hstate]; exact ⟨by simp [Queue.resumed, hstate], fun _ _ => rfl⟩

end Own

theorem queueCommand_enable : QueueCommand d q (.enable d q) (enableOwn d q) Queue.enabled :=
  ⟨fun _ => rfl, fun _ => enableOwn_getQueue.1, fun _ => enableOwn_getQueue.2, Queue.enabled_idem⟩
theorem queueCommand_disable : QueueCommand d q (.disable d q) (·.updQueue q Queue.disabled) Queue.disabled :=
  ⟨fun _ => rfl, fun s => s.getQueue_updQueue .., fun s _ hj => s.getQueue_updQueue_ne _ _ hj.symm, fun _ => rfl⟩
theorem queueCommand_resume : QueueCommand d q (.resume d q) (resumeOwn q) Queue.resumed :=
  ⟨fun _ => rfl, fun _ => resumeOwn_getQueue.1, fun _ => resumeOwn_getQueue.2, Queue.resumed_idem⟩
theorem queueCommand_reset : QueueCommand d q (.queueReset d q) (·.updQueue q Queue.restarted) Queue.restarted :=
  ⟨fun _ => rfl, fun s => s.getQueue_updQueue .., fun s _ hj => s.getQueue_updQueue_ne _ _ hj.symm, fun _ => rfl⟩

variable {d q}

theorem queueCommand_of_mem {c : Instr} (hc : c ∈ [Instr.enable d q, .disable d q, .resume d q, .queueReset d q]) : ∃ f g, QueueCommand d q c f g := by
  simp only [List.mem_cons, List.not_mem_nil, or_false] at hc
  obtain rfl | rfl | rfl | rfl := hc
  · exact ⟨_, _, queueCommand_enable d q⟩
  · exact ⟨_, _, queueCommand_disable d q⟩
  · exact ⟨_, _, queueCommand_resume d q⟩
  · exact ⟨_, _, queueCommand_reset d q⟩

/-! What follows for every command. -/

namespace QueueCommand
variable {s : State} {c : Instr} {f : State → State} {g : Queue → Queue} (hc : QueueCommand d q c f g)
include hc

theorem exec_mine (hseen : s.seen d = true) (hdom : s.queueDom q = some d) : exec c s = .next (f (s.touchQueue d q)) := by
  rw [hc.exec_eq, s.asLd_seen _ hseen, s.onQueue_mine _ hdom]

theorem exec_other (hseen : s.seen d = true) (hdom : s.queueDom q ≠ some d) : exec c s = .next s := by
  rw [hc.exec_eq, s.asLd_seen _ hseen, s.onQueue_other _ hdom]

/-- In any state a command leaves the contexts as they are, or does to the one it names what it does to it. -/
theorem getQueue_cases {t : State} (hexec : exec c s = .next t) : (∀ j, t.getQueue j = s.getQueue j) ∨
    (t.getQueue q = g (s.getQueue q) ∧ ∀ j, j ≠ q → t.getQueue j = s.getQueue j) := by
  by_cases hseen : s.seen d = true
  · by_cases hdom : s.queueDom q = some d
    · cases (hc.exec_mine hseen hdom).symm.trans hexec
      exact .inr ⟨by simp [hc.same], fun j hj => by simp [hc.others _ j hj]⟩
    · cases (hc.exec_other hseen hdom).symm.trans hexec
      exact .inl fun _ => rfl
  · rw [hc.exec_eq, s.asLd_unseen _ (eq_false_of_ne_true hseen)] at hexec
    cases hexec
    exact .inl fun _ => rfl

/-- The command given again does nothing to any context. -/
theorem twice {t u : State} (hseen : s.seen d = true) (ht : exec c s = .next t) (hu : exec c t = .next u) (j : Nat) : u.getQueue j = t.getQueue j := by
  by_cases hdom : s.queueDom q = some d
  · cases (hc.exec_mine hseen hdom).symm.trans ht
    obtain hall | ⟨hsame, hothers⟩ := hc.getQueue_cases hu
    · exact hall j
    · by_cases hj : j = q
      · rw [hj, hsame, hc.same, hc.idem]
      · exact hothers j hj
  · cases (hc.exec_other hseen hdom).symm.trans ht
    cases (hc.exec_other hseen hdom).symm.trans hu
    rfl

end QueueCommand

/-- Settles O37: each command is a `QueueCommand`, which gives what holds of all four; the table of R307 is what each does to the queue it names. -/
theorem queueCommands : Obligations.QueueCommands := by
  refine ⟨fun _ => rfl, fun s d q hseen => ⟨fun c hc t u ht hu j => ?_, fun hdom c hc => ?_, fun hdom => ?_⟩⟩
  · obtain ⟨f, g, hcommand⟩ := queueCommand_of_mem hc
    exact hcommand.twice hseen ht hu j
  · obtain ⟨f, g, hcommand⟩ := queueCommand_of_mem hc
    exact hcommand.exec_other hseen hdom
  · have hsame := s.touchQueue_getQueue d q q
    have henable := (queueCommand_enable d q).exec_mine hseen hdom
    have hresume := (queueCommand_resume d q).exec_mine hseen hdom
    rw [← hsame]
    refine ⟨fun hstate hwait => ?_, fun hstate hwait => ?_, fun hstate => ?_, (queueCommand_disable d q).exec_mine hseen hdom,
      fun hstate => ?_, fun hstate => ?_, (queueCommand_reset d q).exec_mine hseen hdom⟩
    · rw [henable, enableOwn_off hstate hwait]
    · exact ⟨_, henable.trans (congrArg _ (enableOwn_fault hstate hwait)), queueFaulted_faultQueue _ d q _ (by decide)⟩
    · rw [henable, enableOwn_on hstate]
    · rw [hresume, resumeOwn_faulted hstate]
    · rw [hresume, resumeOwn_other hstate]

end Sys2Proof.Machine
end
